-- ==== Sys2Proof/Word.lean ====
section
/-! DEFINITION. The words the part moves: bytes, halfwords, the 32-bit word of a beat, ticks and seniority numbers. -/

namespace Sys2Proof

/-- One voice sample or record byte. -/
abbrev Byte := BitVec 8

/-- One 32-bit word: the data of a beat (00_scope, "beat"). -/
abbrev Word := BitVec 32

/-- A tick stamp: 100 ms units, compared modulo 2^32 (00_scope, "Numbers and time"). -/
abbrev Tick := BitVec 32

/-- A seniority number (R9). -/
abbrev Seniority := BitVec 48

end Sys2Proof
end

