-- ==== Sys2Proof/Syntax.lean ====
section
/-! DEFINITION. The commands the part takes, one constructor per row of spec/opcode_table.json. -/

namespace Sys2Proof

/-- A write beat on the upstream port: master tag, address, data, byte enables (00_scope "beat"; 09 "Pins"). Bit i of
`enables` is the lane of the byte at address + i. -/
structure WriteBeat where
  tag : BitVec 2
  address : Word
  data : Word
  enables : BitVec 4
  deriving DecidableEq, Repr

/-- A read beat on the upstream port. -/
structure ReadBeat where
  tag : BitVec 2
  address : Word
  enables : BitVec 4
  deriving DecidableEq, Repr

/-- A beat of either direction, as it waits on the upstream port or for a memory-side slot. -/
inductive Beat where
  | write (b : WriteBeat)
  | read (b : ReadBeat)
  deriving DecidableEq, Repr

/-- The commands. Those without operands act on what State holds at the front of a queue of the part's own: the intake's
oldest entry (R150), the work list's front trigger (R68), the deadline list's front entry (R24), the outstanding burst. -/
inductive Instr where
  -- call commands handed over by the intake (R7)
  | enqueue
  | abandon
  | answer
  | noAnswer
  | hold
  | resume
  | transfer
  | release
  | priority
  | announce
  -- agent commands handed over by the intake (R50)
  | login
  | ready
  | notReady
  | logout
  | skills
  | extendWrap
  | flagWrite
  -- queue commands handed over by the intake (R30)
  | openQueue
  | closeQueue
  | pauseQueue
  | unpauseQueue
  | applyQueue
  | resetCounters
  -- part commands handed over by the intake (R151)
  | enable
  | disable
  | restart
  | libraryApply
  | eventPop
  | summaryClear
  | feedClear
  | timebaseClear
  -- the intake and the upstream port (R145 to R150)
  | unknownCommand
  | commandWordWrite (beat : WriteBeat)
  | heldCommandBeat
  | stagingWrite (beat : WriteBeat)
  | feedCountedWrite (beat : WriteBeat)
  | voiceRead (beat : ReadBeat)
  | eventWindowRead (beat : ReadBeat)
  -- the Time Base (R131 to R133); `early`: less than half a reference period after the last pulse taken as a frame
  | fsyncPulse (early : Bool)
  | referencePeriodEnd
  | timebaseSubst
  | tick
  -- the deadline list (R24)
  | offerExpiry
  | maxWaitDue
  | overflowDue
  -- per-tick events of one agent or queue, and the estimator's samples (R65, R87, R97, R99)
  | agentTick (agent : Nat)
  | wrapCountdownEnd (agent : Nat)
  | handleTimeSample (index : Nat)
  | ewtRepublish (queue : Nat)
  -- the Match Engine (R68 to R75)
  | agentTrigger
  | callTrigger
  | queueTrigger
  | commit
  -- the Playout Engine (R122 to R129)
  | generatedGroup (context : Nat)
  | fetchGrant
  | burstArrival (first second : Word)
  | fetchError
  | interjectionTick (context : Nat)
  | interjection (context : Nat)
  -- the Feed Monitor's ticks (R137, R138)
  | feedArmingTick (feed : Nat)
  | armingRestart (feed : Nat)
  | feedArmed (feed : Nat)
  | feedMissing (feed : Nat)
  -- loading (R152 to R155)
  | configReadDone (data : List Word)
  | loadingReadGrant (beats : Nat)
  | loadingReadDone (data : List Word)
  | loadFault
  -- pins and the memory-side port (R155, R157)
  | reset
  | resetRelease (straps : BitVec 4)
  | passThroughBeatGrant
  deriving DecidableEq, Repr

end Sys2Proof
end

