-- ==== Sys2Proof/Decode.lean ====
section
/-! DEFINITION. Reading a command from a table word: no row of spec/opcode_table.json gives bits. -/

namespace Sys2Proof

/-- The command a table word spells. The table's rows are operations and events without an encoding ("fields" is empty
in every row, and no row has "fixed" bits), so no word spells one. -/
def decodeTableWord (nbits w : Nat) : Option Instr :=
  match nbits, w with
  | _, _ => none

end Sys2Proof
end

