-- ==== Sys2Proof/Config.lean ====
section
/-! DEFINITION. What the part fixes: its capacities, and the one value the spec leaves open. -/

namespace Sys2Proof.Config

/-- Call records (R1). -/
def numCalls : Nat := 2048
/-- Agent records (R46). -/
def numAgents : Nat := 1024
/-- Queue records (R26). -/
def numQueues : Nat := 64
/-- Playout contexts (R108). -/
def numContexts : Nat := 512
/-- Voice channels (R111). -/
def numChannels : Nat := 2048
/-- Live feeds (R135). -/
def numFeeds : Nat := 4
/-- Segment descriptors and programs of the library (R113). -/
def numSegments : Nat := 256
def numPrograms : Nat := 64
/-- Steps of a program (R113). -/
def stepsPerProgram : Nat := 16
/-- Entries of the Command Intake (R148). -/
def intakeDepth : Nat := 32
/-- Capacity of the dispatch queue and of the notice queue (R160). -/
def dispatchDepth : Nat := 128
def noticeDepth : Nat := 256
/-- Frames in a tick (R131), and so samples in a tick (R117). -/
def framesPerTick : Nat := 800
/-- Capacity of a prefetch buffer, and the fill up to which groups are asked for (R124). -/
def bufferDepth : Nat := 16
def lowWater : Nat := 8
/-- Largest group of samples (R124). -/
def groupSize : Nat := 8
/-- Depth of a return stack (R120). -/
def stackDepth : Nat := 4
/-- Step beginnings in a row that stop a context (R115). -/
def maxBeginnings : Nat := 16
/-- Overflow moves of one call (R39). -/
def maxHops : Nat := 3
/-- Consecutive pass-through beats after which the part's own side is granted (R127). -/
def passLimit : Nat := 8
/-- The largest tick count a 16-bit field holds; also the EWT without staff (R100). -/
def maxTicks : Nat := 65535
/-- Largest smoothed handle time, 16 × 65,535 (R95). -/
def maxHandle : Nat := 1048560
/-- The margin of the lap rejoin (R141). -/
def lapMargin : Nat := 64

/-- FREE VALUE (log 11). The count that results when passes remaining or bursts remaining is lowered by 1 from 0:
a CALL's return record holds 0 for both (R120), a RETURN resumes with them (R121), and R116 and R117 lower them at the
end of a pass or period when the step's argument is not 0; the spec states no result there. Applied to a counter in
State, so that each use is a fresh value. -/
opaque loweredZero : Nat → BitVec 16

end Sys2Proof.Config
end

