-- ==== Sys2Proof/Machine/State.lean ====
section
/-! DEFINITION. The state of the part, block by block as 00_scope's block diagram has it, and the state after cold
reset. Record tables are sparse: a list of (index, record) with indexes rising and no record equal to the cold one
(`Machine/Table.lean` reads and writes them). -/

namespace Sys2Proof.Machine

/-- A sparse table: an index that is not listed holds the table's cold record. -/
abbrev Table (α : Type) := List (Nat × α)

/-! ### Results (00_scope "The result field", R168) -/

/-- The result codes, in the order of R168's table. -/
inductive ResultCode where
  | ok | okClamped | okPending | okNoPlayout
  | wrongState | tooLate | queueClosed | queueFull | badQueue | badField | duplicateSkill | marked | stackFull
  | noPlayout | stale | stillMissing | torn | unknown | notActive | configError
  deriving DecidableEq, Repr

/-- A result field: code and token of the last command executed, and its result. -/
structure CommandResult where
  code : Byte := 0
  token : Byte := 0
  result : ResultCode := .ok
  deriving DecidableEq, Repr

/-! ### Calls (01) -/

inductive CallState where
  | free | queued | offered | connected | agentHold
  deriving DecidableEq, Repr

inductive OfferEnd where
  | none | answered | expired | noAnswer | withdrawn
  deriving DecidableEq, Repr

/-- The live part of a call record (R4), its due slots (R22) and its active settings (R3). -/
structure Call where
  state : CallState := .free
  currentQueue : Option Nat := none
  agent : Option Nat := none
  hops : Nat := 0
  attempts : Nat := 0
  lastEnd : OfferEnd := .none
  firstEntry : Tick := 0
  queueEntry : Tick := 0
  answerTick : Tick := 0
  seniority : Seniority := 0
  context : Option Nat := none
  underruns : Nat := 0
  offerExpiry : Option Tick := none
  overflowDue : Option Tick := none
  maxWaitDue : Option Tick := none
  priority : Nat := 0
  targetQueue : Nat := 0
  queueProgram : Nat := 0
  holdProgram : Nat := 0
  channel : Nat := 0
  announcement : Nat := 0
  result : CommandResult := {}
  pendingCount : Nat := 0
  deriving DecidableEq, Repr

/-- A call after cold reset (R6). -/
def Call.cold : Call := {}

inductive DeadlineKind where
  | offerExpiry | overflowDue | maxWaitDue
  deriving DecidableEq, Repr

/-- An entry of the deadline list (R23). -/
structure Deadline where
  call : Nat
  kind : DeadlineKind
  due : Tick
  deriving DecidableEq, Repr

/-! ### Queues and wait estimation (02, 06) -/

inductive QueueState where
  | idle | open | closed
  deriving DecidableEq, Repr

inductive OverflowMode where
  | none | time | ewt | both
  deriving DecidableEq, Repr

inductive Alarm where
  | normal | high
  deriving DecidableEq, Repr

/-- The active settings of a queue (R28). -/
structure QueueSettings where
  capacity : Nat := 0
  arbitration : Nat := 0
  shift : Nat := 0
  queueProgram : Nat := 0
  holdProgram : Nat := 0
  mode : OverflowMode := .none
  target : Nat := 0
  offerTimeout : Nat := 0
  overflowAfter : Nat := 0
  threshold : Nat := 0
  maxWait : Nat := 0
  wrapLength : Nat := 0
  serviceLevel : Nat := 0
  seed : Nat := 0
  upper : Nat := 0
  lower : Nat := 0
  deriving DecidableEq, Repr

/-- A queue: its record (R26), waiting list (R36), head counts (R62) and estimator fields (R95). `ticksTaken` counts the
ticks the Wait Estimator has taken for the queue (log 4). -/
structure Queue where
  state : QueueState := .idle
  paused : Bool := false
  settings : QueueSettings := {}
  waiting : List Nat := []
  occupancy : Nat := 0
  entered : BitVec 32 := 0
  answered : BitVec 32 := 0
  answeredInSl : BitVec 32 := 0
  abandoned : BitVec 32 := 0
  overflowedOut : BitVec 32 := 0
  staffed : Nat := 0
  available : Nat := 0
  handle : Nat := 0
  ewt : Nat := 0
  alarm : Alarm := .normal
  result : CommandResult := {}
  pendingCount : Nat := 0
  ticksTaken : Tick := 0
  deriving DecidableEq, Repr

/-- A queue after cold reset (R29, R95). -/
def Queue.cold : Queue := {}

/-- A handle-time sample handed to the Wait Estimator and not yet taken (R93, R97). -/
structure Sample where
  queue : Nat
  ticks : Nat
  deriving DecidableEq, Repr

/-! ### Agents (03, 05) -/

inductive AgentState where
  | loggedOut | notReady | available | offered | busy | wrapUp
  deriving DecidableEq, Repr

/-- The four flags (R58). -/
structure AgentFlags where
  autoReady : Bool := false
  pendNotReady : Bool := false
  pendLogout : Bool := false
  rnaMark : Bool := false
  deriving DecidableEq, Repr

/-- A skill of an active list: a queue and a level, 1 the best (R51). -/
structure Skill where
  queue : Nat
  level : Nat
  deriving DecidableEq, Repr

/-- An agent: record fields (R48), wrap-up state (R84) and active settings (R51). `ticksTaken` counts the ticks the Agent
Unit has taken for the agent (log 4). -/
structure Agent where
  state : AgentState := .loggedOut
  flags : AgentFlags := {}
  currentCall : Option Nat := none
  lastQueue : Option Nat := none
  wrapRemaining : Nat := 0
  heldAnswer : Tick := 0
  stateEntry : Tick := 0
  talk : BitVec 32 := 0
  wrap : BitVec 32 := 0
  availableTime : BitVec 32 := 0
  notReadyTime : BitVec 32 := 0
  callsHandled : BitVec 32 := 0
  skills : List Skill := []
  wrapLength : Nat := 0
  result : CommandResult := {}
  pendingCount : Nat := 0
  ticksTaken : Tick := 0
  deriving DecidableEq, Repr

/-- An agent after cold reset (R49). -/
def Agent.cold : Agent := {}

/-! ### The Match Engine (04) -/

/-- A trigger: its kind and id (R66). -/
inductive Trigger where
  | call (id : Nat)
  | agent (id : Nat)
  | queue (id : Nat)
  deriving DecidableEq, Repr

/-- A chosen pair not yet committed (R73). -/
structure Proposal where
  call : Nat
  agent : Nat
  queue : Nat
  trigger : Trigger
  deriving DecidableEq, Repr

structure MatchEngine where
  workList : List Trigger := []
  proposal : Option Proposal := none
  reserved : Bool := false
  deriving DecidableEq, Repr

/-! ### Playout (07) -/

/-- A segment descriptor, decoded: a stored length of 0 stands for 16,777,216 (R113). -/
structure Segment where
  start : Word := 0
  length : Nat := 16777216
  loopStart : Nat := 0
  defined : Bool := false
  deriving DecidableEq, Repr

/-- The all-zero descriptor of cold reset (R113). -/
def Segment.cold : Segment := {}

/-- The ten step kinds, and any other code (R169). -/
inductive StepKind where
  | stop | play | feed | sayWait | sayPosition | quiet | tone | jump | call | ret
  | other (code : Nat)
  deriving DecidableEq, Repr

/-- A program step (R168): `arg` is the segment, fallback segment or step; `count` the passes, ticks or bursts. -/
structure ProgramStep where
  kind : StepKind := .stop
  arg : Nat := 0
  feed : Nat := 0
  count : Nat := 0
  period : Nat := 0
  on : Nat := 0
  deriving DecidableEq, Repr

/-- A program: header and steps (R113). -/
structure Program where
  period : Nat := 0
  interjectionStep : Nat := 0
  bands : List Nat := List.replicate 8 0
  positions : List Nat := List.replicate 8 0
  steps : List ProgramStep := List.replicate 16 {}
  deriving DecidableEq, Repr

/-- The all-zero program of cold reset (R113). -/
def Program.cold : Program := {}

inductive ContextState where
  | free | starting | playing | draining
  deriving DecidableEq, Repr

/-- What a context is playing (R108): a step of its program, or an announcement. -/
inductive Activity where
  | step (index : Nat)
  | announcement
  deriving DecidableEq, Repr

/-- Where a FEED step's samples come from (R118): the ring, the fallback segment, or generated silence. -/
inductive FeedSource where
  | ring | segment | silence
  deriving DecidableEq, Repr

/-- A return record (R120). -/
structure ReturnRecord where
  step : Nat
  position : Nat
  passes : Nat
  phase : Nat
  bursts : Nat
  announcement : Bool
  fallback : Bool
  deriving DecidableEq, Repr

/-- A playout context (R108). `step` is the copy of the step in play (R114 reads a step when it begins), `source` the
source of a FEED step (R140), `redirected` records that the samples' source has changed since the grant (R128). The top
of `stack` is its head; `buffer` holds the oldest sample first. -/
structure Context where
  state : ContextState := .free
  call : Nat := 0
  channel : Nat := 0
  program : Nat := 0
  activity : Activity := .step 0
  step : ProgramStep := {}
  position : Nat := 0
  passes : Nat := 0
  phase : Nat := 0
  bursts : Nat := 0
  segment : Segment := {}
  source : FeedSource := .segment
  pointer : Word := 0
  timer : Nat := 0
  beginnings : Nat := 0
  stack : List ReturnRecord := []
  buffer : List Byte := []
  inFlight : Bool := false
  redirected : Bool := false
  ticksTaken : Tick := 0
  deriving DecidableEq, Repr

/-- A context after cold reset (R109). -/
def Context.cold : Context := {}

/-- The fetcher's outstanding burst (R126, R142): `skip` lanes of its first word lie before the first sample, and `count`
samples are the context's. -/
structure FetchBurst where
  context : Nat
  address : Word
  beats : Nat
  skip : Nat
  count : Nat
  deriving DecidableEq, Repr

structure Playout where
  contexts : Table Context := []
  bindings : Table (Option Nat) := []
  fetch : Option FetchBurst := none
  segments : Table Segment := []
  programs : Table Program := []
  deriving DecidableEq, Repr

/-! ### Feeds and the Time Base (08) -/

/-- The values of a feed latched from the configuration block (R135). -/
structure FeedConfig where
  ringStart : Word := 0
  ringEnd : Word := 0
  enable : Bool := false
  tag : BitVec 2 := 0
  timeout : Nat := 0
  settle : Nat := 0
  delay : Nat := 0
  deriving DecidableEq, Repr

inductive FeedState where
  | off | arming | live | missing
  deriving DecidableEq, Repr

/-- A feed record (R135). -/
structure Feed where
  latched : FeedConfig := {}
  state : FeedState := .off
  head : Word := 0
  lastWrite : Tick := 0
  settleCount : Nat := 0
  settling : Bool := false
  ticksTaken : Tick := 0
  deriving DecidableEq, Repr

/-- A feed after cold reset (R135). -/
def Feed.cold : Feed := {}

inductive TimeBaseState where
  | starting | external | substitute
  deriving DecidableEq, Repr

/-- The Time Base (R131, R132); `history` is oldest first, `pulseSeen` is of the reference period now running. -/
structure TimeBase where
  frames : Nat := 0
  tick : Tick := 0
  state : TimeBaseState := .starting
  history : List Bool := List.replicate 8 false
  silence : Nat := 8
  pulseSeen : Bool := false
  deriving DecidableEq, Repr

/-! ### Events (10) -/

inductive EventClass where
  | dispatch | call | agent | queue | playout | supervision
  deriving DecidableEq, Repr

inductive EventKind where
  | offer | offerWithdrawn | offerExpired
  | overflowed | maxWait | programEnd
  | wrapEnd
  | ewtHigh | ewtNormal
  | playoutFault
  | feedMissing | feedLive | timebaseSubst | timebaseRestored
  deriving DecidableEq, Repr

/-- An event record (R158). `target` is the queue id or feed number. -/
structure EventRecord where
  sequence : Nat
  cls : EventClass
  kind : EventKind
  call : Option Nat
  agent : Option Nat
  target : Option Nat
  detail : Nat
  tick : Tick
  deriving DecidableEq, Repr

/-- The class summaries (R163). -/
structure Summaries where
  dispatch : Bool := false
  call : Bool := false
  agent : Bool := false
  queue : Bool := false
  playout : Bool := false
  supervision : Bool := false
  deriving DecidableEq, Repr

structure EventUnit where
  dispatch : List EventRecord := []
  notices : List EventRecord := []
  sequence : Nat := 0
  summaries : Summaries := {}
  lost : Bool := false
  shown : Option EventRecord := none
  deriving DecidableEq, Repr

/-! ### The memory path (09) -/

/-- The kinds of record an intake entry names (R148). -/
inductive RecordKind where
  | call | agent | queue | part
  deriving DecidableEq, Repr

/-- An intake entry (R148): `word` is as written with disabled lanes 0, `flagWord` marks an agent's flag-write word. -/
structure IntakeEntry where
  kind : RecordKind
  index : Nat
  flagWord : Bool
  word : Word
  torn : Bool
  snapshot : List Word
  deriving DecidableEq, Repr

/-- The staging copies, one table of words per region (R147). The word at byte offset 4·w of record i of the call or
agent table is word 16·i + w, of the queue table 32·i + w; the other regions count their words from 0. -/
structure Staging where
  calls : Table Word := []
  agents : Table Word := []
  queues : Table Word := []
  config : Table Word := []
  segments : Table Word := []
  programs : Table Word := []
  deriving DecidableEq, Repr

inductive PartState where
  | pass | loading | active
  deriving DecidableEq, Repr

inductive ConfigError where
  | none | windowAlign | windowOverlap | feedRing | tagClash | loadFault
  deriving DecidableEq, Repr

/-- The active configuration (R152, R167). -/
structure PartConfig where
  callBase : Word := 0
  agentBase : Word := 0
  channelBase : Word := 0
  voiceTag : BitVec 2 := 0
  enables : Byte := 0
  silence : Byte := 0
  wrapCeiling : Nat := 0
  feeds : List FeedConfig := List.replicate 4 {}
  deriving DecidableEq, Repr

/-- Which read a LOADING is at (R152, R153). -/
inductive LoadPhase where
  | none | config | records
  deriving DecidableEq, Repr

/-- The region a loading read reads (R152, R153). -/
inductive LoadTable where
  | config | queue | agent | call
  deriving DecidableEq, Repr

/-- A word of a loading read: region, record index, word within the record. -/
structure LoadWord where
  table : LoadTable
  index : Nat
  word : Nat
  deriving DecidableEq, Repr

/-- The outstanding loading burst: first word, beats, and the host's write beats to its words that its data is older than,
each with its word, in the order of their acceptance (R152, R153). -/
structure LoadBurst where
  first : LoadWord
  beats : Nat
  hostWrote : List (Nat × WriteBeat)
  deriving DecidableEq, Repr

structure PartControl where
  state : PartState := .pass
  error : ConfigError := .none
  config : PartConfig := {}
  result : CommandResult := {}
  phase : LoadPhase := .none
  cursor : Option LoadWord := none
  burst : Option LoadBurst := none
  discard : Nat := 0
  restartToken : Option Byte := none
  deriving DecidableEq, Repr

/-- What the upstream port last answered by itself: nothing yet, a word (R146), or error responses (R157). -/
inductive UpstreamAnswer where
  | silent
  | data (word : Word)
  | errors (beats : List Beat)
  deriving DecidableEq, Repr

/-- The last slot granted on the memory-side port (R155). -/
inductive MemorySlot where
  | idle
  | passThrough (beat : Beat)
  | fetch (address : Word) (beats : Nat)
  | load (address : Word) (beats : Nat)
  deriving DecidableEq, Repr

structure PathUnit where
  resetAsserted : Bool := false
  straps : BitVec 4 := 0
  waiting : List Beat := []
  forward : List Beat := []
  answer : UpstreamAnswer := .silent
  port : MemorySlot := .idle
  passCount : Nat := 0
  deriving DecidableEq, Repr

/-! ### The whole -/

/-- The state of the part. `pending` is the commands waiting to be taken, first in, first out; `freeIndex` the number of
the next unused free value (log 11). -/
structure State where
  pending : List Instr
  freeIndex : Nat
  path : PathUnit
  staging : Staging
  intake : List IntakeEntry
  part : PartControl
  calls : Table Call
  seniority : Seniority
  deadlines : List Deadline
  queues : Table Queue
  samples : List Sample
  agents : Table Agent
  engine : MatchEngine
  playout : Playout
  feeds : Table Feed
  time : TimeBase
  events : EventUnit
  deriving DecidableEq, Repr

/-- Why a step stops the machine. -/
inductive Fault where
  /-- Raised by a command whose operand names an agent, queue, context or feed the part does not have (R46, R26, R108,
  R135). Safe: no such event exists. -/
  | noSuchRecord (index : Nat)
  deriving DecidableEq, Repr

/-- Why a step has no meaning. -/
inductive Refusal where
  /-- Raised by an arm of `exec` that has no meaning yet. Safe: the model stops. No arm raises it. -/
  | notModelled (mnemonic : String)
  deriving DecidableEq, Repr

/-- The part right after cold reset (R157 and the "Values after reset" of every chapter). The straps are an input whose
value no rule gives; `resetRelease` takes any (log 24). -/
def State.reset : State where
  pending := []
  freeIndex := 0
  path := {}
  staging := {}
  intake := []
  part := {}
  calls := []
  seniority := 0
  deadlines := []
  queues := []
  samples := []
  agents := []
  engine := {}
  playout := {}
  feeds := []
  time := {}
  events := {}

end Sys2Proof.Machine
end

