-- ==== Sys2Proof/Machine/Table.lean ====
section
/-! DEFINITION. Reading and writing the sparse record tables; one canonical form, so that equal tables are equal lists. -/

namespace Sys2Proof.Machine

/-- The record at index `n`: the listed one, else the cold record `d`. -/
def Table.read (d : α) : Table α → Nat → α
  | [], _ => d
  | e :: t, n => if e.1 = n then e.2 else Table.read d t n

/-- The table without index `n`. -/
def Table.erase (t : Table α) (n : Nat) : Table α := t.filter (fun e => e.1 != n)

/-- Puts a record in at its place by index. -/
def Table.insert (n : Nat) (v : α) : Table α → Table α
  | [] => [(n, v)]
  | e :: t => if n < e.1 then (n, v) :: e :: t else e :: Table.insert n v t

/-- Writes the record at index `n`; writing the cold record removes the entry. -/
def Table.write [DecidableEq α] (d : α) (t : Table α) (n : Nat) (v : α) : Table α :=
  if v = d then Table.erase t n else Table.insert n v (Table.erase t n)

/-- Changes every listed record by `f`. Where `f` keeps the cold record, this changes every record of the table. -/
def Table.mapAll [DecidableEq α] (d : α) (f : α → α) (t : Table α) : Table α :=
  t.filterMap fun e => if f e.2 = d then none else some (e.1, f e.2)

/-- The table of the first `size` records, given by index. -/
def Table.build [DecidableEq α] (d : α) (size : Nat) (f : Nat → α) : Table α :=
  (List.range size).filterMap fun n => if f n = d then none else some (n, f n)

/-- The canonical form: indexes strictly rising, and no entry equal to the cold record. -/
def Table.wf [DecidableEq α] (d : α) : Table α → Bool
  | [] => true
  | e :: t => decide (e.2 ≠ d) && t.all (fun x => decide (e.1 < x.1)) && Table.wf d t

end Sys2Proof.Machine
end

