-- ==== Sys2Proof/Machine/Operands.lean ====
section
/-! DEFINITION. The operands commands read: fields of a command word, of a snapshot, and of the staged configuration and
library, at the places of R167 and R168. -/

namespace Sys2Proof.Machine

/-! ### Little-endian fields of a run of words (R166) -/

/-- The word at byte offset `o`, a multiple of 4. -/
def wordField (ws : List Word) (o : Nat) : Word := ws.getD (o / 4) 0

/-- The byte at offset `o`. -/
def byteField (ws : List Word) (o : Nat) : Nat := (ws.getD (o / 4) 0).toNat / 2 ^ (8 * (o % 4)) % 256

/-- The halfword at offset `o`, a multiple of 2. -/
def halfField (ws : List Word) (o : Nat) : Nat := (ws.getD (o / 4) 0).toNat / 2 ^ (8 * (o % 4)) % 65536

/-- The three bytes from offset `o`, a multiple of 4. -/
def tripleField (ws : List Word) (o : Nat) : Nat := (ws.getD (o / 4) 0).toNat % 16777216

/-! ### The command word (R168) -/

/-- Code in bits 0 to 7, token in bits 8 to 15, argument in bits 16 to 31. -/
def IntakeEntry.code (e : IntakeEntry) : Byte := e.word.extractLsb' 0 8
def IntakeEntry.token (e : IntakeEntry) : Byte := e.word.extractLsb' 8 8
def IntakeEntry.argument (e : IntakeEntry) : Nat := e.word.toNat / 65536

/-- The code and token a result carries: FLAG_WRITE is 0x80 and token 0 for a flag write (R59, R150, R168). -/
def IntakeEntry.resultOf (e : IntakeEntry) (r : ResultCode) : CommandResult :=
  if e.flagWord then { code := 0x80, token := 0, result := r } else { code := e.code, token := e.token, result := r }

/-- The number of command codes of a record kind: code 1 up to it are defined (R168). -/
def RecordKind.lastCode : RecordKind → Nat
  | .call => 10
  | .agent => 6
  | .queue => 6
  | .part => 8

/-- Whether the code of a command word is one R168 lists for its kind. A flag-write word has no code. -/
def IntakeEntry.known (e : IntakeEntry) : Bool :=
  e.flagWord || (decide (1 ≤ e.code.toNat) && decide (e.code.toNat ≤ e.kind.lastCode))

/-! ### Host-owned fields of a call snapshot (R168) -/

def callPriority (ws : List Word) : Nat := byteField ws 0x00
def callTarget (ws : List Word) : Nat := byteField ws 0x01
def callQueueProgram (ws : List Word) : Nat := byteField ws 0x02
def callHoldProgram (ws : List Word) : Nat := byteField ws 0x03
def callChannel (ws : List Word) : Nat := halfField ws 0x04
def callSegment (ws : List Word) : Nat := byteField ws 0x06
def callOfferAgent (ws : List Word) : Nat := halfField ws 0x08

/-- A program field is 0 to 63, or 255 for none (R3, R28). -/
def programInRange (p : Nat) : Bool := decide (p < Config.numPrograms) || p == 255

/-- The range check of ENQUEUE and TRANSFER (R3, R7): BAD_FIELD for priority or program, BAD_QUEUE for the target queue.
DEDUCED: in the order of R3's row, so BAD_FIELD first (log 16). -/
def entryFieldError (ws : List Word) : Option ResultCode :=
  if 15 < callPriority ws then some .badField
  else if programInRange (callQueueProgram ws) = false then some .badField
  else if Config.numQueues ≤ callTarget ws then some .badQueue
  else none

/-! ### Host-owned fields of an agent snapshot (R51, R168) -/

/-- The eight skill entries, empty ones included. -/
def agentSkillEntries (ws : List Word) : List Skill :=
  (List.range 8).map fun i => { queue := byteField ws (2 * i), level := byteField ws (2 * i + 1) }

def agentWrapLength (ws : List Word) : Nat := halfField ws 0x10
def agentExtension (ws : List Word) : Nat := halfField ws 0x12

/-- A skill entry that is not empty must name a queue of the part at a level of 1 to 15 (R51). -/
def Skill.valid (k : Skill) : Bool := k.level == 0 || (decide (k.level ≤ 15) && decide (k.queue < Config.numQueues))

/-- Whether a list of skills names one queue twice (R51). -/
def duplicateSkill : List Skill → Bool
  | [] => false
  | k :: ks => ks.any (fun j => j.queue == k.queue) || duplicateSkill ks

/-- The skills of a snapshot: the entries of level 1 and above (R51). -/
def agentSkills (ws : List Word) : List Skill := (agentSkillEntries ws).filter fun k => k.level != 0

/-- The validation of LOGIN and SKILLS: BAD_FIELD across all eight entries, then DUPLICATE_SKILL (R51). -/
def skillError (ws : List Word) : Option ResultCode :=
  if (agentSkillEntries ws).all Skill.valid = false then some .badField
  else if duplicateSkill (agentSkills ws) = true then some .duplicateSkill
  else none

/-! ### Host-owned fields of a queue snapshot (R28, R168) -/

def overflowModeOf : Nat → Option OverflowMode
  | 0 => some .none
  | 1 => some .time
  | 2 => some .ewt
  | 3 => some .both
  | _ => none

/-- The settings of queue `q` as its snapshot holds them, before the clamps; nothing when a field is out of the range of
R28's table. -/
def queueSettings (q : Nat) (ws : List Word) : Option QueueSettings :=
  match overflowModeOf (byteField ws 0x06) with
  | none => none
  | some mode =>
    let s : QueueSettings :=
      { capacity := halfField ws 0x00, arbitration := byteField ws 0x02, shift := byteField ws 0x03
        queueProgram := byteField ws 0x04, holdProgram := byteField ws 0x05, mode := mode
        target := byteField ws 0x07, offerTimeout := halfField ws 0x08, overflowAfter := halfField ws 0x0A
        threshold := halfField ws 0x0C, maxWait := halfField ws 0x0E, wrapLength := halfField ws 0x10
        serviceLevel := halfField ws 0x12, seed := halfField ws 0x14, upper := halfField ws 0x18
        lower := halfField ws 0x1A }
    if decide (1 ≤ s.capacity) && decide (s.capacity ≤ 2048) && decide (s.arbitration ≤ 7) && decide (s.shift ≤ 7)
        && programInRange s.queueProgram && programInRange s.holdProgram
        && ((decide (s.target < Config.numQueues) && s.target != q) || s.target == 255)
    then some s else none

/-- The two clamps of R28, against the queue's present occupancy. -/
def QueueSettings.clamp (s : QueueSettings) (occupancy : Nat) : QueueSettings :=
  { s with
    capacity := max s.capacity occupancy
    lower := if s.upper ≠ 0 ∧ s.upper ≤ s.lower then s.upper - 1 else s.lower }

/-! ### The configuration block (R167) -/

/-- A feed's latched values, with the three brought into range (R135). Where the bounds of the delay cross, which only a feed
that is not enabled can have, the upper one is taken, as 0 when negative (DESIGN CHOICE; log 40). -/
def feedConfigOf (ws : List Word) (f : Nat) : FeedConfig :=
  let o := 0x20 + 16 * f
  let ringStart := wordField ws o
  let ringEnd := wordField ws (o + 4)
  let bound := min 4096 (ringEnd.toNat - ringStart.toNat - 64)
  let delay := halfField ws (o + 0x0C)
  { ringStart := ringStart
    ringEnd := ringEnd
    enable := byteField ws (o + 8) % 2 == 1
    tag := BitVec.ofNat 2 (byteField ws (o + 9))
    timeout := max 1 (byteField ws (o + 0x0A))
    settle := max 1 (byteField ws (o + 0x0B))
    delay := if delay < 64 then 64 else if bound < delay then bound else delay }

/-- The active configuration latched from the block's words; a wrap ceiling of 0 is latched as 65,535 (R86). -/
def configOf (ws : List Word) : PartConfig :=
  { callBase := wordField ws 0x00
    agentBase := wordField ws 0x04
    channelBase := wordField ws 0x08
    voiceTag := BitVec.ofNat 2 (byteField ws 0x0C)
    enables := BitVec.ofNat 8 (byteField ws 0x0D)
    silence := BitVec.ofNat 8 (byteField ws 0x0E)
    wrapCeiling := if halfField ws 0x10 = 0 then Config.maxTicks else halfField ws 0x10
    feeds := (List.range 4).map (feedConfigOf ws) }

/-- The configuration staging, as a run of words. -/
def Staging.configWords (g : Staging) : List Word := (List.range 64).map (Table.read 0 g.config)

/-! ### The library (R113, R114, R168, R169) -/

/-- The descriptor of a segment as staged, and whether its loop start is brought into range (R114). -/
def Staging.segment (g : Staging) (n : Nat) : Segment × Bool :=
  let ws := (List.range 4).map fun w => Table.read 0 g.segments (4 * n + w)
  let stored := tripleField ws 0x04
  let length := if stored = 0 then 16777216 else stored
  let loopStart := tripleField ws 0x08
  ({ start := wordField ws 0x00
     length := length
     loopStart := if length ≤ loopStart then 0 else loopStart
     defined := byteField ws 0x07 % 2 == 1 }, decide (length ≤ loopStart))

/-- The step kind of a code (R169). -/
def stepKindOf : Nat → StepKind
  | 0 => .stop
  | 1 => .play
  | 2 => .feed
  | 3 => .sayWait
  | 4 => .sayPosition
  | 5 => .quiet
  | 6 => .tone
  | 7 => .jump
  | 8 => .call
  | 9 => .ret
  | n => .other n

/-- A step as staged, and whether its on count is brought into range: a TONE step's, above its period (R114). -/
def stepOf (ws : List Word) (o : Nat) : ProgramStep × Bool :=
  let kind := stepKindOf (byteField ws o)
  let period := halfField ws (o + 8)
  let on := halfField ws (o + 10)
  let high := kind == .tone && decide (period < on)
  ({ kind := kind
     arg := byteField ws (o + 1)
     feed := byteField ws (o + 2)
     count := halfField ws (o + 4)
     period := period
     on := if high then period else on }, high)

/-- A program as staged, and whether any of its steps is brought into range. -/
def Staging.program (g : Staging) (n : Nat) : Program × Bool :=
  let ws := (List.range 64).map fun w => Table.read 0 g.programs (64 * n + w)
  let steps := (List.range Config.stepsPerProgram).map fun i => stepOf ws (0x40 + 12 * i)
  ({ period := halfField ws 0x00
     interjectionStep := byteField ws 0x02
     bands := (List.range 8).map fun b => byteField ws (0x04 + b)
     positions := (List.range 8).map fun j => byteField ws (0x0C + j)
     steps := steps.map (·.1) }, steps.any (·.2))

end Sys2Proof.Machine
end

