-- ==== Sys2Proof/Machine/Flags.lean ====
section
/-! DEFINITION. Flags: the four agent flags and their request word (R58, R59), and the class summaries (R163). -/

namespace Sys2Proof.Machine

/-- One flag against its two requests: both or neither leave it as it was (R59). -/
def flagAfter (old set clear : Bool) : Bool := if set == clear then old else set

/-- A request at a position that names no flag, or a set request for RNA_MARK: bits 4 to 15 and 19 to 31 (R59, R168). -/
def flagRequestBad (w : Word) : Bool := w &&& 0xFFF8FFF0#32 != 0#32

/-- The flags after a flag write: bit n asks to clear, bit 16 + n to set (R168). -/
def AgentFlags.apply (f : AgentFlags) (w : Word) : AgentFlags :=
  { autoReady := flagAfter f.autoReady (w.getLsbD 16) (w.getLsbD 0)
    pendNotReady := flagAfter f.pendNotReady (w.getLsbD 17) (w.getLsbD 1)
    pendLogout := flagAfter f.pendLogout (w.getLsbD 18) (w.getLsbD 2)
    rnaMark := flagAfter f.rnaMark (w.getLsbD 19) (w.getLsbD 3) }

/-- The flags byte of the agent record (R168). -/
def AgentFlags.toByte (f : AgentFlags) : Nat :=
  f.autoReady.toNat + 2 * f.pendNotReady.toNat + 4 * f.pendLogout.toNat + 8 * f.rnaMark.toNat

/-- The state a wrap-up end chooses: PEND_LOGOUT, then PEND_NOT_READY, then AUTO_READY or the READY itself (R91). -/
def AgentFlags.wrapEndState (f : AgentFlags) (byReady : Bool) : AgentState :=
  if f.pendLogout then .loggedOut
  else if f.pendNotReady then .notReady
  else if f.autoReady || byReady then .available
  else .notReady

/-- Both pending flags are used once (R91). -/
def AgentFlags.clearPending (f : AgentFlags) : AgentFlags := { f with pendNotReady := false, pendLogout := false }

/-- Step 1 of a posting: the summary of the class is set (R159, R163). -/
def Summaries.set (m : Summaries) : EventClass → Summaries
  | .dispatch => { m with dispatch := true }
  | .call => { m with call := true }
  | .agent => { m with agent := true }
  | .queue => { m with queue := true }
  | .playout => { m with playout := true }
  | .supervision => { m with supervision := true }

/-- SUMMARY_CLEAR's six summary requests (R163, R168). -/
def Summaries.clear (m : Summaries) (mask : Nat) : Summaries :=
  { dispatch := m.dispatch && !mask.testBit 0
    call := m.call && !mask.testBit 1
    agent := m.agent && !mask.testBit 2
    queue := m.queue && !mask.testBit 3
    playout := m.playout && !mask.testBit 4
    supervision := m.supervision && !mask.testBit 5 }

/-- The summaries byte of the status block, EVENTS_LOST in bit 6 (R167). -/
def EventUnit.summaryByte (u : EventUnit) : Nat :=
  u.summaries.dispatch.toNat + 2 * u.summaries.call.toNat + 4 * u.summaries.agent.toNat
    + 8 * u.summaries.queue.toNat + 16 * u.summaries.playout.toNat + 32 * u.summaries.supervision.toNat
    + 64 * u.lost.toNat

/-- Whether a notice class is enabled: bits 1 to 5 of the enables; DISPATCH has no enable and is always queued (R159). -/
def classEnabled (enables : Byte) : EventClass → Bool
  | .dispatch => true
  | .call => enables.getLsbD 1
  | .agent => enables.getLsbD 2
  | .queue => enables.getLsbD 3
  | .playout => enables.getLsbD 4
  | .supervision => enables.getLsbD 5

end Sys2Proof.Machine
end

