-- ==== Sys2Proof/Machine/Ops.lean ====
section
/-! DEFINITION. The named operations on the state that several events share: reading and writing records, results and
pending counts, posting an event, adding a trigger, moving an agent between states with its head counts, the waiting
lists, and the deadline list. -/

namespace Sys2Proof.Machine

/-! ### Records -/

def State.call (s : State) (c : Nat) : Call := Table.read Call.cold s.calls c
def State.setCall (s : State) (c : Nat) (r : Call) : State := { s with calls := Table.write Call.cold s.calls c r }

def State.queue (s : State) (q : Nat) : Queue := Table.read Queue.cold s.queues q
def State.setQueue (s : State) (q : Nat) (r : Queue) : State := { s with queues := Table.write Queue.cold s.queues q r }

def State.agent (s : State) (a : Nat) : Agent := Table.read Agent.cold s.agents a
def State.setAgent (s : State) (a : Nat) (r : Agent) : State := { s with agents := Table.write Agent.cold s.agents a r }

def State.feed (s : State) (f : Nat) : Feed := Table.read Feed.cold s.feeds f
def State.setFeed (s : State) (f : Nat) (r : Feed) : State := { s with feeds := Table.write Feed.cold s.feeds f r }

def State.context (s : State) (k : Nat) : Context := Table.read Context.cold s.playout.contexts k
def State.setContext (s : State) (k : Nat) (r : Context) : State :=
  { s with playout := { s.playout with contexts := Table.write Context.cold s.playout.contexts k r } }

def State.binding (s : State) (ch : Nat) : Option Nat := Table.read none s.playout.bindings ch
def State.setBinding (s : State) (ch : Nat) (b : Option Nat) : State :=
  { s with playout := { s.playout with bindings := Table.write none s.playout.bindings ch b } }

/-- A descriptor and a program of the active library (R113). -/
def State.segment (s : State) (n : Nat) : Segment := Table.read Segment.cold s.playout.segments n
def State.program (s : State) (n : Nat) : Program := Table.read Program.cold s.playout.programs n

/-- The present tick. -/
def State.tick (s : State) : Tick := s.time.tick

/-- IRQ: a level that follows the two queues, deasserted while RESET is asserted (R164). -/
def State.irq (s : State) : Bool :=
  !s.path.resetAsserted && (!s.events.dispatch.isEmpty || !s.events.notices.isEmpty)

/-! ### Time -/

/-- A due tick has been reached when its age is below 2^31 (R22). -/
def reached (now due : Tick) : Bool := decide ((now - due).toNat < 2 ^ 31)

/-- The key that orders due ticks: those reached longest ago first, then those nearest ahead (R23). The furthest reached
lies 2^31 - 1 back and has key 0; the furthest ahead lies 2^31 ahead and has the greatest (R22). -/
def dueKey (now due : Tick) : Nat := (due - now + 0x7FFFFFFF#32).toNat

/-- The age of a tick, measured back from the present (00_scope, "Numbers and time"). -/
def age (now t : Tick) : Nat := (now - t).toNat

/-- The ticks taken by something that begins to take them: all before the present tick are gone, the present one is still
to be taken unless it has been (R131; log 4). -/
def caughtUp (taken now : Tick) : Tick := if taken = now then now else now - 1

/-! ### Results and pending counts (R150, R148) -/

def State.setPartResult (s : State) (r : CommandResult) : State := { s with part := { s.part with result := r } }

/-- Writes the result of an entry where its kind has it (R150). -/
def State.writeResult (s : State) (e : IntakeEntry) (r : ResultCode) : State :=
  match e.kind with
  | .call => s.setCall e.index { s.call e.index with result := e.resultOf r }
  | .agent => s.setAgent e.index { s.agent e.index with result := e.resultOf r }
  | .queue => s.setQueue e.index { s.queue e.index with result := e.resultOf r }
  | .part => s.setPartResult (e.resultOf r)

/-- Changes the pending count of the record an entry names (R148); the part command word has none. -/
def State.modifyPending (s : State) (e : IntakeEntry) (f : Nat → Nat) : State :=
  match e.kind with
  | .call => s.setCall e.index { s.call e.index with pendingCount := f (s.call e.index).pendingCount }
  | .agent => s.setAgent e.index { s.agent e.index with pendingCount := f (s.agent e.index).pendingCount }
  | .queue => s.setQueue e.index { s.queue e.index with pendingCount := f (s.queue e.index).pendingCount }
  | .part => s

/-! ### Events (R159) -/

/-- The sequence counter runs from 65,535 to 1, skipping 0 (R159). -/
def nextSequence (n : Nat) : Nat := if 65535 ≤ n then 1 else n + 1

/-- Whether the queue of a class has room; the reservation takes one entry of the dispatch queue (R69, R159). -/
def State.eventRoom (s : State) (cls : EventClass) : Bool :=
  match cls with
  | .dispatch => decide (s.events.dispatch.length + s.engine.reserved.toNat < Config.dispatchDepth)
  | _ => decide (s.events.notices.length < Config.noticeDepth)

/-- Step 4 of a posting: the record takes the next sequence number and joins its queue's tail (R159). -/
def EventUnit.append (u : EventUnit) (r : EventRecord) : EventUnit :=
  let n := nextSequence u.sequence
  match r.cls with
  | .dispatch => { u with sequence := n, dispatch := u.dispatch ++ [{ r with sequence := n }] }
  | _ => { u with sequence := n, notices := u.notices ++ [{ r with sequence := n }] }

/-- Posting an event, in the four steps of R159. -/
def State.post (s : State) (cls : EventClass) (kind : EventKind) (call agent target : Option Nat) (detail : Nat) :
    State :=
  let r : EventRecord :=
    { sequence := 0, cls := cls, kind := kind, call := call, agent := agent, target := target, detail := detail
      tick := s.tick }
  let u := { s.events with summaries := s.events.summaries.set cls }
  if classEnabled s.part.config.enables cls = false then { s with events := u }
  else if s.eventRoom cls = false then { s with events := { u with lost := true } }
  else { s with events := u.append r }

/-- Posting an OFFER into the entry reserved for it: it is never dropped (R69, R159). -/
def State.postOffer (s : State) (call agent queue detail : Nat) : State :=
  let r : EventRecord :=
    { sequence := 0, cls := .dispatch, kind := .offer, call := some call, agent := some agent, target := some queue
      detail := detail, tick := s.tick }
  { s with events := { s.events with summaries := s.events.summaries.set .dispatch }.append r }

/-- The details of OFFER_WITHDRAWN, PLAYOUT_FAULT and FEED_LIVE (R168). -/
def detailAbandon : Nat := 1
def detailNotReady : Nat := 2
def detailLogout : Nat := 3
def detailBadStep : Nat := 1
def detailStackOverflow : Nat := 2
def detailReturnEmpty : Nat := 3
def detailFetchError : Nat := 4
def detailArmed : Nat := 1
def detailCleared : Nat := 2

/-! ### Triggers (R66) -/

/-- Adds a trigger to the end of the work list, unless it is in the list already (R66). -/
def State.addTrigger (s : State) (t : Trigger) : State :=
  if t ∈ s.engine.workList then s
  else { s with engine := { s.engine with workList := s.engine.workList ++ [t] } }

/-! ### Agents and head counts (R62, R64) -/

/-- Counted in N (R47). -/
def AgentState.staffed : AgentState → Bool
  | .loggedOut => false
  | .notReady => false
  | .available => true
  | .offered => true
  | .busy => true
  | .wrapUp => true

/-- Counted in A (R47). -/
def AgentState.free : AgentState → Bool
  | .loggedOut => false
  | .notReady => false
  | .available => true
  | .offered => false
  | .busy => false
  | .wrapUp => false

/-- A head count after one agent's membership changes. -/
def shiftCount (n : Nat) (was now : Bool) : Nat := if was == now then n else if now then n + 1 else n - 1

/-- A queue's two head counts after an agent counted in it changes state: each row of R62 is this difference. -/
def Queue.recount (q : Queue) (was now : AgentState) : Queue :=
  { q with
    staffed := shiftCount q.staffed was.staffed now.staffed
    available := shiftCount q.available was.free now.free }

/-- Recounts every queue of a skill list (R62). -/
def State.recountAll (s : State) (skills : List Skill) (was now : AgentState) : State :=
  skills.foldl (fun s k => s.setQueue k.queue ((s.queue k.queue).recount was now)) s

/-- Takes an agent to another state: the state-entry tick is the present tick (R64) and the head counts of its active
list follow (R62). -/
def State.moveAgent (s : State) (a : Nat) (now : AgentState) : State :=
  let g := s.agent a
  (s.setAgent a { g with state := now, stateEntry := s.tick }).recountAll g.skills g.state now

/-- Whether an active skill list names a queue, and at which level. -/
def Agent.names (g : Agent) (q : Nat) : Bool := g.skills.any fun k => k.queue == q
def Agent.level (g : Agent) (q : Nat) : Nat := ((g.skills.find? fun k => k.queue == q).map (·.level)).getD 0

/-! ### Waiting lists (R36) -/

/-- Whether one call stands ahead of another: priority, then seniority (R36). -/
def Call.ahead (x y : Call) : Bool :=
  decide (y.priority < x.priority) || (x.priority == y.priority && decide (x.seniority.toNat < y.seniority.toNat))

/-- Puts a call into a list at the place its keys give. -/
def State.insertByKeys (s : State) (c : Nat) : List Nat → List Nat
  | [] => [c]
  | d :: ds => if (s.call c).ahead (s.call d) then c :: d :: ds else d :: s.insertByKeys c ds

def State.enterWaiting (s : State) (q c : Nat) : State :=
  s.setQueue q { s.queue q with waiting := s.insertByKeys c (s.queue q).waiting }

def State.leaveWaiting (s : State) (q c : Nat) : State :=
  s.setQueue q { s.queue q with waiting := (s.queue q).waiting.filter (· != c) }

/-- The 1-based index of a call in a list (R4). -/
def positionIn (c : Nat) (l : List Nat) : Nat := l.findIdx (· == c) + 1

/-- A call's position field: 0 unless it is QUEUED (R4). -/
def State.position (s : State) (c : Nat) : Nat :=
  match (s.call c).state, (s.call c).currentQueue with
  | .queued, some q => positionIn c (s.queue q).waiting
  | _, _ => 0

/-- The position a call would take in a queue: the waiting calls ahead of it by the keys, plus 1 (R38). -/
def State.entryPosition (s : State) (q : Nat) (x : Call) : Nat :=
  ((s.queue q).waiting.filter fun d => (s.call d).ahead x).length + 1

/-- The oldest first-entry tick among a queue's waiting calls; the present tick when none waits (R38). -/
def State.oldestEntry (s : State) (q : Nat) : Tick :=
  (s.queue q).waiting.foldl
    (fun t c => if age s.tick t < age s.tick (s.call c).firstEntry then (s.call c).firstEntry else t) s.tick

/-! ### The deadline list (R22, R23) -/

/-- The armed slots of a call (R22), MAX_WAIT_DUE first so that it wins a tie (R23). -/
def Call.armed (x : Call) : List (DeadlineKind × Tick) :=
  match x.state with
  | .queued =>
    (x.maxWaitDue.toList.map fun t => (.maxWaitDue, t)) ++ (x.overflowDue.toList.map fun t => (.overflowDue, t))
  | .offered => x.offerExpiry.toList.map fun t => (.offerExpiry, t)
  | .free | .connected | .agentHold => []

/-- The first of the earliest slots. -/
def earliestSlot (now : Tick) : List (DeadlineKind × Tick) → Option (DeadlineKind × Tick)
  | [] => none
  | e :: es =>
    match earliestSlot now es with
    | none => some e
    | some f => if dueKey now f.2 < dueKey now e.2 then some f else some e

/-- The entry a call should have in the list (R23). -/
def State.deadlineOf (s : State) (c : Nat) : Option Deadline :=
  (earliestSlot s.tick (s.call c).armed).map fun e => { call := c, kind := e.1, due := e.2 }

/-- Takes a call's entry out of the list. -/
def State.dropDeadline (s : State) (c : Nat) : State :=
  { s with deadlines := s.deadlines.filter fun d => d.call != c }

/-- Brings a call's entry in step with its armed slots: kept when it is the same, otherwise removed and, where a slot is
armed, inserted behind those present (R23; log 34). -/
def State.refreshDeadline (s : State) (c : Nat) : State :=
  if s.deadlines.find? (fun d => d.call == c) = s.deadlineOf c then s
  else
    { s with
      deadlines := (s.deadlines.filter fun d => d.call != c) ++ (s.deadlineOf c).toList }

/-- The front of the list at the present tick: the earliest due tick, among equals the one inserted first (R23). The
list is held in the order of insertion, and its order by due tick is computed here (log 33). -/
def frontDeadline (now : Tick) : List Deadline → Option Deadline
  | [] => none
  | d :: ds =>
    match frontDeadline now ds with
    | none => some d
    | some e => if dueKey now e.due < dueKey now d.due then some e else some d

/-- The due slots a queue entry sets (R22). -/
def Call.enterSlots (x : Call) (g : QueueSettings) : Call :=
  { x with
    offerExpiry := none
    overflowDue :=
      if (g.mode = .time ∨ g.mode = .both) ∧ g.overflowAfter ≠ 0 ∧ g.target ≠ 255 ∧ x.hops < Config.maxHops
      then some (x.queueEntry + BitVec.ofNat 32 g.overflowAfter) else none
    maxWaitDue := if g.maxWait ≠ 0 then some (x.queueEntry + BitVec.ofNat 32 g.maxWait) else none }

/-- A dormant due tick armed again: one already reached falls due at the next tick (R22). -/
def rearm (now : Tick) (due : Option Tick) : Option Tick :=
  due.map fun d => if reached now d then now + 1 else d

/-- All three slots none (R22). -/
def Call.clearSlots (x : Call) : Call := { x with offerExpiry := none, overflowDue := none, maxWaitDue := none }

end Sys2Proof.Machine
end

