-- ==== Sys2Proof/Machine/Playout.lean ====
section
/-! DEFINITION. The Playout Engine's shared operations: starting and stopping a context, beginning and resuming steps,
placing groups, cutting an activity, following a feed, and the fetcher's requests (07, and 08 R140 to R142). The wait a
SAY_WAIT step speaks is computed here as well (06 R100 to R103). -/

namespace Sys2Proof.Machine

/-! ### The expected wait (R100 to R103) -/

/-- The EWT for position `p`, smoothed handle time `h` and staffed count `n` (R100). -/
def expectedWait (p h n : Nat) : Nat :=
  if n = 0 then Config.maxTicks else min ((p * h + 16 * n - 1) / (16 * n)) Config.maxTicks

/-- The per-call EWT at a position of a queue, from H and N as they stand (R101). -/
def State.callWait (s : State) (q p : Nat) : Nat := expectedWait p (s.queue q).handle (s.queue q).staffed

/-- The band of an EWT (R102). -/
def waitBand (ewt : Nat) : Nat := min (max ((ewt + 599) / 600) 1) 8

/-- The segment of entry `n` (1 to 8) of a header's eight, falling to the highest defined entry below (R102, R103). -/
def entryWithFallback (entries : List Nat) : Nat → Option Nat
  | 0 => none
  | n + 1 => if entries.getD n 255 = 255 then entryWithFallback entries n else some (entries.getD n 255)

/-- The place in line of a call for a SAY step: its position, 1 for an OFFERED call, none on hold (R101, R103). -/
def State.sayPlace (s : State) (c : Nat) : Option (Nat × Nat) :=
  match (s.call c).state, (s.call c).currentQueue with
  | .queued, some q => some (q, s.position c)
  | .offered, some q => some (q, 1)
  | _, _ => none

/-- The segment a SAY_WAIT step chooses, or none when it is skipped (R102). -/
def State.sayWaitSegment (s : State) (c : Nat) (g : Program) : Option Nat :=
  match s.sayPlace c with
  | none => none
  | some (q, p) => entryWithFallback g.bands (waitBand (s.callWait q p))

/-- The segment a SAY_POSITION step chooses, or none when it is skipped (R103). -/
def State.sayPositionSegment (s : State) (c : Nat) (g : Program) : Option Nat :=
  match s.sayPlace c with
  | none => none
  | some (_, p) => entryWithFallback g.positions (min p 8)

/-! ### Stopping a context (R112) -/

/-- What a stop leaves of a context: FREE, or DRAINING while its fetch is in flight. -/
def Context.stopped (x : Context) : Context :=
  if x.inFlight then
    { x with state := .draining, stack := [], buffer := [], timer := 0 }
  else { Context.cold with ticksTaken := x.ticksTaken }

/-- Stops a context: unbinds its channel, discards buffer and stack, and frees or drains it (R112). -/
def State.stopContext (s : State) (k : Nat) : State :=
  (s.setBinding (s.context k).channel none).setContext k (s.context k).stopped

/-- A stop the Playout Engine makes itself also tells the Call Unit (R12, R112). -/
def State.endContext (s : State) (k : Nat) : State :=
  let c := (s.context k).call
  (s.stopContext k).setCall c { s.call c with context := none }

/-- The Call Unit's stop request for a call's context; none is no effect (R12). -/
def State.stopCall (s : State) (c : Nat) : State :=
  match (s.call c).context with
  | none => s
  | some k => (s.stopContext k).setCall c { s.call c with context := none }

/-- A fault that stops the context: the stop, then PLAYOUT_FAULT with BAD_STEP (R115). -/
def State.badStep (s : State) (k : Nat) : State :=
  (s.endContext k).post .playout .playoutFault (some (s.context k).call) none none detailBadStep

/-! ### Feeds as a context reads them (R140, R141) -/

/-- The size of a feed's ring, and the offset of an address in it. -/
def FeedConfig.size (f : FeedConfig) : Nat := f.ringEnd.toNat - f.ringStart.toNat
def FeedConfig.offset (f : FeedConfig) (a : Word) : Nat := a.toNat - f.ringStart.toNat

/-- The place a joining reader takes: the head minus the delay, round the ring (R141). -/
def Feed.joinPointer (f : Feed) : Word :=
  f.latched.ringStart
    + BitVec.ofNat 32 ((f.latched.offset f.head + f.latched.size - f.latched.delay) % f.latched.size)

/-- The samples between a pointer and the head, round the ring (R141). -/
def Feed.availableAt (f : Feed) (p : Word) : Nat :=
  (f.latched.offset f.head + f.latched.size - f.latched.offset p) % f.latched.size

/-- A context on the ring of a live feed, joined afresh (R141). -/
def Context.join (x : Context) (f : Feed) : Context :=
  { x with source := .ring, pointer := f.joinPointer, position := 0 }

/-- A context on its fallback from sample `pos`, as a PLAY without end; generated silence while the fallback is not
DEFINED (R118, R121). -/
def Context.fallBack (x : Context) (seg : Segment) (pos : Nat) : Context :=
  if seg.defined then
    { x with source := .segment, segment := seg, position := if pos < seg.length then pos else seg.loopStart }
  else { x with source := .silence, position := 0 }

/-- Whether a context's current activity is a FEED step. -/
def Context.onFeed (x : Context) : Bool :=
  match x.activity with
  | .announcement => false
  | .step _ => x.step.kind == .feed

/-- A context on a FEED step takes the source its feed's state asks for (R140). A burst in flight for the source it
leaves is redirected. One that leaves the ring begins its fallback by the descriptor of the active library as it then stands
(DEDUCED; log 38). One whose feed was lost and cleared again between two readings of its state, with a fetch in flight or a
fill above 8, goes on as it was: it keeps its pointer and places the burst (DEDUCED; log 46). -/
def State.followFeed (s : State) (k : Nat) : State :=
  let x := s.context k
  if x.onFeed then
    let f := s.feed x.step.feed
    match decide (f.state = .live), x.source with
    | true, .ring => s
    | true, _ => s.setContext k { x.join f with redirected := x.redirected || x.inFlight }
    | false, .ring => s.setContext k { x.fallBack (s.segment x.step.arg) 0 with redirected := x.redirected || x.inFlight }
    | false, _ => s
  else s

/-- Whether a context is bound and running (R108, R125). -/
def Context.running (x : Context) : Bool :=
  match x.state with
  | .starting => true
  | .playing => true
  | .free => false
  | .draining => false

/-- Whether a context is at a moment it takes its next samples: fill 8 or less and no fetch in flight (R140). -/
def Context.hungry (x : Context) : Bool :=
  x.running && !x.inFlight && decide (x.buffer.length ≤ Config.lowWater)

/-- The contexts' part of a change of a feed's state (R140): those on its FEED step that are at such a moment switch. -/
def State.switchReaders (s : State) (f : Nat) : State :=
  s.playout.contexts.foldl
    (fun s e => if e.2.hungry && e.2.onFeed && e.2.step.feed == f then s.followFeed e.1 else s) s

/-! ### Beginning and resuming steps (R115 to R121) -/

/-- What the control of a context does next: begin a step, resume from a return record by itself (R123) or because a RETURN
names it (R121), or nothing. -/
inductive Control where
  | begin (index : Nat)
  | resume (r : ReturnRecord)
  | returned (r : ReturnRecord)
  | done
  deriving DecidableEq, Repr

/-- The index of the current step; an announcement has none and reads as 0. -/
def Context.index (x : Context) : Nat :=
  match x.activity with
  | .step i => i
  | .announcement => 0

/-- A count of passes or bursts remaining lowered by 1; from 0 the result is a free value (R116, R117, R120; log 11). -/
def State.lower (s : State) (n : Nat) : Nat × State :=
  if n = 0 then ((Config.loweredZero s.freeIndex).toNat, { s with freeIndex := s.freeIndex + 1 }) else (n - 1, s)

/-- The end of a pass of a PLAY step (R116): another pass from the loop start, or the end of the step. -/
def State.endPass (s : State) (k : Nat) : State × Control :=
  let x := s.context k
  if x.step.count = 0 then (s.setContext k { x with position := x.segment.loopStart }, .done)
  else
    let r := s.lower x.passes
    if r.1 = 0 then (r.2, .begin (x.index + 1))
    else (r.2.setContext k { x with passes := r.1, position := x.segment.loopStart }, .done)

/-- The end of a period of a TONE step (R117): another period from sample 0, or the end of the step. -/
def State.endPeriod (s : State) (k : Nat) : State × Control :=
  let x := s.context k
  if x.step.count = 0 then (s.setContext k { x with phase := 0, position := 0 }, .done)
  else
    let r := s.lower x.bursts
    if r.1 = 0 then (r.2, .begin (x.index + 1))
    else (r.2.setContext k { x with bursts := r.1, phase := 0, position := 0 }, .done)

/-- Pops the top return record; a pop to depth 0 loads the interjection timer afresh (R121 to R123). -/
def State.popReturn (s : State) (k : Nat) : State × Control :=
  let x := s.context k
  match x.stack with
  | [] => (s, .done)
  | r :: rest =>
    (s.setContext k
      { x with stack := rest, timer := if rest.isEmpty then (s.program x.program).period else x.timer }, .resume r)

/-- A context that has begun a step: its copy, and position, passes, phase and bursts at their start. -/
def Context.beginStep (x : Context) (i : Nat) (g : ProgramStep) : Context :=
  { x with
    activity := .step i, step := g, position := 0, passes := 0, phase := 0, bursts := 0
    beginnings := x.beginnings + 1, source := .segment }

/-- The record a CALL pushes: the step after it, everything else 0 and clear (R120). -/
def callRecord (i : Nat) : ReturnRecord :=
  { step := i + 1, position := 0, passes := 0, phase := 0, bursts := 0, announcement := false, fallback := false }

/-- The beginning of step `i`, by its kind (R115 to R121, R102, R103). -/
def State.beginStep (s : State) (k i : Nat) : State × Control :=
  let x := s.context k
  if Config.stepsPerProgram ≤ i ∨ Config.maxBeginnings ≤ x.beginnings + 1 then (s.badStep k, .done)
  else
    let p := s.program x.program
    let g := p.steps.getD i {}
    let y := x.beginStep i g
    let playOnce (choice : Option Nat) : State × Control :=
      match choice with
      | none => (s.setContext k y, .begin (i + 1))
      | some n =>
        if (s.segment n).defined then (s.setContext k { y with segment := s.segment n }, .done)
        else (s.setContext k y, .begin (i + 1))
    match g.kind with
    | .stop =>
      ((s.endContext k).post .call .programEnd (some x.call) none none x.program, .done)
    | .play =>
      if (s.segment g.arg).defined then
        (s.setContext k { y with segment := s.segment g.arg, passes := g.count }, .done)
      else (s.setContext k y, .begin (i + 1))
    | .feed =>
      if Config.numFeeds ≤ g.feed then (s.badStep k, .done)
      else if (s.feed g.feed).state = .live then (s.setContext k (y.join (s.feed g.feed)), .done)
      else (s.setContext k (y.fallBack (s.segment g.arg) 0), .done)
    | .sayWait => playOnce (s.sayWaitSegment x.call p)
    | .sayPosition => playOnce (s.sayPositionSegment x.call p)
    | .quiet => if g.count = 0 then (s.setContext k y, .begin (i + 1)) else (s.setContext k y, .done)
    | .tone =>
      if g.period = 0 then (s.badStep k, .done)
      else if (s.segment g.arg).defined then
        (s.setContext k { y with segment := s.segment g.arg, bursts := g.count }, .done)
      else (s.setContext k y, .begin (i + 1))
    | .jump => (s.setContext k y, .begin g.arg)
    | .call =>
      if Config.stackDepth ≤ x.stack.length then
        ((s.setContext k y).post .playout .playoutFault (some x.call) none none detailStackOverflow, .begin (i + 1))
      else (s.setContext k { y with stack := callRecord i :: x.stack }, .begin g.arg)
    | .ret =>
      match x.stack with
      | [] => ((s.setContext k y).post .playout .playoutFault (some x.call) none none detailReturnEmpty, .begin 0)
      | r :: _ => (((s.setContext k y).popReturn k).1, .returned r)
    | .other _ => (s.badStep k, .done)

/-- A context resumed at a record's place (R121). -/
def Context.resumeAt (x : Context) (r : ReturnRecord) (g : ProgramStep) : Context :=
  { x with
    activity := .step r.step, step := g, position := r.position, passes := r.passes, phase := r.phase
    bursts := r.bursts, source := .segment }

/-- Resuming from a popped return record, against the active library as it stands (R121). DEDUCED: a PLAY or TONE whose
segment is no longer DEFINED is skipped, a QUIET or period already complete ends at once, and the faults of R115 apply (log
13); the automatic return of an announcement is no step beginning (log 12). -/
def State.resumeStep (s : State) (k : Nat) (r : ReturnRecord) : State × Control :=
  let x := s.context k
  if Config.stepsPerProgram ≤ r.step then (s.badStep k, .done)
  else
    let g := (s.program x.program).steps.getD r.step {}
    let y := x.resumeAt r g
    match g.kind with
    | .play =>
      if (s.segment g.arg).defined then
        let s' := s.setContext k { y with segment := s.segment g.arg }
        if (s.segment g.arg).length ≤ r.position then s'.endPass k else (s', .done)
      else (s.setContext k y, .begin (r.step + 1))
    | .quiet =>
      if g.count * Config.framesPerTick ≤ r.position then (s.setContext k y, .begin (r.step + 1))
      else (s.setContext k y, .done)
    | .tone =>
      if g.period = 0 then (s.badStep k, .done)
      else if (s.segment g.arg).defined then
        let s' := s.setContext k { y with segment := s.segment g.arg }
        if g.period ≤ r.phase then s'.endPeriod k else (s', .done)
      else (s.setContext k y, .begin (r.step + 1))
    | .feed =>
      if Config.numFeeds ≤ g.feed then (s.badStep k, .done)
      else if (s.feed g.feed).state = .live then (s.setContext k (y.join (s.feed g.feed)), .done)
      else (s.setContext k (y.fallBack (s.segment g.arg) (if r.fallback then r.position else 0)), .done)
    | .stop | .sayWait | .sayPosition | .jump | .call | .ret | .other _ => (s, .begin r.step)

/-- Whether a step is taken up at its saved place when it is resumed; any other kind begins from its start (R121). -/
def ProgramStep.keepsPlace (g : ProgramStep) : Bool :=
  match g.kind with
  | .play | .quiet | .tone | .feed => true
  | .stop | .sayWait | .sayPosition | .jump | .call | .ret | .other _ => false

/-- A step that a RETURN names: its beginning is counted as any other's is, and the sixteenth in a row stops the context
(R115); a step that begins from its start is counted there (R121). -/
def State.returnStep (s : State) (k : Nat) (r : ReturnRecord) : State × Control :=
  let x := s.context k
  if ((s.program x.program).steps.getD r.step {}).keepsPlace then
    if Config.maxBeginnings ≤ x.beginnings + 1 then (s.badStep k, .done)
    else (s.setContext k { x with beginnings := x.beginnings + 1 }).resumeStep k r
  else s.resumeStep k r

/-- One act of control. -/
def State.controlStep (s : State) (k : Nat) : Control → State × Control
  | .begin i => s.beginStep k i
  | .resume r => s.resumeStep k r
  | .returned r => s.returnStep k r
  | .done => (s, .done)

/-- Beginnings follow one another within one event until a step is reached that has samples to place (R115). -/
def State.runControl : Nat → State → Nat → Control → State
  | 0, s, _, _ => s
  | n + 1, s, k, c =>
    match c with
    | .done => s
    | .begin i => State.runControl n (s.beginStep k i).1 k (s.beginStep k i).2
    | .resume r => State.runControl n (s.resumeStep k r).1 k (s.resumeStep k r).2
    | .returned r => State.runControl n (s.returnStep k r).1 k (s.returnStep k r).2

/-- Enough acts for any chain: the sixteenth beginning stops the context (R115), and at most one resumption comes
between two beginnings. -/
def controlFuel : Nat := 40

def State.control (s : State) (k : Nat) (c : Control) : State := State.runControl controlFuel s k c

/-! ### Starting a context (R110) -/

/-- The lowest-numbered FREE context. -/
def State.freeContext (s : State) : Option Nat :=
  (List.range Config.numContexts).find? fun k => (s.context k).state == .free

/-- A freshly allocated context (R110). -/
def Context.started (call channel program timer : Nat) (taken : Tick) : Context :=
  { Context.cold with
    state := .starting, call := call, channel := channel, program := program, timer := timer, ticksTaken := taken }

/-- A start request of the Call Unit (R110): declined for a channel above 2,047 or already bound, or with no FREE
context; else the context is allocated and bound, the call names it, and step 0 begins. -/
def State.startContext (s : State) (c channel program : Nat) : Bool × State :=
  if Config.numChannels ≤ channel then (false, s)
  else if s.binding channel ≠ none then (false, s)
  else
    match s.freeContext with
    | none => (false, s)
    | some k =>
      let s := s.setContext k (Context.started c channel program (s.program program).period
        (caughtUp (s.context k).ticksTaken s.tick))
      let s := s.setBinding channel (some k)
      let s := s.setCall c { s.call c with context := some k }
      (true, s.control k (.begin 0))

/-- The playout request of ENQUEUE, TRANSFER and HOLD (R11): the program resolved against the queue's, and asked for
when it is 0 to 63 and the channel is not 0xFFFF. -/
def State.askPlayout (s : State) (c own queues : Nat) : ResultCode × State :=
  let p := if own = 255 then queues else own
  if p < Config.numPrograms ∧ (s.call c).channel ≠ 0xFFFF then
    let r := s.startContext c (s.call c).channel p
    (if r.1 then .ok else .okNoPlayout, r.2)
  else (.okNoPlayout, s)

/-! ### Where the next samples come from (R116 to R118, R126) -/

/-- The source of a context's next samples: memory bytes from an address, a feed's ring, generated silence (each with the
samples left before a pass, an on part, a period, a segment or a stretch ends), or none. -/
inductive SampleSource where
  | memory (address : Word) (left : Nat)
  | ring (feed : Nat)
  | generated (left : Nat)
  | nothing
  deriving DecidableEq, Repr

/-- The segment sample that the on sample at position `n` of a TONE period is (R117). -/
def toneSample (g : Segment) (n : Nat) : Nat :=
  if n < g.length then n else g.loopStart + (n - g.length) % (g.length - g.loopStart)

/-- Sample `i` of a segment is the byte at start + i modulo 2^32 (R113). -/
def Segment.address (g : Segment) (i : Nat) : Word := g.start + BitVec.ofNat 32 i

/-- The source of a context's next samples. -/
def Context.next (x : Context) : SampleSource :=
  let played : SampleSource := .memory (x.segment.address x.position) (x.segment.length - x.position)
  match x.activity with
  | .announcement => played
  | .step _ =>
    match x.step.kind with
    | .play => played
    | .sayWait => played
    | .sayPosition => played
    | .feed =>
      match x.source with
      | .ring => .ring x.step.feed
      | .segment => played
      | .silence => .generated Config.groupSize
    | .quiet => .generated (x.step.count * Config.framesPerTick - x.position)
    | .tone =>
      if x.phase < x.step.on then
        let i := toneSample x.segment x.position
        .memory (x.segment.address i) (min (x.step.on - x.phase) (x.segment.length - i))
      else .generated (x.step.period - x.phase)
    | .stop | .jump | .call | .ret | .other _ => .nothing

/-- Whether a context's fetch request stands (R126, R141). -/
def State.requests (s : State) (x : Context) : Bool :=
  x.hungry &&
    match x.next with
    | .memory _ left => decide (0 < left)
    | .ring f => decide (0 < (s.feed f).availableAt x.pointer)
    | .generated _ => false
    | .nothing => false

/-! ### Placing a group (R124) -/

/-- The write side moves on by `n` samples placed, and the activity goes on at an end it reaches (R116 to R118, R123). -/
def State.advance (s : State) (k n : Nat) : State × Control :=
  let x := s.context k
  let moved := s.setContext k { x with position := x.position + n }
  match x.activity with
  | .announcement => if x.segment.length ≤ x.position + n then moved.popReturn k else (moved, .done)
  | .step i =>
    match x.step.kind with
    | .play => if x.segment.length ≤ x.position + n then moved.endPass k else (moved, .done)
    | .sayWait => if x.segment.length ≤ x.position + n then (moved, .begin (i + 1)) else (moved, .done)
    | .sayPosition => if x.segment.length ≤ x.position + n then (moved, .begin (i + 1)) else (moved, .done)
    | .quiet => if x.step.count * Config.framesPerTick ≤ x.position + n then (moved, .begin (i + 1)) else (moved, .done)
    | .tone =>
      let y := { x with phase := x.phase + n, position := if x.phase < x.step.on then x.position + n else x.position }
      if x.step.period ≤ x.phase + n then (s.setContext k y).endPeriod k else (s.setContext k y, .done)
    | .feed =>
      match x.source with
      | .segment =>
        if x.segment.length ≤ x.position + n then (s.setContext k { x with position := x.segment.loopStart }, .done)
        else (moved, .done)
      | .ring =>
        let f := (s.feed x.step.feed).latched
        let p := x.pointer + BitVec.ofNat 32 n
        (s.setContext k { x with pointer := if p = f.ringEnd then f.ringStart else p }, .done)
      | .silence => (s, .done)
    | .stop | .jump | .call | .ret | .other _ => (s, .done)

/-- A context with a group joined to its buffer: the first group makes it PLAYING, and any sample restarts the count of
beginnings (R124, R115). -/
def Context.fill (x : Context) (samples : List Byte) : Context :=
  { x with state := .playing, buffer := x.buffer ++ samples, beginnings := 0 }

/-- Places a group and lets the activity go on (R124). -/
def State.place (s : State) (k : Nat) (samples : List Byte) : State :=
  let s := s.setContext k ((s.context k).fill samples)
  (s.advance k samples.length).1.control k (s.advance k samples.length).2

/-- The end an error response forces: as if the last sample of the last pass had been placed (R129). -/
def State.endActivity (s : State) (k : Nat) : State :=
  let x := s.context k
  match x.activity with
  | .announcement => (s.popReturn k).1.control k (s.popReturn k).2
  | .step i => s.control k (.begin (i + 1))

/-! ### Cutting an activity (R120, R122, R123) -/

/-- The record that saves the current activity, with the announcement marker as given (R120, R122, R123). In STARTING too it is
the current step that is saved, step 0 or a later one (DEDUCED; log 44). -/
def Context.saved (x : Context) (marker : Bool) : ReturnRecord :=
  { step := x.index, position := x.position, passes := x.passes, phase := x.phase, bursts := x.bursts
    announcement := marker, fallback := x.onFeed && x.source != .ring }

/-- Pushes the current activity; a burst in flight for it is redirected (R122, R123). -/
def Context.cut (x : Context) (marker : Bool) : Context :=
  { x with stack := x.saved marker :: x.stack, redirected := x.redirected || x.inFlight }

/-- An interjection: the activity is pushed and the header's interjection step begins (R122). -/
def State.interject (s : State) (k : Nat) : State :=
  let x := s.context k
  (s.setContext k (x.cut false)).control k (.begin (s.program x.program).interjectionStep)

/-- Begins an announcement; one whose segment is not DEFINED ends at its beginning (R123). The pop that follows acts as R121
has it, so a SAY step begins afresh and a ring is joined anew (DESIGN CHOICE; log 39). -/
def State.beginAnnouncement (s : State) (k n : Nat) : State :=
  let s := s.setContext k
    { s.context k with activity := .announcement, segment := s.segment n, position := 0, passes := 0, phase := 0, bursts := 0 }
  if (s.segment n).defined then s else (s.popReturn k).1.control k (s.popReturn k).2

/-- An accepted ANNOUNCE as the Playout Engine takes it (R123). -/
def State.announce (s : State) (k n : Nat) : ResultCode × State :=
  let x := s.context k
  match x.activity with
  | .announcement =>
    (.ok, (s.setContext k { x with redirected := x.redirected || x.inFlight }).beginAnnouncement k n)
  | .step _ =>
    if Config.stackDepth ≤ x.stack.length then (.stackFull, s)
    else (.ok, (s.setContext k (x.cut true)).beginAnnouncement k n)

/-! ### The fetcher (R126, R142) -/

/-- The context the fetcher serves: the lowest fill among the standing requests, then the lowest number (R126). -/
def State.chooseFetch (s : State) : Option Nat :=
  (s.playout.contexts.foldl
    (fun best e =>
      if s.requests e.2 then
        match best with
        | none => some e
        | some b => if e.2.buffer.length < b.2.buffer.length then some e else best
      else best)
    (none : Option (Nat × Context))).map (·.1)

/-- The number of standing requests (R126, R165). -/
def State.fetchWaiting (s : State) : Nat :=
  ((List.range Config.numContexts).filter fun k => s.requests (s.context k)).length

/-- The lap rejoin of a reader the writer is about to overtake (R141). -/
def Context.lapRejoin (x : Context) (f : Feed) : Context :=
  if f.latched.size - Config.lapMargin < f.availableAt x.pointer then x.join f else x

/-- The two-beat burst from the word that holds the next sample (R126). -/
def segmentBurst (k : Nat) (a : Word) (left : Nat) : FetchBurst :=
  let skip := a.toNat % 4
  { context := k, address := a - BitVec.ofNat 32 skip, beats := 2, skip := skip, count := min (8 - skip) left }

/-- The burst for a reader on a ring: one beat when its word is the ring's last (R142). -/
def ringBurst (k : Nat) (f : Feed) (p : Word) : FetchBurst :=
  let skip := p.toNat % 4
  let word := p - BitVec.ofNat 32 skip
  let beats := if word + 4 = f.latched.ringEnd then 1 else 2
  { context := k, address := word, beats := beats, skip := skip
    count := min (min (4 * beats - skip) (f.availableAt p)) (f.latched.ringEnd.toNat - p.toNat) }

/-- The samples a burst's data carries for its context, in address order (R126). -/
def burstSamples (b : FetchBurst) (first second : Word) : List Byte :=
  ((((List.range 4).map fun i => first.extractLsb' (8 * i) 8)
    ++ ((List.range 4).map fun i => second.extractLsb' (8 * i) 8)).drop b.skip).take b.count

end Sys2Proof.Machine
end

