-- ==== Sys2Proof/Machine/Intake.lean ====
section
/-! DEFINITION. The frame every command's meaning stands in: no event while RESET is asserted, the arbiter's count kept
in step (R127, R155), and the handing-over of the intake's oldest entry (R150). Meaning of UNKNOWN_COMMAND. -/

namespace Sys2Proof.Machine

/-- What a step answers. -/
abbrev Outcome := Host.Outcome State Fault Refusal

/-! ### The part's own requests (R155) -/

/-- A fetch request that can be served: one stands and the fetcher has no burst outstanding (R126, R155). -/
def State.fetchServable (s : State) : Bool :=
  s.playout.fetch.isNone && s.playout.contexts.any fun e => s.requests e.2

/-- A loading read that can be served: one is to be made and none is outstanding (R153, R155). Data of an abandoned burst that
is still to come holds no read back (DESIGN CHOICE; log 42). -/
def State.loadServable (s : State) : Bool :=
  decide (s.part.state = .loading) && s.part.burst.isNone && s.part.cursor.isSome

/-- Whether a servable request of the part's own stands. -/
def State.ownServable (s : State) : Bool := s.fetchServable || s.loadServable

/-- The count of consecutive pass-through beats is 0 while no servable request stands, so that it begins at 0 when one
comes to stand (R127, R155). -/
def State.settle (s : State) : State :=
  if s.ownServable then s else { s with path := { s.path with passCount := 0 } }

/-- Whether the part's own side takes the next slot: no pass-through beat waits, or 8 have gone while it stood (R155). -/
def State.ownTurn (s : State) : Bool := s.path.forward.isEmpty || decide (Config.passLimit ≤ s.path.passCount)

/-- One event of the part. While RESET is asserted none is taken (R157, log 23). -/
def event (s : State) (f : State → State) : Outcome :=
  if s.path.resetAsserted then .next s else .next (f s).settle

/-! ### Handing over (R150) -/

/-- The intake without its oldest entry. -/
def State.dropOldest (s : State) : State := { s with intake := s.intake.tail }

/-- The oldest entry leaves; the record's pending count falls by 1 (R148). -/
def State.dropEntry (s : State) (e : IntakeEntry) : State := s.dropOldest.modifyPending e (· - 1)

/-- Executes the oldest entry of a record: TORN, then NOT_ACTIVE, are settled before the owning unit's `body`, which
answers a result (R150). -/
def State.executeRecord (s : State) (e : IntakeEntry) (body : IntakeEntry → State → ResultCode × State) : State :=
  let s := s.dropEntry e
  if e.torn then s.writeResult e .torn
  else if s.part.state ≠ .active then s.writeResult e .notActive
  else (body e s).2.writeResult e (body e s).1

/-- A record command: taken when the intake's oldest entry is a command word of the kind with the code. Otherwise this is
not the event that comes next and nothing changes (log 1, log 3). -/
def recordCommand (kind : RecordKind) (code : Byte) (body : IntakeEntry → State → ResultCode × State) (s : State) :
    Outcome :=
  event s fun s =>
    match s.intake with
    | [] => s
    | e :: _ => if e.kind = kind ∧ e.flagWord = false ∧ e.code = code then s.executeRecord e body else s

/-- A part command: TORN, then NOT_ACTIVE in the part states R151 marks so, are settled before the part control's `body`,
which writes its own result (R150, R151). -/
def State.executePart (s : State) (e : IntakeEntry) (allowed : PartState → Bool) (body : IntakeEntry → State → State) :
    State :=
  let s := s.dropEntry e
  if e.torn then s.writeResult e .torn
  else if allowed s.part.state = false then s.writeResult e .notActive
  else body e s

def partCommand (code : Byte) (allowed : PartState → Bool) (body : IntakeEntry → State → State) (s : State) : Outcome :=
  event s fun s =>
    match s.intake with
    | [] => s
    | e :: _ => if e.kind = .part ∧ e.flagWord = false ∧ e.code = code then s.executePart e allowed body else s

/-- A part command's body that always writes a result. -/
def answering (body : IntakeEntry → State → ResultCode × State) (e : IntakeEntry) (s : State) : State :=
  (body e s).2.writeResult e (body e s).1

/-- The result of an entry whose code is not defined for its kind: TORN, NOT_ACTIVE for a record outside ACTIVE, and then
UNKNOWN (R150). -/
def State.unknownResult (s : State) (e : IntakeEntry) : ResultCode :=
  if e.torn then .torn
  else if e.kind ≠ .part ∧ s.part.state ≠ .active then .notActive
  else .unknown

/-- UNKNOWN_COMMAND (R150, R168). -/
def execUnknownCommand (s : State) : Outcome :=
  event s fun s =>
    match s.intake with
    | [] => s
    | e :: _ => if e.known = false then (s.dropEntry e).writeResult e (s.unknownResult e) else s

end Sys2Proof.Machine
end

