-- ==== Sys2Proof/Machine/Queues.lean ====
section
/-! DEFINITION. The Queue Unit: entry with the overflow check, timed overflow, and the six queue commands (02). -/

namespace Sys2Proof.Machine

/-! ### Entry (R37, R39, R40) -/

/-- The Queue Unit's checks on the queue an ENQUEUE or TRANSFER names (R37). -/
def State.queueError (s : State) (q : Nat) : Option ResultCode :=
  match (s.queue q).state with
  | .idle => some .badQueue
  | .closed => some .queueClosed
  | .open => if (s.queue q).settings.capacity ≤ (s.queue q).occupancy then some .queueFull else none

/-- Whether a queue takes a call as an overflow target: OPEN, with room (R27, R39, R41). -/
def Queue.takesOverflow (q : Queue) : Bool := decide (q.state = .open) && decide (q.occupancy < q.settings.capacity)

/-- Whether queue `q` passes an entering call on (R39): its mode and target, its EWT at the call's position above the
threshold, and the target's room. -/
def State.passesOn (s : State) (q : Nat) (x : Call) : Bool :=
  let g := (s.queue q).settings
  (decide (g.mode = .ewt) || decide (g.mode = .both)) && g.target != 255
    && decide (g.threshold < s.callWait q (s.entryPosition q x))
    && (s.queue g.target).takesOverflow

/-- A queue a call passes through: ENTERED and OVERFLOWED_OUT rise, occupancy does not (R40). -/
def Queue.passedThrough (q : Queue) : Queue := { q with entered := q.entered + 1, overflowedOut := q.overflowedOut + 1 }

/-- The chain of entry checks, with at most `n` more hops: the landing queue and the hops taken (R39, R40). -/
def State.entryChain (s : State) (x : Call) : Nat → Nat → Nat → Nat × Nat × State
  | 0, q, hops => (q, hops, s)
  | n + 1, q, hops =>
    if s.passesOn q x then
      (s.setQueue q (s.queue q).passedThrough).entryChain x n (s.queue q).settings.target (hops + 1)
    else (q, hops, s)

/-- A queue a call lands in: ENTERED and occupancy rise (R40). -/
def Queue.landed (q : Queue) : Queue := { q with entered := q.entered + 1, occupancy := q.occupancy + 1 }

/-- The seniority counter after a number is taken: it wraps from 2^48 - 1 to 0 (R9). -/
def State.takeSeniority (s : State) : State := { s with seniority := s.seniority + 1 }

/-- The entry of a call into a named queue, shared by ENQUEUE and TRANSFER (R8 steps 3 to 7, R19 steps 5 to 7): a
seniority number, the entry ticks, the entry chain, the waiting list, the deadlines and a call trigger. -/
def State.enterQueue (s : State) (c q : Nat) : State :=
  let x := { s.call c with seniority := s.seniority, firstEntry := s.tick, queueEntry := s.tick }
  let s := s.takeSeniority
  let r := s.entryChain x Config.maxHops q 0
  let s := r.2.2.setQueue r.1 (r.2.2.queue r.1).landed
  let y := { x with state := .queued, currentQueue := some r.1, hops := r.2.1 }
  let s := s.setCall c (y.enterSlots (s.queue r.1).settings)
  let s := s.enterWaiting r.1 c
  (s.refreshDeadline c).addTrigger (.call c)

/-! ### Timed overflow (R41, R42) -/

inductive OverflowAnswer where
  | notTimed | refused | moved
  deriving DecidableEq, Repr

/-- The Queue Unit's answer to a timed overflow of a call (R41). -/
def State.overflowAnswer (s : State) (c q : Nat) : OverflowAnswer :=
  let g := (s.queue q).settings
  if g.mode = .none ∨ g.mode = .ewt ∨ g.overflowAfter = 0 ∨ g.target = 255 ∨ Config.maxHops ≤ (s.call c).hops then
    .notTimed
  else if (s.queue g.target).takesOverflow = false then .refused
  else .moved

/-- The move of R42, with the Call Unit's part: queues, hops, the notice, the entry tick and slots, and a trigger. -/
def State.overflowMove (s : State) (c q : Nat) : State :=
  let t := (s.queue q).settings.target
  let s := s.leaveWaiting q c
  let s := s.setQueue q
    { s.queue q with occupancy := (s.queue q).occupancy - 1, overflowedOut := (s.queue q).overflowedOut + 1 }
  let s := s.enterWaiting t c
  let s := s.setQueue t (s.queue t).landed
  let y := { s.call c with currentQueue := some t, hops := (s.call c).hops + 1, queueEntry := s.tick }
  let s := s.setCall c (y.enterSlots (s.queue t).settings)
  let s := s.post .call .overflowed (some c) none (some t) q
  s.addTrigger (.call c)

/-! ### The queue commands (R30 to R35) -/

/-- Latches an active copy, with the clamps of R28; an upper limit of 0 returns the alarm to NORMAL (R105). -/
def Queue.latch (q : Queue) (g : QueueSettings) : Queue :=
  let a := g.clamp q.occupancy
  { q with settings := a, alarm := if a.upper = 0 then .normal else q.alarm }

/-- OK_CLAMPED when a clamp applied (R28). -/
def clampResult (g : QueueSettings) (occupancy : Nat) : ResultCode :=
  if g.clamp occupancy = g then .ok else .okClamped

/-- OPEN (R31, R96): from IDLE, H starts at 16 times the seed. -/
def openBody (e : IntakeEntry) (s : State) : ResultCode × State :=
  let q := s.queue e.index
  if q.state = .open then (.wrongState, s)
  else
    match queueSettings e.index e.snapshot with
    | none => (.badField, s)
    | some g =>
      let l := q.latch g
      (clampResult g q.occupancy,
        s.setQueue e.index
          { l with
            state := .open
            handle := if q.state = .idle then 16 * g.seed else q.handle
            ticksTaken := if q.state = .idle then caughtUp q.ticksTaken s.tick else q.ticksTaken })

/-- CLOSE (R32). -/
def closeBody (e : IntakeEntry) (s : State) : ResultCode × State :=
  if (s.queue e.index).state = .idle then (.wrongState, s)
  else (.ok, s.setQueue e.index { s.queue e.index with state := .closed })

/-- PAUSE (R33). -/
def pauseBody (e : IntakeEntry) (s : State) : ResultCode × State :=
  if (s.queue e.index).state = .idle then (.wrongState, s)
  else (.ok, s.setQueue e.index { s.queue e.index with paused := true })

/-- UNPAUSE: a queue trigger when it clears a set flag (R33). -/
def unpauseBody (e : IntakeEntry) (s : State) : ResultCode × State :=
  if (s.queue e.index).state = .idle then (.wrongState, s)
  else if (s.queue e.index).paused then
    (.ok, (s.setQueue e.index { s.queue e.index with paused := false }).addTrigger (.queue e.index))
  else (.ok, s)

/-- APPLY (R34). -/
def applyBody (e : IntakeEntry) (s : State) : ResultCode × State :=
  let q := s.queue e.index
  if q.state = .idle then (.wrongState, s)
  else
    match queueSettings e.index e.snapshot with
    | none => (.badField, s)
    | some g => (clampResult g q.occupancy, s.setQueue e.index (q.latch g))

/-- The counters after RESET_COUNTERS (R35). -/
def Queue.resetCounters (q : Queue) : Queue :=
  { q with
    entered := BitVec.ofNat 32 q.occupancy, answered := 0, answeredInSl := 0, abandoned := 0, overflowedOut := 0 }

/-- RESET_COUNTERS, in any state (R30, R35). -/
def resetCountersBody (e : IntakeEntry) (s : State) : ResultCode × State :=
  (.ok, s.setQueue e.index (s.queue e.index).resetCounters)

def execOpen (s : State) : Outcome := recordCommand .queue 1 openBody s
def execClose (s : State) : Outcome := recordCommand .queue 2 closeBody s
def execPause (s : State) : Outcome := recordCommand .queue 3 pauseBody s
def execUnpause (s : State) : Outcome := recordCommand .queue 4 unpauseBody s
def execApply (s : State) : Outcome := recordCommand .queue 5 applyBody s
def execResetCounters (s : State) : Outcome := recordCommand .queue 6 resetCountersBody s

end Sys2Proof.Machine
end

