-- ==== Sys2Proof/Machine/Offers.lean ====
section
/-! DEFINITION. What calls and agents share: wrap-up entry and end with the handle-time sample (05), and the ends of an
offer with the restore by keys (04 R77 to R81). -/

namespace Sys2Proof.Machine

/-! ### Wrap-up (R85, R86, R91, R93, R94) -/

/-- The handle-time sample: end tick minus held answer tick, at most 65,535 (R93). -/
def handleSample (now answered : Tick) : Nat := min (age now answered) Config.maxTicks

/-- Hands a sample for the agent's last queue to the Wait Estimator (R93). -/
def State.handSample (s : State) (queue : Option Nat) (n : Nat) : State :=
  match queue with
  | none => s
  | some q => { s with samples := s.samples ++ [{ queue := q, ticks := n }] }

/-- The wrap-up end of an agent at the present tick (R91): state by the flags, both pending flags used, the head counts,
an agent trigger when it goes to AVAILABLE, the sample and the notice WRAP_END. -/
def State.wrapEnd (s : State) (a : Nat) (byReady : Bool) : State :=
  let g := s.agent a
  let now := g.flags.wrapEndState byReady
  let n := handleSample s.tick g.heldAnswer
  let s := s.setAgent a { g with wrapRemaining := 0, heldAnswer := 0, flags := g.flags.clearPending }
  let s := s.moveAgent a now
  let s := if now = .available then s.addTrigger (.agent a) else s
  let s := s.handSample g.lastQueue n
  s.post .agent .wrapEnd none (some a) g.lastQueue n

/-- The wrap-up length chosen at an entry: the agent's own when above 0, else its last queue's, at most the ceiling
(R86). -/
def State.wrapLength (s : State) (a : Nat) : Nat :=
  let g := s.agent a
  let own := if 0 < g.wrapLength then g.wrapLength
    else match g.lastQueue with
      | none => 0
      | some q => (s.queue q).settings.wrapLength
  min own s.part.config.wrapCeiling

/-- Wrap-up entry, with the answer tick handed over (R85). -/
def State.wrapEntry (s : State) (a : Nat) (answered : Tick) : State :=
  let n := s.wrapLength a
  let s := s.setAgent a { s.agent a with currentCall := none, heldAnswer := answered, wrapRemaining := n }
  if n = 0 then s.wrapEnd a false else s.moveAgent a .wrapUp

/-! ### The ends of an offer (R77 to R81) -/

/-- A call put back into the waiting list of its current queue, without a capacity check (R77). -/
def State.waitAgain (s : State) (c : Nat) : State :=
  match (s.call c).currentQueue with
  | none => s
  | some q => s.enterWaiting q c

/-- A restore by keys, with the last-offer-end kind of the end that caused it (R77). -/
def State.restore (s : State) (c : Nat) (kind : OfferEnd) : State :=
  let x := s.call c
  let s := s.setCall c
    { x with
      state := .queued, agent := none, lastEnd := kind, offerExpiry := none
      overflowDue := rearm s.tick x.overflowDue, maxWaitDue := rearm s.tick x.maxWaitDue }
  let s := s.waitAgain c
  (s.refreshDeadline c).addTrigger (.call c)

/-- The agent's side of an offer that rang out: NOT_READY with the mark (R64, R79, R80). -/
def State.ringOut (s : State) (a : Nat) : State :=
  let g := s.agent a
  (s.setAgent a { g with currentCall := none, flags := { g.flags with rnaMark := true } }).moveAgent a .notReady

/-- The end of an offer as unanswered, by NO_ANSWER or expiry (R79, R80). -/
def State.unanswered (s : State) (c : Nat) (kind : OfferEnd) : State :=
  match (s.call c).agent with
  | none => s.restore c kind
  | some a => (s.restore c kind).ringOut a

/-- The agent's withdrawal by NOT_READY or LOGOUT (R56, R81). -/
def State.withdrawAgent (s : State) (a : Nat) (now : AgentState) (detail : Nat) : State :=
  let g := s.agent a
  match g.currentCall with
  | none => s.moveAgent a now
  | some c =>
    let s := (s.restore c .withdrawn).setAgent a { g with currentCall := none }
    let s := s.moveAgent a now
    s.post .dispatch .offerWithdrawn (some c) (some a) (s.call c).currentQueue detail

/-- A call made FREE: agent and current queue none, slots none, its entry gone (R4, R13, R18, R22). -/
def State.freeCall (s : State) (c : Nat) : State :=
  (s.setCall c { (s.call c).clearSlots with state := .free, agent := none, currentQueue := none }).refreshDeadline c

end Sys2Proof.Machine
end

