-- ==== Sys2Proof/Machine/Calls.lean ====
section
/-! DEFINITION. The ten call commands of the Call Unit (01, 04). -/

namespace Sys2Proof.Machine

/-! ### Entry: ENQUEUE and TRANSFER -/

/-- The checks after the state: fields, then the target queue (R7). -/
def State.entryError (s : State) (ws : List Word) : Option ResultCode :=
  match entryFieldError ws with
  | some r => some r
  | none => s.queueError (callTarget ws)

/-- The fields ENQUEUE and TRANSFER both latch (R3). -/
def Call.latchEntry (x : Call) (ws : List Word) : Call :=
  { x with priority := callPriority ws, targetQueue := callTarget ws, queueProgram := callQueueProgram ws }

/-- The queue program of a call's current queue, 255 without one (R11). -/
def State.landingProgram (s : State) (c : Nat) : Nat :=
  match (s.call c).currentQueue with
  | none => 255
  | some q => (s.queue q).settings.queueProgram

/-- The hold program of a call's current queue, 255 without one (R11). -/
def State.landingHold (s : State) (c : Nat) : Nat :=
  match (s.call c).currentQueue with
  | none => 255
  | some q => (s.queue q).settings.holdProgram

/-- ENQUEUE (R8). -/
def enqueueBody (e : IntakeEntry) (s : State) : ResultCode × State :=
  let c := e.index
  if (s.call c).state ≠ .free then (.wrongState, s)
  else
    match s.entryError e.snapshot with
    | some r => (r, s)
    | none =>
      let x := { (s.call c).latchEntry e.snapshot with
        channel := callChannel e.snapshot, hops := 0, attempts := 0, underruns := 0, answerTick := 0, lastEnd := .none }
      let s := (s.setCall c x).enterQueue c (callTarget e.snapshot)
      s.askPlayout c (callQueueProgram e.snapshot) (s.landingProgram c)

/-- Ends the agent's call and begins its wrap-up, handing over the answer tick (R18, R19, R85). -/
def State.endAgentCall (s : State) (c : Nat) : State :=
  match (s.call c).agent with
  | none => s
  | some a => s.wrapEntry a (s.call c).answerTick

/-- TRANSFER (R19). -/
def transferBody (e : IntakeEntry) (s : State) : ResultCode × State :=
  let c := e.index
  if (s.call c).state ≠ .connected ∧ (s.call c).state ≠ .agentHold then (.wrongState, s)
  else
    match s.entryError e.snapshot with
    | some r => (r, s)
    | none =>
      let s := s.setCall c ((s.call c).latchEntry e.snapshot)
      let s := s.endAgentCall c
      let s := s.setCall c { s.call c with agent := none, hops := 0 }
      let s := s.stopCall c
      let s := s.enterQueue c (callTarget e.snapshot)
      s.askPlayout c (callQueueProgram e.snapshot) (s.landingProgram c)

/-! ### ABANDON -/

/-- A queue a call leaves by ABANDON: occupancy falls and ABANDONED rises (R13, R14, R37, R44). -/
def Queue.abandonOne (q : Queue) : Queue := { q with occupancy := q.occupancy - 1, abandoned := q.abandoned + 1 }

/-- The queue's side of an ABANDON. -/
def State.countAbandon (s : State) (c : Nat) : State :=
  match (s.call c).currentQueue with
  | none => s
  | some q => (s.leaveWaiting q c).setQueue q ((s.leaveWaiting q c).queue q).abandonOne

/-- The agent's side of a withdrawal by ABANDON: AVAILABLE, with a trigger (R64, R81). -/
def State.releaseOffered (s : State) (agent : Option Nat) : State :=
  match agent with
  | none => s
  | some a => ((s.setAgent a { s.agent a with currentCall := none }).moveAgent a .available).addTrigger (.agent a)

/-- The withdrawal of the offer of an abandoned call: the agent's return, the end kind and the event (R14, R81). -/
def State.withdrawCall (s : State) (c : Nat) : State :=
  let x := s.call c
  let s := s.releaseOffered x.agent
  let s := s.setCall c { s.call c with lastEnd := .withdrawn }
  s.post .dispatch .offerWithdrawn (some c) x.agent x.currentQueue detailAbandon

/-- ABANDON (R13, R14). -/
def abandonBody (e : IntakeEntry) (s : State) : ResultCode × State :=
  let c := e.index
  match (s.call c).state with
  | .queued => (.ok, ((s.countAbandon c).stopCall c).freeCall c)
  | .offered => (.ok, (((s.withdrawCall c).countAbandon c).stopCall c).freeCall c)
  | .free | .connected | .agentHold => (.wrongState, s)

/-! ### ANSWER and NO_ANSWER -/

/-- The checks of ANSWER and NO_ANSWER: the offer agent's range before the state (R7, R15). -/
def State.offerError (s : State) (c : Nat) (ws : List Word) : Option ResultCode :=
  if Config.numAgents ≤ callOfferAgent ws then some .badField
  else
    match (s.call c).state with
    | .offered => if (s.call c).agent = some (callOfferAgent ws) then none else some .tooLate
    | .queued => some .tooLate
    | .free | .connected | .agentHold => some .wrongState

/-- Whether an answer now counts within the service level of a queue (R45). -/
def Queue.inServiceLevel (q : Queue) (now first : Tick) : Bool := decide (age now first ≤ q.settings.serviceLevel)

/-- A queue at an ANSWER: occupancy falls, ANSWERED and perhaps ANSWERED_IN_SL rise (R37, R44, R45, R78). -/
def Queue.answerOne (q : Queue) (now first : Tick) : Queue :=
  { q with
    occupancy := q.occupancy - 1
    answered := q.answered + 1
    answeredInSl := if q.inServiceLevel now first then q.answeredInSl + 1 else q.answeredInSl }

/-- The queue's side of an ANSWER. -/
def State.countAnswer (s : State) (c : Nat) : State :=
  match (s.call c).currentQueue with
  | none => s
  | some q => s.setQueue q ((s.queue q).answerOne s.tick (s.call c).firstEntry)

/-- The agent's side of an ANSWER: BUSY, last queue and calls handled (R64, R78). -/
def State.connectAgent (s : State) (a : Nat) (q : Option Nat) : State :=
  (s.setAgent a { s.agent a with lastQueue := q, callsHandled := (s.agent a).callsHandled + 1 }).moveAgent a .busy

/-- ANSWER (R78). -/
def answerBody (e : IntakeEntry) (s : State) : ResultCode × State :=
  let c := e.index
  match s.offerError c e.snapshot with
  | some r => (r, s)
  | none =>
    let x := s.call c
    let s := s.setCall c { x.clearSlots with state := .connected, answerTick := s.tick, lastEnd := .answered }
    let s := s.refreshDeadline c
    let s := s.stopCall c
    let s := s.countAnswer c
    (.ok, s.connectAgent (callOfferAgent e.snapshot) x.currentQueue)

/-- NO_ANSWER (R79). -/
def noAnswerBody (e : IntakeEntry) (s : State) : ResultCode × State :=
  match s.offerError e.index e.snapshot with
  | some r => (r, s)
  | none => (.ok, s.unanswered e.index .noAnswer)

/-! ### HOLD, RESUME, RELEASE -/

/-- HOLD (R16): the hold program's range after the state (R3, R7). -/
def holdBody (e : IntakeEntry) (s : State) : ResultCode × State :=
  let c := e.index
  if (s.call c).state ≠ .connected then (.wrongState, s)
  else if programInRange (callHoldProgram e.snapshot) = false then (.badField, s)
  else
    let s := s.setCall c { s.call c with state := .agentHold, holdProgram := callHoldProgram e.snapshot }
    s.askPlayout c (callHoldProgram e.snapshot) (s.landingHold c)

/-- RESUME (R17). -/
def resumeBody (e : IntakeEntry) (s : State) : ResultCode × State :=
  let c := e.index
  if (s.call c).state ≠ .agentHold then (.wrongState, s)
  else
    let s := s.stopCall c
    (.ok, s.setCall c { s.call c with state := .connected })

/-- RELEASE (R18). -/
def releaseBody (e : IntakeEntry) (s : State) : ResultCode × State :=
  let c := e.index
  if (s.call c).state ≠ .connected ∧ (s.call c).state ≠ .agentHold then (.wrongState, s)
  else (.ok, ((s.stopCall c).endAgentCall c).freeCall c)

/-! ### PRIORITY and ANNOUNCE -/

/-- PRIORITY (R20). -/
def priorityBody (e : IntakeEntry) (s : State) : ResultCode × State :=
  let c := e.index
  if (s.call c).state = .free then (.wrongState, s)
  else if 15 < callPriority e.snapshot then (.badField, s)
  else
    let s := s.setCall c { s.call c with priority := callPriority e.snapshot }
    match (s.call c).state, (s.call c).currentQueue with
    | .queued, some q => (.ok, (s.leaveWaiting q c).enterWaiting q c)
    | _, _ => (.ok, s)

/-- ANNOUNCE (R21): refused without a context in STARTING or PLAYING. Answered STACK_FULL, it latches no announcement segment:
R21 latches before it hands the request over, R3 lets a refused command latch nothing, and R3 is followed (DEDUCED; log
45). -/
def announceBody (e : IntakeEntry) (s : State) : ResultCode × State :=
  let c := e.index
  match (s.call c).context with
  | none => (.noPlayout, s)
  | some k =>
    if (s.context k).running then
      let r := s.announce k (callSegment e.snapshot)
      match r.1 with
      | .ok => (.ok, r.2.setCall c { r.2.call c with announcement := callSegment e.snapshot })
      | code => (code, s)
    else (.noPlayout, s)

def execEnqueue (s : State) : Outcome := recordCommand .call 1 enqueueBody s
def execAbandon (s : State) : Outcome := recordCommand .call 2 abandonBody s
def execAnswer (s : State) : Outcome := recordCommand .call 3 answerBody s
def execNoAnswer (s : State) : Outcome := recordCommand .call 4 noAnswerBody s
def execHold (s : State) : Outcome := recordCommand .call 5 holdBody s
def execResume (s : State) : Outcome := recordCommand .call 6 resumeBody s
def execTransfer (s : State) : Outcome := recordCommand .call 7 transferBody s
def execRelease (s : State) : Outcome := recordCommand .call 8 releaseBody s
def execPriority (s : State) : Outcome := recordCommand .call 9 priorityBody s
def execAnnounce (s : State) : Outcome := recordCommand .call 10 announceBody s

end Sys2Proof.Machine
end

