-- ==== Sys2Proof/Machine/Agents.lean ====
section
/-! DEFINITION. The seven agent commands of the Agent Unit and its per-tick event (03, 05). -/

namespace Sys2Proof.Machine

/-- Latches the skill list and wrap-up length of a snapshot (R51). -/
def Agent.latch (g : Agent) (ws : List Word) : Agent :=
  { g with skills := agentSkills ws, wrapLength := agentWrapLength ws }

/-- LOGIN (R52). -/
def loginBody (e : IntakeEntry) (s : State) : ResultCode × State :=
  let g := s.agent e.index
  if g.state ≠ .loggedOut then (.wrongState, s)
  else
    match skillError e.snapshot with
    | some r => (r, s)
    | none =>
      (.ok, (s.setAgent e.index
        { g.latch e.snapshot with
          talk := 0, wrap := 0, availableTime := 0, notReadyTime := 0, callsHandled := 0
          ticksTaken := caughtUp g.ticksTaken s.tick }).moveAgent e.index .notReady)

/-- Clears a pending not-ready request. -/
def Agent.dropNotReady (g : Agent) : Agent := { g with flags := { g.flags with pendNotReady := false } }

/-- READY (R53, R88). -/
def readyBody (e : IntakeEntry) (s : State) : ResultCode × State :=
  let a := e.index
  let g := s.agent a
  match g.state with
  | .loggedOut => (.wrongState, s)
  | .offered => (.wrongState, s)
  | .notReady =>
    if g.flags.rnaMark then (.marked, s)
    else (.ok, ((s.setAgent a g.dropNotReady).moveAgent a .available).addTrigger (.agent a))
  | .available => (.ok, s)
  | .busy => (.ok, s.setAgent a g.dropNotReady)
  | .wrapUp => (.ok, (s.setAgent a g.dropNotReady).wrapEnd a true)

/-- NOT_READY (R54). -/
def notReadyBody (e : IntakeEntry) (s : State) : ResultCode × State :=
  let a := e.index
  let g := s.agent a
  match g.state with
  | .loggedOut => (.wrongState, s)
  | .notReady => (.ok, s)
  | .available => (.ok, s.moveAgent a .notReady)
  | .offered => (.ok, s.withdrawAgent a .notReady detailNotReady)
  | .busy => (.okPending, s.setAgent a { g with flags := { g.flags with pendNotReady := true } })
  | .wrapUp => (.okPending, s.setAgent a { g with flags := { g.flags with pendNotReady := true } })

/-- LOGOUT (R55). -/
def logoutBody (e : IntakeEntry) (s : State) : ResultCode × State :=
  let a := e.index
  let g := s.agent a
  match g.state with
  | .loggedOut => (.ok, s)
  | .notReady => (.ok, s.moveAgent a .loggedOut)
  | .available => (.ok, s.moveAgent a .loggedOut)
  | .offered => (.ok, s.withdrawAgent a .loggedOut detailLogout)
  | .busy => (.okPending, s.setAgent a { g with flags := { g.flags with pendLogout := true } })
  | .wrapUp => (.okPending, s.setAgent a { g with flags := { g.flags with pendLogout := true } })

/-- The queues of one list that another does not name (R63). -/
def skillsOnlyIn (l m : List Skill) : List Skill := l.filter fun k => !(m.any fun j => j.queue == k.queue)

/-- SKILLS (R57): the head counts of a staffed agent follow the difference of the lists (R63), as a change from and to a
state that is not counted. -/
def skillsBody (e : IntakeEntry) (s : State) : ResultCode × State :=
  let a := e.index
  let g := s.agent a
  match skillError e.snapshot with
  | some r => (r, s)
  | none =>
    let new := agentSkills e.snapshot
    let s := s.setAgent a (g.latch e.snapshot)
    let s := s.recountAll (skillsOnlyIn g.skills new) g.state .notReady
    let s := s.recountAll (skillsOnlyIn new g.skills) .notReady g.state
    (.ok, if g.state = .available then s.addTrigger (.agent a) else s)

/-- EXTEND_WRAP (R89). -/
def extendWrapBody (e : IntakeEntry) (s : State) : ResultCode × State :=
  let g := s.agent e.index
  if g.state ≠ .wrapUp then (.wrongState, s)
  else
    let sum := g.wrapRemaining + agentExtension e.snapshot
    let ceiling := s.part.config.wrapCeiling
    if ceiling < sum then (.okClamped, s.setAgent e.index { g with wrapRemaining := ceiling })
    else (.ok, s.setAgent e.index { g with wrapRemaining := sum })

/-- FLAG_WRITE (R59). -/
def flagWriteBody (e : IntakeEntry) (s : State) : ResultCode × State :=
  let g := s.agent e.index
  if flagRequestBad e.word then (.badField, s)
  else (.ok, s.setAgent e.index { g with flags := g.flags.apply e.word })

def execLogin (s : State) : Outcome := recordCommand .agent 1 loginBody s
def execReady (s : State) : Outcome := recordCommand .agent 2 readyBody s
def execNotReady (s : State) : Outcome := recordCommand .agent 3 notReadyBody s
def execLogout (s : State) : Outcome := recordCommand .agent 4 logoutBody s
def execSkills (s : State) : Outcome := recordCommand .agent 5 skillsBody s
def execExtendWrap (s : State) : Outcome := recordCommand .agent 6 extendWrapBody s

/-- FLAG_WRITE: taken when the intake's oldest entry is a flag-write word (R59, R148). -/
def execFlagWrite (s : State) : Outcome :=
  event s fun s =>
    match s.intake with
    | [] => s
    | e :: _ => if e.kind = .agent ∧ e.flagWord = true then s.executeRecord e flagWriteBody else s

/-! ### The tick (R65, R87) -/

/-- Adds a tick to the accumulator of the agent's state (R65). -/
def Agent.accumulate (g : Agent) : Agent :=
  match g.state with
  | .loggedOut => g
  | .notReady => { g with notReadyTime := g.notReadyTime + 1 }
  | .available => { g with availableTime := g.availableTime + 1 }
  | .offered => { g with talk := g.talk + 1 }
  | .busy => { g with talk := g.talk + 1 }
  | .wrapUp => { g with wrap := g.wrap + 1 }

/-- Whether a tick delivered to the agent has not been taken yet (R131, log 4). -/
def State.agentTickDue (s : State) (a : Nat) : Bool := (s.agent a).ticksTaken != s.tick

/-- Whether the agent's next tick ends its wrap-up (R87). -/
def Agent.lastWrapTick (g : Agent) : Bool := decide (g.state = .wrapUp) && decide (g.wrapRemaining ≤ 1)

/-- The Agent Unit's tick for one agent, one event: accumulator, countdown, and the wrap-up end the countdown may bring
(R65, R87). -/
def State.takeAgentTick (s : State) (a : Nat) : State :=
  let g := s.agent a
  let h := { g.accumulate with ticksTaken := g.ticksTaken + 1 }
  if g.state ≠ .wrapUp then s.setAgent a h
  else if g.lastWrapTick then (s.setAgent a { h with wrapRemaining := 0 }).wrapEnd a false
  else s.setAgent a { h with wrapRemaining := g.wrapRemaining - 1 }

/-- AGENT_TICK: a tick the agent has not taken, taken in full (R65, R87; log 5). -/
def execAgentTick (a : Nat) (s : State) : Outcome :=
  if Config.numAgents ≤ a then .fault (.noSuchRecord a)
  else event s fun s => if s.agentTickDue a then s.takeAgentTick a else s

/-- WRAP_COUNTDOWN_END: the tick that brings a running wrap-up to 0, with its end (R87, R91; log 5). -/
def execWrapCountdownEnd (a : Nat) (s : State) : Outcome :=
  if Config.numAgents ≤ a then .fault (.noSuchRecord a)
  else event s fun s => if s.agentTickDue a && (s.agent a).lastWrapTick then s.takeAgentTick a else s

end Sys2Proof.Machine
end

