-- ==== Sys2Proof/Machine/Deadlines.lean ====
section
/-! DEFINITION. Taking a due entry of the deadline list: offer expiry, maximum wait, timed overflow (R24, R41 to R43, R80). -/

namespace Sys2Proof.Machine

/-- Whether a due slot holds a tick that has been reached. -/
def slotDue (now : Tick) (slot : Option Tick) : Bool := slot.any (reached now)

/-- OFFER_EXPIRY of a call: the slot becomes none, the offer ends by expiry, and OFFER_EXPIRED is posted (R24, R80). -/
def State.expireOffer (s : State) (c : Nat) : State :=
  let x := s.call c
  (s.unanswered c .expired).post .dispatch .offerExpired (some c) x.agent x.currentQueue x.attempts

/-- MAX_WAIT_DUE of a call: the notice, with the wait so far as its detail, and the slot none (R24, R43, R158). -/
def State.reportMaxWait (s : State) (c : Nat) : State :=
  let x := s.call c
  (s.post .call .maxWait (some c) none x.currentQueue (min (age s.tick x.queueEntry) Config.maxTicks)).setCall c
    { x with maxWaitDue := none }

/-- OVERFLOW_DUE of a call, by the Queue Unit's answer (R24, R41). -/
def State.timedOverflow (s : State) (c : Nat) : State :=
  match (s.call c).currentQueue with
  | none => s
  | some q =>
    match s.overflowAnswer c q with
    | .notTimed => s.setCall c { s.call c with overflowDue := none }
    | .refused => s.setCall c { s.call c with overflowDue := some (s.tick + 1) }
    | .moved => s.overflowMove c q

/-- Handles one slot of a call when the call's state arms it and its due tick has been reached. -/
def State.handleOffer (s : State) (c : Nat) : State :=
  if (s.call c).state = .offered ∧ slotDue s.tick (s.call c).offerExpiry = true then s.expireOffer c else s
def State.handleMaxWait (s : State) (c : Nat) : State :=
  if (s.call c).state = .queued ∧ slotDue s.tick (s.call c).maxWaitDue = true then s.reportMaxWait c else s
def State.handleOverflow (s : State) (c : Nat) : State :=
  if (s.call c).state = .queued ∧ slotDue s.tick (s.call c).overflowDue = true then s.timedOverflow c else s

/-- Takes a due entry: the entry leaves the list, every reached slot of its call is handled in R24's order, and the call's
entry is inserted again for its earliest remaining slot (R24). -/
def State.takeDue (s : State) (c : Nat) : State :=
  ((((s.dropDeadline c).handleOffer c).handleMaxWait c).handleOverflow c).refreshDeadline c

/-- Whether a call's slot of a kind is armed and reached. -/
def State.slotReached (s : State) (c : Nat) (kind : DeadlineKind) : Bool :=
  (s.call c).armed.any fun e => decide (e.1 = kind) && reached s.tick e.2

/-- The event of a due slot of the kind: taken when the front entry is due and its call has that slot reached (R24,
log 9). -/
def dueEvent (kind : DeadlineKind) (s : State) : Outcome :=
  event s fun s =>
    match frontDeadline s.tick s.deadlines with
    | none => s
    | some d => if reached s.tick d.due && s.slotReached d.call kind then s.takeDue d.call else s

/-- OFFER_EXPIRY (R24, R80). -/
def execOfferExpiry (s : State) : Outcome := dueEvent .offerExpiry s

/-- MAX_WAIT_DUE (R24, R43). -/
def execMaxWaitDue (s : State) : Outcome := dueEvent .maxWaitDue s

/-- OVERFLOW_DUE (R24, R41, R42). -/
def execOverflowDue (s : State) : Outcome := dueEvent .overflowDue s

end Sys2Proof.Machine
end

