-- ==== Sys2Proof/Machine/Estimator.lean ====
section
/-! DEFINITION. The Wait Estimator's events: a handle-time sample and the republishing of a queue's EWT with the alarm
check (06). -/

namespace Sys2Proof.Machine

/-- The smoothed handle time after a sample: the signed difference divided by 2^k toward zero, kept in range (R97). -/
def smooth (h sample k : Nat) : Nat :=
  let adj := ((16 * sample : Int) - h).tdiv (2 ^ k)
  (min (max ((h : Int) + adj) 0) Config.maxHandle).toNat

/-- The estimator takes a sample: discarded for an IDLE queue (R97). -/
def State.takeSample (s : State) (x : Sample) : State :=
  let q := s.queue x.queue
  if q.state = .idle then s
  else s.setQueue x.queue { q with handle := smooth q.handle x.ticks q.settings.shift }

/-- HANDLE_TIME_SAMPLE: one of the samples handed over and not yet taken. Any may be the next, since either order of two
samples is a correct outcome (R93, R98; log 10). -/
def execHandleTimeSample (i : Nat) (s : State) : Outcome :=
  event s fun s =>
    match s.samples[i]? with
    | none => s
    | some x => { s with samples := s.samples.eraseIdx i }.takeSample x

/-- The position of the next caller to arrive (R99). -/
def Queue.nextPosition (q : Queue) : Nat := min (q.waiting.length + 1) 2048

/-- The alarm after a check against a published EWT (R104). -/
def Queue.alarmAfter (q : Queue) (ewt : Nat) : Alarm :=
  match q.alarm with
  | .normal => if q.settings.upper ≠ 0 ∧ q.settings.upper < ewt then .high else .normal
  | .high => if ewt < q.settings.lower then .normal else .high

/-- Whether a tick delivered to the estimator for this queue has not been taken yet (R131, log 4). -/
def State.queueTickDue (s : State) (q : Nat) : Bool := (s.queue q).ticksTaken != s.tick

/-- The estimator's event for one queue at a tick: the published EWT, the alarm check and its notice (R99, R104, R106). An
IDLE queue is left out. -/
def State.republish (s : State) (n : Nat) : State :=
  let q := s.queue n
  let t := { q with ticksTaken := q.ticksTaken + 1 }
  if q.state = .idle then s.setQueue n t
  else
    let ewt := expectedWait q.nextPosition q.handle q.staffed
    let now := q.alarmAfter ewt
    let s := s.setQueue n { t with ewt := ewt, alarm := now }
    if now = q.alarm then s
    else s.post .queue (if now = .high then .ewtHigh else .ewtNormal) none none (some n) ewt

/-- EWT_REPUBLISH (R99). -/
def execEwtRepublish (n : Nat) (s : State) : Outcome :=
  if Config.numQueues ≤ n then .fault (.noSuchRecord n)
  else event s fun s => if s.queueTickDue n then s.republish n else s

end Sys2Proof.Machine
end

