-- ==== Sys2Proof/Machine/Matching.lean ====
section
/-! DEFINITION. The Match Engine: taking triggers, selection, and the commit (04). -/

namespace Sys2Proof.Machine

/-! ### Taking a trigger (R68, R69) -/

/-- The engine takes its front trigger when the part is ACTIVE, no proposal is in flight and the dispatch queue has room
for one more (R68, R69). -/
def State.engineReady (s : State) : Bool :=
  decide (s.part.state = .active) && s.engine.proposal.isNone
    && decide (s.events.dispatch.length < Config.dispatchDepth)

/-- A proposal in flight, holding the reservation (R69, R73). -/
def State.propose (s : State) (p : Proposal) : State :=
  { s with engine := { s.engine with proposal := some p, reserved := true } }

/-- The work list without its front. -/
def State.popTrigger (s : State) : State :=
  { s with engine := { s.engine with workList := s.engine.workList.tail } }

/-! ### Selection (R70, R71) -/

/-- Whether one queue is chosen before another for an agent, each given with the level, by the five keys of R70. -/
def State.queueBefore (s : State) (x y : Skill) : Bool :=
  let hx := s.call ((s.queue x.queue).waiting.headD 0)
  let hy := s.call ((s.queue y.queue).waiting.headD 0)
  let ax := (s.queue x.queue).settings.arbitration
  let ay := (s.queue y.queue).settings.arbitration
  if x.level ≠ y.level then decide (x.level < y.level)
  else if ax ≠ ay then decide (ay < ax)
  else if hx.priority ≠ hy.priority then decide (hy.priority < hx.priority)
  else if hx.firstEntry ≠ hy.firstEntry then decide (age s.tick hy.firstEntry < age s.tick hx.firstEntry)
  else decide (x.queue < y.queue)

/-- The queues eligible for an agent: in its active list, not PAUSED, with a waiting call (R70). -/
def State.eligibleQueues (s : State) (a : Nat) : List Skill :=
  (s.agent a).skills.filter fun k => !(s.queue k.queue).paused && !(s.queue k.queue).waiting.isEmpty

/-- The first of a list by a strict order. -/
def firstBy (before : α → α → Bool) : List α → Option α
  | [] => none
  | x :: xs =>
    match firstBy before xs with
    | none => some x
    | some y => if before y x then some y else some x

/-- The proposal of an agent trigger, or none when it is dropped (R70). -/
def State.agentChoice (s : State) (a : Nat) : Option Proposal :=
  if (s.agent a).state ≠ .available then none
  else
    match firstBy s.queueBefore (s.eligibleQueues a) with
    | none => none
    | some k => (s.queue k.queue).waiting.head?.map fun c =>
        { call := c, agent := a, queue := k.queue, trigger := .agent a }

/-- The agents that are AVAILABLE and name a queue, by id (R71, R72). -/
def State.freeAgents (s : State) (q : Nat) : List (Nat × Agent) :=
  s.agents.filter fun e => decide (e.2.state = .available) && e.2.names q

/-- Longest idle first, then the lowest id (R71, R72). -/
def idleBefore (now : Tick) (x y : Nat × Agent) : Bool :=
  if x.2.stateEntry ≠ y.2.stateEntry then decide (age now y.2.stateEntry < age now x.2.stateEntry)
  else decide (x.1 < y.1)

/-- Whether one agent is chosen before another for a queue, by the three keys of R71. -/
def agentBefore (now : Tick) (q : Nat) (x y : Nat × Agent) : Bool :=
  if x.2.level q ≠ y.2.level q then decide (x.2.level q < y.2.level q) else idleBefore now x y

/-- The proposal of a call trigger, or none when it is dropped: the chosen agent and the head of the call's queue
(R71). -/
def State.callChoice (s : State) (c : Nat) : Option Proposal :=
  match (s.call c).state, (s.call c).currentQueue with
  | .queued, some q =>
    if (s.queue q).paused then none
    else
      match firstBy (agentBefore s.tick q) (s.freeAgents q), (s.queue q).waiting.head? with
      | some e, some h => some { call := h, agent := e.1, queue := q, trigger := .call c }
      | _, _ => none
  | _, _ => none

/-- Puts an element into a list kept by a strict order, behind its equals. -/
def insertBy (before : α → α → Bool) (x : α) : List α → List α
  | [] => [x]
  | y :: ys => if before x y then x :: y :: ys else y :: insertBy before x ys

/-- The available agents of a queue in longest-idle order (R72). -/
def State.idleOrder (s : State) (q : Nat) : List Nat :=
  ((s.freeAgents q).foldl (fun l e => insertBy (idleBefore s.tick) e l) []).map (·.1)

/-- The expansion of a queue trigger, nothing for a PAUSED queue (R72). -/
def State.expand (s : State) (q : Nat) : State :=
  if (s.queue q).paused then s
  else (s.idleOrder q).foldl (fun s a => s.addTrigger (.agent a)) s

/-- The engine's work on a trigger whose choice is known. -/
def State.serve (s : State) (choice : Option Proposal) : State :=
  match choice with
  | none => s.popTrigger
  | some p => s.popTrigger.propose p

/-- AGENT_TRIGGER: taken when the engine is ready and the front trigger is an agent's (R68, R70). -/
def execAgentTrigger (s : State) : Outcome :=
  event s fun s =>
    match s.engine.workList with
    | .agent a :: _ => if s.engineReady then s.serve (s.agentChoice a) else s
    | _ => s

/-- CALL_TRIGGER (R68, R71). -/
def execCallTrigger (s : State) : Outcome :=
  event s fun s =>
    match s.engine.workList with
    | .call c :: _ => if s.engineReady then s.serve (s.callChoice c) else s
    | _ => s

/-- QUEUE_TRIGGER (R68, R72). -/
def execQueueTrigger (s : State) : Outcome :=
  event s fun s =>
    match s.engine.workList with
    | .queue q :: _ => if s.engineReady then s.popTrigger.expand q else s
    | _ => s

/-! ### The commit (R73 to R75) -/

/-- The three conditions of the commit check (R73). -/
def State.commitHolds (s : State) (p : Proposal) : Bool :=
  decide ((s.call p.call).state = .queued) && decide ((s.call p.call).currentQueue = some p.queue)
    && decide ((s.queue p.queue).waiting.head? = some p.call)
    && decide ((s.agent p.agent).state = .available) && (s.agent p.agent).names p.queue

/-- The proposal ends and its reservation with it. -/
def State.endProposal (s : State) : State :=
  { s with engine := { s.engine with proposal := none, reserved := false } }

/-- The call of an offer just committed (R74). -/
def Call.offeredTo (x : Call) (a : Nat) (timeout : Nat) (now : Tick) : Call :=
  { x with
    state := .offered, agent := some a, attempts := min (x.attempts + 1) 255
    offerExpiry := if timeout ≠ 0 then some (now + BitVec.ofNat 32 timeout) else none }

/-- Whether the trigger's entity still qualifies: its call is QUEUED, its agent AVAILABLE (R75). -/
def State.stillQualifies (s : State) : Trigger → Bool
  | .call c => decide ((s.call c).state = .queued)
  | .agent a => decide ((s.agent a).state = .available)
  | .queue _ => false

/-- After a successful commit, a call trigger served by another call's offer is put back (R74). -/
def State.requeue (s : State) (p : Proposal) : State :=
  match p.trigger with
  | .call c => if c ≠ p.call ∧ (s.call c).state = .queued then s.addTrigger (.call c) else s
  | .agent _ => s
  | .queue _ => s

/-- A successful commit (R74). -/
def State.makeOffer (s : State) (p : Proposal) : State :=
  let s := s.leaveWaiting p.queue p.call
  let s := s.setCall p.call
    ((s.call p.call).offeredTo p.agent (s.queue p.queue).settings.offerTimeout s.tick)
  let s := s.refreshDeadline p.call
  let s := (s.setAgent p.agent { s.agent p.agent with currentCall := some p.call }).moveAgent p.agent .offered
  let s := s.postOffer p.call p.agent p.queue (s.call p.call).attempts
  s.endProposal.requeue p

/-- A failed commit: nothing changes but the proposal, and the trigger is put back if it still qualifies (R75). -/
def State.failCommit (s : State) (p : Proposal) : State :=
  if s.stillQualifies p.trigger then s.endProposal.addTrigger p.trigger else s.endProposal

/-- COMMIT: of the proposal in flight (R73 to R75). -/
def execCommit (s : State) : Outcome :=
  event s fun s =>
    match s.engine.proposal with
    | none => s
    | some p => if s.commitHolds p then s.makeOffer p else s.failCommit p

end Sys2Proof.Machine
end

