-- ==== Sys2Proof/Machine/Streams.lean ====
section
/-! DEFINITION. The Playout Engine's own events: generated groups, the fetcher's grant and the arrival of its burst,
interjection ticks (07 R122 to R129, 08 R140 to R142). -/

namespace Sys2Proof.Machine

/-! ### Generated groups (R124) -/

/-- Places a generated group when the context's next samples are generated and its fill is 8 or less (R124). -/
def State.placeGenerated (s : State) (k : Nat) : State :=
  match (s.context k).next with
  | .generated left =>
    if left = 0 then s else s.place k (List.replicate (min Config.groupSize left) s.part.config.silence)
  | .memory _ _ => s
  | .ring _ => s
  | .nothing => s

/-- Whether a generated group is to be placed: the context runs, its fill is 8 or less, and its next samples are generated
(R124). -/
def Context.wantsGenerated (x : Context) : Bool :=
  x.running && decide (x.buffer.length ≤ Config.lowWater) &&
    match x.next with
    | .generated left => decide (0 < left)
    | .memory _ _ => false
    | .ring _ => false
    | .nothing => false

/-- GENERATED_GROUP: a FEED step reads its feed's state first, and may leave the generated silence for the ring (R124,
R140). -/
def execGeneratedGroup (k : Nat) (s : State) : Outcome :=
  if Config.numContexts ≤ k then .fault (.noSuchRecord k)
  else event s fun s => if (s.context k).wantsGenerated then (s.followFeed k).placeGenerated k else s

/-! ### The fetcher's grant (R126, R141, R142, R155) -/

/-- The burst formed for a context at the grant (R126, R142). -/
def State.formBurst (s : State) (k : Nat) (x : Context) : Option FetchBurst :=
  match x.next with
  | .memory a left => some (segmentBurst k a left)
  | .ring f => some (ringBurst k (s.feed f) x.pointer)
  | .generated _ => none
  | .nothing => none

/-- A context as its request is formed: a reader about to be overtaken rejoins (R141). -/
def State.forming (s : State) (x : Context) : Context :=
  match x.next with
  | .ring f => x.lapRejoin (s.feed f)
  | .memory _ _ => x
  | .generated _ => x
  | .nothing => x

/-- Issues the burst of a context: its fetch is in flight and the slot and count are the part's own (R126, R155). -/
def State.issueFetch (s : State) (k : Nat) : State :=
  let x := s.forming (s.context k)
  match s.formBurst k x with
  | none => s
  | some b =>
    let s := s.setContext k { x with inFlight := true, redirected := false }
    { s with
      playout := { s.playout with fetch := some b }
      path := { s.path with port := .fetch b.address b.beats, passCount := 0 } }

/-- FETCH_GRANT: taken when a fetch request can be served and the part's own side has the slot; a servable fetch goes
before a loading read (R126, R127, R155). -/
def execFetchGrant (s : State) : Outcome :=
  event s fun s =>
    if s.fetchServable && s.ownTurn then
      match s.chooseFetch with
      | none => s
      | some k => s.issueFetch k
    else s

/-! ### Arrivals (R128, R129) -/

/-- The arrival clears the burst and the context's fetch in flight (R128). -/
def State.clearFetch (s : State) (k : Nat) : State :=
  let s := { s with playout := { s.playout with fetch := none } }
  s.setContext k { s.context k with inFlight := false, redirected := false }

/-- What an arrival finds: a DRAINING context becomes FREE; otherwise a FEED step reads its feed's state, and a
redirected burst delivers nothing (R128, R129, R140). -/
def State.arrive (s : State) (k : Nat) (deliver : State → State) : State :=
  if (s.context k).state = .draining then
    { s with playout := { s.playout with fetch := none } }.setContext k
      { Context.cold with ticksTaken := (s.context k).ticksTaken }
  else
    let s := s.followFeed k
    if (s.context k).redirected then s.clearFetch k else deliver (s.clearFetch k)

/-- BURST_ARRIVAL: the data of the outstanding burst (R128, R142). -/
def execBurstArrival (first second : Word) (s : State) : Outcome :=
  event s fun s =>
    match s.playout.fetch with
    | none => s
    | some b => s.arrive b.context fun s => s.place b.context (burstSamples b first second)

/-- A delivered error: PLAYOUT_FAULT with FETCH_ERROR, and the activity's end (R129; log 15). -/
def State.fetchFailed (s : State) (k : Nat) : State :=
  (s.post .playout .playoutFault (some (s.context k).call) none none detailFetchError).endActivity k

/-- FETCH_ERROR: an error response to the outstanding burst (R129, R156). -/
def execFetchError (s : State) : Outcome :=
  event s fun s =>
    match s.playout.fetch with
    | none => s
    | some b => s.arrive b.context fun s => s.fetchFailed b.context

/-! ### Interjection ticks (R122) -/

/-- Whether a tick delivered to the context has not been taken yet (R131, log 4). -/
def State.contextTickDue (s : State) (k : Nat) : Bool := (s.context k).ticksTaken != s.tick

/-- The three conditions under which the timer counts (R122). -/
def Context.counts (x : Context) : Bool :=
  decide (x.state = .playing) && x.stack.isEmpty && decide (x.timer ≠ 0)

/-- The engine's tick for one context, one event: the timer, and the interjection its reaching 0 brings (R122). -/
def State.takeContextTick (s : State) (k : Nat) : State :=
  let x := s.context k
  let y := { x with ticksTaken := x.ticksTaken + 1 }
  if x.counts = false then s.setContext k y
  else if x.timer = 1 then (s.setContext k { y with timer := 0 }).interject k
  else s.setContext k { y with timer := x.timer - 1 }

/-- INTERJECTION_TICK: a tick the context has not taken, taken in full (R122; log 5). -/
def execInterjectionTick (k : Nat) (s : State) : Outcome :=
  if Config.numContexts ≤ k then .fault (.noSuchRecord k)
  else event s fun s => if s.contextTickDue k then s.takeContextTick k else s

/-- INTERJECTION: the tick that brings the timer to 0 (R122; log 5). -/
def execInterjection (k : Nat) (s : State) : Outcome :=
  if Config.numContexts ≤ k then .fault (.noSuchRecord k)
  else
    event s fun s =>
      if s.contextTickDue k && (s.context k).counts && decide ((s.context k).timer = 1) then s.takeContextTick k else s

end Sys2Proof.Machine
end

