-- ==== Sys2Proof/Machine/Feeds.lean ====
section
/-! DEFINITION. The Feed Monitor: tracking a feed's head, its ticks, and FEED_CLEAR (08 R135 to R139). -/

namespace Sys2Proof.Machine

/-! ### Tracking (R136) -/

/-- The word address of a beat. -/
def wordAddress (a : Word) : Word := a &&& 0xFFFFFFFC#32

/-- The address just past the highest enabled byte of a beat (R136). -/
def pastHighest (b : WriteBeat) : Word :=
  wordAddress b.address
    + (if b.enables.getLsbD 3 then 4#32 else if b.enables.getLsbD 2 then 3#32 else if b.enables.getLsbD 1 then 2#32
       else 1#32)

/-- Whether a write beat is a counted write for a feed (R136). -/
def Feed.counts (f : Feed) (b : WriteBeat) : Bool :=
  decide (f.state ≠ .off) && decide (b.tag = f.latched.tag)
    && decide (f.latched.ringStart.toNat ≤ (wordAddress b.address).toNat)
    && decide ((wordAddress b.address).toNat < f.latched.ringEnd.toNat)
    && decide (b.enables ≠ 0)

/-- A feed after a counted write (R136). -/
def Feed.track (f : Feed) (b : WriteBeat) (now : Tick) : Feed :=
  let h := pastHighest b
  let g := { f with head := if h = f.latched.ringEnd then f.latched.ringStart else h, lastWrite := now }
  if f.state = .arming ∧ f.settling = false then { g with settling := true, settleCount := 0 } else g

/-- The Feed Monitor examines a write beat: it is counted for each feed it fits (R136). -/
def State.trackFeeds (s : State) (b : WriteBeat) : State :=
  (List.range Config.numFeeds).foldl
    (fun s i => if (s.feed i).counts b then s.setFeed i ((s.feed i).track b s.tick) else s) s

/-! ### Ticks (R137, R138) -/

/-- Whether a tick delivered to the feed has not been taken yet (R131, log 4). -/
def State.feedTickDue (s : State) (i : Nat) : Bool := (s.feed i).ticksTaken != s.tick

/-- No write for more than the timeout (R137, R138). -/
def Feed.silent (f : Feed) (now : Tick) : Bool := decide (f.latched.timeout < age now f.lastWrite)

/-- Posts a notice of the SUPERVISION class about a feed. -/
def State.postFeed (s : State) (kind : EventKind) (i detail : Nat) : State :=
  s.post .supervision kind none none (some i) detail

/-- The tick of an ARMING feed (R137). -/
def State.armingTick (s : State) (i : Nat) : State :=
  let f := s.feed i
  let g := { f with ticksTaken := f.ticksTaken + 1 }
  if f.settling = false then s.setFeed i g
  else if f.silent s.tick then s.setFeed i { g with settling := false, settleCount := 0 }
  else if f.latched.settle ≤ f.settleCount + 1 then
    ((s.setFeed i { g with state := .live, settling := false, settleCount := 0 }).postFeed .feedLive i detailArmed).switchReaders i
  else s.setFeed i { g with settleCount := f.settleCount + 1 }

/-- The tick of a LIVE feed (R138); its readers switch to their fallback (R140). -/
def State.liveTick (s : State) (i : Nat) : State :=
  let f := s.feed i
  let g := { f with ticksTaken := f.ticksTaken + 1 }
  if f.silent s.tick then ((s.setFeed i { g with state := .missing }).postFeed .feedMissing i 0).switchReaders i
  else s.setFeed i g

/-- The tick of an OFF or MISSING feed changes nothing of it (R137, R138). -/
def State.skipTick (s : State) (i : Nat) : State :=
  s.setFeed i { s.feed i with ticksTaken := (s.feed i).ticksTaken + 1 }

/-- Whether an ARMING feed's next tick restarts its arming, or makes it LIVE (R137). -/
def Feed.restarts (f : Feed) (now : Tick) : Bool := decide (f.state = .arming) && f.settling && f.silent now
def Feed.arms (f : Feed) (now : Tick) : Bool :=
  decide (f.state = .arming) && f.settling && !f.silent now && decide (f.latched.settle ≤ f.settleCount + 1)

/-- FEED_ARMING_TICK: a tick an ARMING feed has not taken, taken in full; an OFF or MISSING feed passes its tick over
(R137; log 5). -/
def execFeedArmingTick (i : Nat) (s : State) : Outcome :=
  if Config.numFeeds ≤ i then .fault (.noSuchRecord i)
  else
    event s fun s =>
      if s.feedTickDue i then
        match (s.feed i).state with
        | .arming => s.armingTick i
        | .off => s.skipTick i
        | .missing => s.skipTick i
        | .live => s
      else s

/-- ARMING_RESTART: the tick at which an ARMING feed's writer has paused (R137; log 5). -/
def execArmingRestart (i : Nat) (s : State) : Outcome :=
  if Config.numFeeds ≤ i then .fault (.noSuchRecord i)
  else event s fun s => if s.feedTickDue i && (s.feed i).restarts s.tick then s.armingTick i else s

/-- FEED_ARMED: the tick at which the settle count reaches the latched settle (R137; log 5). -/
def execFeedArmed (i : Nat) (s : State) : Outcome :=
  if Config.numFeeds ≤ i then .fault (.noSuchRecord i)
  else event s fun s => if s.feedTickDue i && (s.feed i).arms s.tick then s.armingTick i else s

/-- FEED_MISSING: a tick a LIVE feed has not taken; with no write for more than its timeout the feed becomes MISSING
(R138). -/
def execFeedMissing (i : Nat) (s : State) : Outcome :=
  if Config.numFeeds ≤ i then .fault (.noSuchRecord i)
  else event s fun s => if s.feedTickDue i && decide ((s.feed i).state = .live) then s.liveTick i else s

/-! ### FEED_CLEAR (R139) -/

/-- FEED_CLEAR of the feed its argument names (R139). -/
def feedClearBody (e : IntakeEntry) (s : State) : ResultCode × State :=
  let i := e.argument
  if Config.numFeeds ≤ i then (.badField, s)
  else
    match (s.feed i).state with
    | .off => (.wrongState, s)
    | .arming => (.wrongState, s)
    | .live => (.ok, s)
    | .missing =>
      if age s.tick (s.feed i).lastWrite ≤ 1 then
        (.ok, ((s.setFeed i { s.feed i with state := .live }).postFeed .feedLive i detailCleared).switchReaders i)
      else (.stillMissing, s)

end Sys2Proof.Machine
end

