-- ==== Sys2Proof/Machine/Clock.lean ====
section
/-! DEFINITION. The Time Base: frames, ticks, the supervision of FSYNC, and TIMEBASE_CLEAR (08 R131 to R134). -/

namespace Sys2Proof.Machine

/-- One frame: the 800th raises the tick counter (R131). -/
def TimeBase.frame (t : TimeBase) : TimeBase :=
  if Config.framesPerTick ≤ t.frames + 1 then { t with frames := 0, tick := t.tick + 1 }
  else { t with frames := t.frames + 1 }

def State.setTime (s : State) (t : TimeBase) : State := { s with time := t }

/-- The end of a reference period, for the history and the silence count (R132). -/
def TimeBase.closePeriod (t : TimeBase) : TimeBase :=
  { t with
    history := t.history.tail ++ [t.pulseSeen]
    silence := if t.pulseSeen then 0 else min (t.silence + 1) 8
    pulseSeen := false }

/-- Whether every entry of the history shows a pulse (R132, R134). -/
def TimeBase.full (t : TimeBase) : Bool := t.history.all id

/-- The lock of STARTING (R132). -/
def TimeBase.lock (t : TimeBase) : TimeBase := if t.full then { t with state := .external } else t

/-- Whether the end of the running period brings the loss: EXTERNAL, and the third silent period in a row (R132, R133). -/
def TimeBase.losing (t : TimeBase) : Bool := decide (t.state = .external) && decide (3 ≤ t.closePeriod.silence)

/-- The loss of FSYNC: SUBSTITUTE, the three missed frames made up, and the notice (R133). -/
def State.lose (s : State) : State :=
  (s.setTime { s.time.closePeriod with state := .substitute }.frame.frame.frame).post .supervision .timebaseSubst none none
    none 0

/-- The end of a reference period (R132, R133). In STARTING and SUBSTITUTE the reference supplies the frame of the period
just ended, in STARTING before the lock is judged (log 8). -/
def State.endPeriodRef (s : State) : State :=
  let t := s.time.closePeriod
  match t.state with
  | .starting => s.setTime t.frame.lock
  | .substitute => s.setTime t.frame
  | .external => if s.time.losing then s.lose else s.setTime t

/-- A pulse on FSYNC: it shows in the history, and in EXTERNAL it is a frame unless it comes too early (R131, R132). -/
def State.pulse (s : State) (early : Bool) : State :=
  let t := { s.time with pulseSeen := true }
  s.setTime (if t.state = .external ∧ early = false then t.frame else t)

/-- FSYNC_PULSE (R131; the pulse's earliness is an input, log 7). -/
def execFsyncPulse (early : Bool) (s : State) : Outcome := event s fun s => s.pulse early

/-- REFERENCE_PERIOD_END (R132). -/
def execReferencePeriodEnd (s : State) : Outcome := event s fun s => s.endPeriodRef

/-- TIMEBASE_SUBST: the end of the period that brings the loss (R133; log 5). -/
def execTimebaseSubst (s : State) : Outcome := event s fun s => if s.time.losing then s.lose else s

/-- TICK: the frame that brings the counter to 800, from the present source: a pulse in EXTERNAL, else the end of a
reference period (R131; log 6). -/
def execTick (s : State) : Outcome :=
  event s fun s =>
    if s.time.frames + 1 = Config.framesPerTick then
      match s.time.state with
      | .external => s.pulse false
      | .starting => s.endPeriodRef
      | .substitute => s.endPeriodRef
    else s

/-- TIMEBASE_CLEAR (R134). -/
def timebaseClearBody (_ : IntakeEntry) (s : State) : ResultCode × State :=
  match s.time.state with
  | .external => (.ok, s)
  | .starting => (.stillMissing, s)
  | .substitute =>
    if s.time.full then
      (.ok, (s.setTime { s.time with state := .external }).post .supervision .timebaseRestored none none none 0)
    else (.stillMissing, s)

end Sys2Proof.Machine
end

