-- ==== Sys2Proof/Machine/Records.lean ====
section
/-! DEFINITION. The words the part answers by itself: part-owned fields of the records, the status block and the event
window, composed from live state (R4, R26, R38, R46, R158, R161, R165 to R168). -/

namespace Sys2Proof.Machine

/-! ### Packing (R166) -/

/-- A word of four bytes, lowest address first. -/
def packBytes (b0 b1 b2 b3 : Nat) : Word := BitVec.ofNat 32 (b0 + 256 * b1 + 65536 * b2 + 16777216 * b3)

/-- A word of two halfwords. -/
def packHalves (low high : Nat) : Word := BitVec.ofNat 32 (low + 65536 * high)

/-- "None" is all ones across a field's width. -/
def byteOrNone (x : Option Nat) : Nat := x.getD 0xFF
def halfOrNone (x : Option Nat) : Nat := x.getD 0xFFFF

/-! ### Numeric codes (R168) -/

def ResultCode.code : ResultCode → Nat
  | .ok => 0 | .okClamped => 1 | .okPending => 2 | .okNoPlayout => 3
  | .wrongState => 16 | .tooLate => 17 | .queueClosed => 18 | .queueFull => 19 | .badQueue => 20 | .badField => 21
  | .duplicateSkill => 22 | .marked => 23 | .stackFull => 24 | .noPlayout => 25 | .stale => 26 | .stillMissing => 27
  | .torn => 28 | .unknown => 29 | .notActive => 30 | .configError => 31

def CallState.code : CallState → Nat
  | .free => 0 | .queued => 1 | .offered => 2 | .connected => 3 | .agentHold => 4

def AgentState.code : AgentState → Nat
  | .loggedOut => 0 | .notReady => 1 | .available => 2 | .offered => 3 | .busy => 4 | .wrapUp => 5

def QueueState.code : QueueState → Nat
  | .idle => 0 | .open => 1 | .closed => 2

def Alarm.code : Alarm → Nat
  | .normal => 0 | .high => 1

def OfferEnd.code : OfferEnd → Nat
  | .none => 0 | .answered => 1 | .expired => 2 | .noAnswer => 3 | .withdrawn => 4

def DeadlineKind.code : DeadlineKind → Nat
  | .offerExpiry => 1 | .overflowDue => 2 | .maxWaitDue => 3

def PartState.code : PartState → Nat
  | .pass => 0 | .loading => 1 | .active => 2

def TimeBaseState.code : TimeBaseState → Nat
  | .starting => 0 | .external => 1 | .substitute => 2

def FeedState.code : FeedState → Nat
  | .off => 0 | .arming => 1 | .live => 2 | .missing => 3

def ConfigError.code : ConfigError → Nat
  | .none => 0 | .windowAlign => 1 | .windowOverlap => 2 | .feedRing => 3 | .tagClash => 4 | .loadFault => 5

def EventClass.code : EventClass → Nat
  | .dispatch => 1 | .call => 2 | .agent => 3 | .queue => 4 | .playout => 5 | .supervision => 6

def EventKind.code : EventKind → Nat
  | .offer => 1 | .offerWithdrawn => 2 | .offerExpired => 3
  | .overflowed => 16 | .maxWait => 17 | .programEnd => 18
  | .wrapEnd => 32 | .ewtHigh => 48 | .ewtNormal => 49 | .playoutFault => 64
  | .feedMissing => 80 | .feedLive => 81 | .timebaseSubst => 82 | .timebaseRestored => 83

/-! ### The images -/

/-- The result field: code, token, result code, and a byte that reads 0. -/
def CommandResult.image (r : CommandResult) : Word := packBytes r.code.toNat r.token.toNat r.result.code 0

/-- The deadline entry a call record shows (R23). -/
def State.shownDeadline (s : State) (c : Nat) : Option Deadline := s.deadlines.find? fun d => d.call == c

/-- Word `w` of call record `c`, from offset 0x14 on (R168). -/
def State.callWord (s : State) (c w : Nat) : Word :=
  let x := s.call c
  match w with
  | 5 => packBytes x.state.code (byteOrNone x.currentQueue) x.hops x.attempts
  | 6 => packHalves (halfOrNone x.agent) (halfOrNone x.context)
  | 7 => packHalves (s.position c) x.underruns
  | 8 => packBytes x.lastEnd.code (((s.shownDeadline c).map fun d => d.kind.code).getD 0) x.pendingCount 0
  | 9 => x.firstEntry
  | 10 => x.queueEntry
  | 11 => x.answerTick
  | 12 => x.seniority.extractLsb' 0 32
  | 13 => packHalves (x.seniority.extractLsb' 32 16).toNat 0
  | 14 => ((s.shownDeadline c).map fun d => d.due).getD 0
  | 15 => x.result.image
  | _ => 0

/-- Word `w` of agent record `a`, from offset 0x1C on (R168). -/
def State.agentWord (s : State) (a w : Nat) : Word :=
  let g := s.agent a
  match w with
  | 7 => packBytes g.state.code g.flags.toByte (byteOrNone g.lastQueue) g.pendingCount
  | 8 => packHalves (halfOrNone g.currentCall) g.wrapRemaining
  | 9 => g.stateEntry
  | 10 => g.talk
  | 11 => g.wrap
  | 12 => g.availableTime
  | 13 => g.notReadyTime
  | 14 => g.callsHandled
  | 15 => g.result.image
  | _ => 0

/-- Word `w` of queue record `n`, from offset 0x40 on (R168). -/
def State.queueWord (s : State) (n w : Nat) : Word :=
  let q := s.queue n
  match w with
  | 16 => packBytes q.state.code q.paused.toNat q.alarm.code q.pendingCount
  | 17 => packHalves q.occupancy q.waiting.length
  | 18 => packHalves q.staffed q.available
  | 19 => BitVec.ofNat 32 q.handle
  | 20 => packHalves q.ewt 0
  | 21 => q.entered
  | 22 => q.answered
  | 23 => q.answeredInSl
  | 24 => q.abandoned
  | 25 => q.overflowedOut
  | 26 => s.oldestEntry n
  | 27 => q.result.image
  | _ => 0

/-- Calls in FREE, and contexts in FREE (R165). -/
def State.freeCalls (s : State) : Nat := ((List.range Config.numCalls).filter fun c => (s.call c).state == .free).length
def State.freeContexts (s : State) : Nat :=
  ((List.range Config.numContexts).filter fun k => (s.context k).state == .free).length

/-- Word `w` of the status block (R165, R167). -/
def State.statusWord (s : State) (w : Nat) : Word :=
  match w with
  | 0 => packBytes s.part.state.code s.part.error.code s.time.state.code
      ((s.feed 0).state.code + 4 * (s.feed 1).state.code + 16 * (s.feed 2).state.code + 64 * (s.feed 3).state.code)
  | 1 => packBytes s.part.result.code.toNat s.part.result.token.toNat s.part.result.result.code s.events.summaryByte
  | 2 => packHalves s.events.dispatch.length s.events.notices.length
  | 3 => packHalves s.intake.length s.freeContexts
  | 4 => packHalves s.freeCalls s.fetchWaiting
  | 5 => s.tick
  | 6 => (s.feed 0).head
  | 7 => (s.feed 1).head
  | 8 => (s.feed 2).head
  | 9 => (s.feed 3).head
  | _ => 0

/-- Word `w` of the event window's record; none shown reads as the all-zero record (R161, R167). -/
def eventWord (r : Option EventRecord) (w : Nat) : Word :=
  match r with
  | none => 0
  | some r =>
    match w with
    | 0 => packHalves r.sequence (r.cls.code + 256 * r.kind.code)
    | 1 => packHalves (halfOrNone r.call) (halfOrNone r.agent)
    | 2 => packHalves (halfOrNone r.target) r.detail
    | 3 => r.tick
    | _ => 0

/-- The event a read of the window's first word chooses afresh (R161). -/
def EventUnit.choose (u : EventUnit) : Option EventRecord :=
  match u.dispatch with
  | r :: _ => some r
  | [] => u.notices.head?

end Sys2Proof.Machine
end

