-- ==== Sys2Proof/Machine/Path.lean ====
section
/-! DEFINITION. The Path Unit: windows, the acceptance of write and read beats, staging, intake entries, held beats, and
the memory-side grant of a pass-through beat (09 R144 to R149, R155; 07 R125; 10 R161). -/

namespace Sys2Proof.Machine

/-! ### Windows and words (R144, R167, R168) -/

/-- What kind of word an address names. Words of windows not watched, and of no region, are `outside`. -/
inductive WordClass where
  | callHost (id word : Nat)
  | callCommand (id : Nat)
  | callPart (id word : Nat)
  | agentHost (id word : Nat)
  | agentCommand (id : Nat)
  | agentFlags (id : Nat)
  | agentPart (id word : Nat)
  | queueHost (id word : Nat)
  | queueCommand (id : Nat)
  | queuePart (id word : Nat)
  | configWord (word : Nat)
  | partCommand
  | statusWord (word : Nat)
  | eventWord (word : Nat)
  | segmentWord (word : Nat)
  | programWord (word : Nat)
  | channel (id : Nat)
  | outside
  deriving DecidableEq, Repr

/-- The anchor base: the top 64 KiB of the strapped 256 MiB block (R144). -/
def anchorBase (straps : BitVec 4) : Nat := straps.toNat * 0x10000000 + 0x0FFF0000

/-- The offset of an address in a window. -/
def offsetIn (base size a : Nat) : Option Nat := if base ≤ a ∧ a < base + size then some (a - base) else none

/-- The word at offset `o` of a queue record (R168). -/
def queueClass (id w : Nat) : WordClass :=
  if w < 8 then .queueHost id w
  else if w = 8 then .queueCommand id
  else if w < 16 then .queueHost id w
  else .queuePart id w

def callClass (id w : Nat) : WordClass :=
  if w < 4 then .callHost id w else if w = 4 then .callCommand id else .callPart id w

def agentClass (id w : Nat) : WordClass :=
  if w < 5 then .agentHost id w
  else if w = 5 then .agentCommand id
  else if w = 6 then .agentFlags id
  else .agentPart id w

/-- The regions of the anchor window (R167). -/
def anchorClass (o : Nat) : WordClass :=
  if o < 0x100 then .configWord (o / 4)
  else if o < 0x104 then .partCommand
  else if o < 0x140 then .outside
  else if o < 0x180 then .statusWord ((o - 0x140) / 4)
  else if o < 0x190 then .eventWord ((o - 0x180) / 4)
  else if o < 0x1000 then .outside
  else if o < 0x2000 then .segmentWord ((o - 0x1000) / 4)
  else if o < 0x4000 then queueClass ((o - 0x2000) / 128) ((o - 0x2000) % 128 / 4)
  else if o < 0x8000 then .programWord ((o - 0x4000) / 4)
  else .outside

/-- Whether the call and agent tables are watched: in ACTIVE, and in LOADING from the latch on (R144, R152). -/
def State.tablesWatched (s : State) : Bool :=
  decide (s.part.state = .active) || (decide (s.part.state = .loading) && decide (s.part.phase = .records))

/-- The class of a word by its offsets in the four windows; a window that is not watched has none (R144). -/
def wordClass (anchor calls agents channels : Option Nat) : WordClass :=
  match anchor with
  | some o => anchorClass o
  | none =>
    match calls with
    | some o => callClass (o / 64) (o % 64 / 4)
    | none =>
      match agents with
      | some o => agentClass (o / 64) (o % 64 / 4)
      | none =>
        match channels with
        | some o => .channel (o / 32)
        | none => .outside

/-- The offset of an address in a window, while the window is watched. -/
def offsetWatched (watched : Bool) (base : Word) (size : Nat) (a : Word) : Option Nat :=
  if watched then offsetIn base.toNat size a.toNat else none

/-- The class of the word an address names, in the present part state: the anchor is watched in every state, the tables
while they are, the channel window in ACTIVE (R144). -/
def State.classify (s : State) (a : Word) : WordClass :=
  wordClass (offsetIn (anchorBase s.path.straps) 0x10000 a.toNat)
    (offsetWatched s.tablesWatched s.part.config.callBase 0x20000 a)
    (offsetWatched s.tablesWatched s.part.config.agentBase 0x10000 a)
    (offsetWatched (decide (s.part.state = .active)) s.part.config.channelBase 0x10000 a)

/-! ### Staging (R147) -/

/-- The mask of a beat's enabled lanes. -/
def laneMask (enables : BitVec 4) : Word :=
  (if enables.getLsbD 0 then 0x000000FF#32 else 0) ||| (if enables.getLsbD 1 then 0x0000FF00#32 else 0)
    ||| (if enables.getLsbD 2 then 0x00FF0000#32 else 0) ||| (if enables.getLsbD 3 then 0xFF000000#32 else 0)

/-- A word with the enabled lanes of a beat written. -/
def mergeLanes (old : Word) (b : WriteBeat) : Word :=
  (b.data &&& laneMask b.enables) ||| (old &&& ~~~(laneMask b.enables))

/-- Writes the enabled lanes of a beat to word `n` of a staging region. -/
def stageWord (t : Table Word) (n : Nat) (b : WriteBeat) : Table Word :=
  Table.write 0 t n (mergeLanes (Table.read 0 t n) b)

/-- The loading word that a staged word is, where loading reads reach it. -/
def WordClass.loadWord : WordClass → Option LoadWord
  | .callHost id w => some { table := .call, index := id, word := w }
  | .agentHost id w => some { table := .agent, index := id, word := w }
  | .queueHost id w => some { table := .queue, index := id, word := w }
  | .configWord w => some { table := .config, index := 0, word := w }
  | .callCommand _ | .callPart _ _ | .agentCommand _ | .agentFlags _ | .agentPart _ _ => none
  | .queueCommand _ | .queuePart _ _ | .partCommand | .statusWord _ | .eventWord _ => none
  | .segmentWord _ | .programWord _ | .channel _ | .outside => none

/-- A host write to a word whose loading read is outstanding: the lanes it enables are to stand over the data to come
(R152, R153; log 29). -/
def LoadBurst.note (b : LoadBurst) (w : LoadWord) (beat : WriteBeat) : LoadBurst :=
  if w.table = b.first.table ∧ w.index = b.first.index ∧ b.first.word ≤ w.word ∧ w.word < b.first.word + b.beats then
    { b with hostWrote := b.hostWrote ++ [(w.word, beat)] }
  else b

/-- A write beat to a word that loading reads reach is noted in the outstanding burst (R152, R153; log 29). -/
def State.noteHostWrite (s : State) (w : Option LoadWord) (beat : WriteBeat) : State :=
  match w with
  | none => s
  | some w => { s with part := { s.part with burst := s.part.burst.map fun b => b.note w beat } }

/-- The staging copies after a write beat to a word of a class (R145, R147). -/
def Staging.write (g : Staging) (cls : WordClass) (b : WriteBeat) : Staging :=
  match cls with
  | .callHost id w => { g with calls := stageWord g.calls (16 * id + w) b }
  | .agentHost id w => { g with agents := stageWord g.agents (16 * id + w) b }
  | .queueHost id w => { g with queues := stageWord g.queues (32 * id + w) b }
  | .configWord w => { g with config := stageWord g.config w b }
  | .segmentWord w => { g with segments := stageWord g.segments w b }
  | .programWord w => { g with programs := stageWord g.programs w b }
  | .callCommand _ | .callPart _ _ | .agentCommand _ | .agentFlags _ | .agentPart _ _ => g
  | .queueCommand _ | .queuePart _ _ | .partCommand | .statusWord _ | .eventWord _ => g
  | .channel _ | .outside => g

/-! ### Intake entries (R148) -/

/-- The snapshot of a record: its host-owned fields as staging holds them. -/
def Staging.snapshot (g : Staging) (kind : RecordKind) (id : Nat) : List Word :=
  match kind with
  | .call => (List.range 4).map fun w => Table.read 0 g.calls (16 * id + w)
  | .agent => (List.range 5).map fun w => Table.read 0 g.agents (16 * id + w)
  | .queue => ((List.range 8) ++ [9, 10, 11, 12, 13, 14, 15]).map fun w => Table.read 0 g.queues (32 * id + w)
  | .part => []

/-- The record and word a command word class makes an entry for. -/
def WordClass.command : WordClass → Option (RecordKind × Nat × Bool)
  | .callCommand id => some (.call, id, false)
  | .agentCommand id => some (.agent, id, false)
  | .agentFlags id => some (.agent, id, true)
  | .queueCommand id => some (.queue, id, false)
  | .partCommand => some (.part, 0, false)
  | .callHost _ _ | .callPart _ _ | .agentHost _ _ | .agentPart _ _ | .queueHost _ _ | .queuePart _ _ => none
  | .configWord _ | .statusWord _ | .eventWord _ | .segmentWord _ | .programWord _ | .channel _ | .outside => none

/-- The entry of a command word write (R148). -/
def Staging.entry (g : Staging) (target : RecordKind × Nat × Bool) (b : WriteBeat) : IntakeEntry :=
  { kind := target.1
    index := target.2.1
    flagWord := target.2.2
    word := b.data &&& laneMask b.enables
    torn := b.enables != 0xF#4
    snapshot := g.snapshot target.1 target.2.1 }

/-- Makes an entry: it joins the intake, and the record's pending count rises by 1 (R148). -/
def State.makeEntry (s : State) (target : RecordKind × Nat × Bool) (b : WriteBeat) : State :=
  let e := s.staging.entry target b
  { s with intake := s.intake ++ [e] }.modifyPending e (· + 1)

/-! ### Accepting beats (R145, R146, R149, R157) -/

/-- An accepted beat waits for its memory-side slot, in the order of acceptance (R155). -/
def State.forwardBeat (s : State) (b : Beat) : State :=
  { s with path := { s.path with forward := s.path.forward ++ [b] } }

/-- A write beat to a word of a class: an intake entry for a command word, else a staging update (R145, R148). -/
def State.takeWrite (s : State) (cls : WordClass) (b : WriteBeat) : State :=
  match cls.command with
  | some target => s.makeEntry target b
  | none => { s with staging := s.staging.write cls b }.noteHostWrite cls.loadWord b

/-- The part's action on an accepted write beat: feed tracking, and the beat taken by its word's class (R136, R145,
R148). -/
def State.actOnWrite (s : State) (b : WriteBeat) : State := (s.trackFeeds b).takeWrite (s.classify b.address) b

/-- A word answered on the upstream port. -/
def State.answerRead (s : State) (w : Word) : State := { s with path := { s.path with answer := .data w } }

/-- The lanes of a voice beat served in ascending order: the samples returned, the buffer left, and whether an enabled
lane found it empty (R125). -/
def serveLanes (silence : Byte) (enables : BitVec 4) : List Nat → List Byte → List Byte × List Byte × Bool
  | [], buffer => ([], buffer, false)
  | i :: is, buffer =>
    if enables.getLsbD i then
      match buffer with
      | [] => let r := serveLanes silence enables is []
              (silence :: r.1, r.2.1, true)
      | x :: xs => let r := serveLanes silence enables is xs
                   (x :: r.1, r.2.1, r.2.2)
    else
      let r := serveLanes silence enables is buffer
      (silence :: r.1, r.2.1, r.2.2)

/-- The word of four lanes. -/
def lanesWord (l : List Byte) : Word :=
  packBytes (l.getD 0 0).toNat (l.getD 1 0).toNat (l.getD 2 0).toNat (l.getD 3 0).toNat

/-- A shortfall counts once against the call (R4, R125). -/
def State.countUnderrun (s : State) (c : Nat) : State :=
  s.setCall c { s.call c with underruns := min ((s.call c).underruns + 1) 65535 }

/-- A substituted voice beat (R125). A context in STARTING answers silence and counts nothing; otherwise the buffer
drains, and a FEED step's source is read as its request comes to stand (R140). -/
def State.voiceBeat (s : State) (k : Nat) (enables : BitVec 4) : State :=
  let x := s.context k
  if x.state = .starting then s.answerRead (lanesWord (List.replicate 4 s.part.config.silence))
  else
    let r := serveLanes s.part.config.silence enables [0, 1, 2, 3] x.buffer
    let s := s.answerRead (lanesWord r.1)
    let s := s.setContext k { x with buffer := r.2.1 }
    let s := if r.2.2 then s.countUnderrun x.call else s
    if (s.context k).hungry then s.followFeed k else s

/-- The context a voice beat is answered from: the voice tag on a channel bound to one in STARTING or PLAYING, the part
ACTIVE (R125). -/
def State.voiceContext (s : State) (tag : BitVec 2) (ch : Nat) : Option Nat :=
  if s.part.state = .active ∧ tag = s.part.config.voiceTag then
    match s.binding ch with
    | none => none
    | some k => if (s.context k).running then some k else none
  else none

/-- A read of the event window (R161): the first word chooses the shown event afresh. -/
def State.readEvent (s : State) (w : Nat) : State :=
  if w = 0 then
    { s with events := { s.events with shown := s.events.choose } }.answerRead (eventWord s.events.choose 0)
  else s.answerRead (eventWord s.events.shown w)

/-- A read beat of a word of a class: answered by the part, or forwarded to memory (R146). -/
def State.takeRead (s : State) (cls : WordClass) (b : ReadBeat) : State :=
  match cls with
  | .queuePart id w => s.answerRead (s.queueWord id w)
  | .statusWord w => s.answerRead (s.statusWord w)
  | .eventWord w => s.readEvent w
  | .callPart id w =>
    if s.part.state = .active then s.answerRead (s.callWord id w) else s.forwardBeat (.read b)
  | .agentPart id w =>
    if s.part.state = .active then s.answerRead (s.agentWord id w) else s.forwardBeat (.read b)
  | .channel id =>
    match s.voiceContext b.tag id with
    | some k => s.voiceBeat k b.enables
    | none => s.forwardBeat (.read b)
  | .callHost _ _ | .callCommand _ | .agentHost _ _ | .agentCommand _ | .agentFlags _ => s.forwardBeat (.read b)
  | .queueHost _ _ | .queueCommand _ | .configWord _ | .partCommand => s.forwardBeat (.read b)
  | .segmentWord _ | .programWord _ | .outside => s.forwardBeat (.read b)

/-- An accepted read beat, by its word's class (R146). -/
def State.acceptRead (s : State) (b : ReadBeat) : State := s.takeRead (s.classify b.address) b

/-- Acceptance of a beat on the upstream port: a write is acted on and forwarded unchanged (R145). -/
def State.accept (s : State) (b : Beat) : State :=
  match b with
  | .write w => (s.actOnWrite w).forwardBeat (.write w)
  | .read r => s.acceptRead r

/-- Whether a beat must be held: it would make an entry and all 32 are in use (R149). -/
def State.mustHold (s : State) (b : Beat) : Bool :=
  match b with
  | .write w => (s.classify w.address).command.isSome && decide (Config.intakeDepth ≤ s.intake.length)
  | .read _ => false

/-- A beat joins those waiting on the upstream port. -/
def State.holdBeat (s : State) (b : Beat) : State :=
  { s with path := { s.path with waiting := s.path.waiting ++ [b] } }

/-- A beat presented on the upstream port. It waits when it must be held, and behind any beat that waits (R149); else it
is accepted. -/
def State.present (s : State) (b : Beat) : State :=
  if s.path.waiting.isEmpty = false then s.holdBeat b
  else if s.mustHold b then s.holdBeat b
  else s.accept b

/-- A beat in time: while RESET is asserted it is forwarded unchanged and the part takes no note of it (R157). -/
def beatEvent (b : Beat) (s : State) : Outcome :=
  if s.path.resetAsserted then .next (s.forwardBeat b) else event s fun s => s.present b

/-- COMMAND_WORD_WRITE (R148). The part classifies a beat by its address, whichever row names it (log 19). -/
def execCommandWordWrite (b : WriteBeat) (s : State) : Outcome := beatEvent (.write b) s

/-- STAGING_WRITE (R145, R147). -/
def execStagingWrite (b : WriteBeat) (s : State) : Outcome := beatEvent (.write b) s

/-- FEED_COUNTED_WRITE (R136, R145). -/
def execFeedCountedWrite (b : WriteBeat) (s : State) : Outcome := beatEvent (.write b) s

/-- VOICE_READ (R125, R146). -/
def execVoiceRead (b : ReadBeat) (s : State) : Outcome := beatEvent (.read b) s

/-- EVENT_WINDOW_READ (R146, R161). -/
def execEventWindowRead (b : ReadBeat) (s : State) : Outcome := beatEvent (.read b) s

/-- HELD_COMMAND_BEAT: the front waiting beat is accepted, a command word beat once the intake has room (R149; log 18). -/
def execHeldCommandBeat (s : State) : Outcome :=
  event s fun s =>
    match s.path.waiting with
    | [] => s
    | b :: rest => if s.mustHold b then s else { s with path := { s.path with waiting := rest } }.accept b

/-! ### The grant of a pass-through beat (R127, R155) -/

/-- The count of consecutive pass-through beats after one more: it runs while a servable request of the part's own
stands (R127, R155). -/
def State.passCountNext (s : State) : Nat := if s.ownServable then s.path.passCount + 1 else 0

/-- PASS_THROUGH_BEAT_GRANT: the slot goes to the front waiting beat, unless 8 have gone while a request of the part's own
stood (R155). While RESET is asserted the part has no request of its own (R157). -/
def execPassThroughBeatGrant (s : State) : Outcome :=
  match s.path.forward with
  | [] => .next s
  | b :: rest =>
    if s.path.resetAsserted then .next { s with path := { s.path with forward := rest, port := .passThrough b } }
    else if s.ownServable && decide (Config.passLimit ≤ s.path.passCount) then .next s
    else
      .next { s with path := { s.path with forward := rest, port := .passThrough b, passCount := s.passCountNext } }

end Sys2Proof.Machine
end

