-- ==== Sys2Proof/Machine/Loading.lean ====
section
/-! DEFINITION. Loading: the latch and validation of the configuration, the loading reads, completion, failure, and the
dropping of live state (09 R151 to R156; the reset rules of every chapter). -/

namespace Sys2Proof.Machine

/-! ### Dropping live state (R6, R29, R49, R66, R84, R95, R109, R135, R151, R160) -/

def Call.dropped (x : Call) : Call := { Call.cold with result := x.result, pendingCount := x.pendingCount }
def Queue.dropped (q : Queue) : Queue :=
  { Queue.cold with result := q.result, pendingCount := q.pendingCount, ticksTaken := q.ticksTaken }
def Agent.dropped (g : Agent) : Agent :=
  { Agent.cold with result := g.result, pendingCount := g.pendingCount, ticksTaken := g.ticksTaken }
def Context.dropped (x : Context) : Context := if x.running then x.stopped else x
def Feed.dropped (f : Feed) : Feed :=
  { f with state := .off, lastWrite := 0, settleCount := 0, settling := false }
def EventUnit.emptied (u : EventUnit) : EventUnit :=
  { u with dispatch := [], notices := [], sequence := 0, shown := none }

/-- Every unit takes the values its chapter gives for DISABLE. Staging, the active library and configuration, the Time
Base, the summaries, the intake and the pending counts are kept (R151, R148). -/
def State.dropLive (s : State) : State :=
  { s with
    calls := Table.mapAll Call.cold Call.dropped s.calls
    seniority := 0
    deadlines := []
    queues := Table.mapAll Queue.cold Queue.dropped s.queues
    samples := []
    agents := Table.mapAll Agent.cold Agent.dropped s.agents
    engine := {}
    playout := { s.playout with
      contexts := Table.mapAll Context.cold Context.dropped s.playout.contexts, bindings := [] }
    feeds := Table.mapAll Feed.cold Feed.dropped s.feeds
    events := s.events.emptied }

/-! ### Validation (R152) -/

def windowsAligned (c : PartConfig) : Bool :=
  c.callBase.toNat % 0x20000 == 0 && c.agentBase.toNat % 0x10000 == 0 && c.channelBase.toNat % 0x10000 == 0

/-- Whether two address ranges, each a base and a size, share an address. -/
def overlap (x y : Nat × Nat) : Bool := decide (x.1 < y.1 + y.2) && decide (y.1 < x.1 + x.2)

/-- The four windows, as bases and sizes (R144). -/
def windows (straps : BitVec 4) (c : PartConfig) : List (Nat × Nat) :=
  [(anchorBase straps, 0x10000), (c.callBase.toNat, 0x20000), (c.agentBase.toNat, 0x10000),
   (c.channelBase.toNat, 0x10000)]

/-- Whether two of a list of ranges share an address. -/
def anyOverlap : List (Nat × Nat) → Bool
  | [] => false
  | x :: xs => xs.any (overlap x) || anyOverlap xs

/-- A feed's ring against R152's conditions. -/
def FeedConfig.ringValid (f : FeedConfig) (ws : List (Nat × Nat)) : Bool :=
  f.ringStart.toNat % 4 == 0 && f.ringEnd.toNat % 4 == 0 && decide (f.ringStart.toNat < f.ringEnd.toNat)
    && decide (1024 ≤ f.size) && decide (f.size ≤ 1048576)
    && ws.all fun w => !overlap w (f.ringStart.toNat, f.size)

/-- The first failure, in R152's order; NONE for a valid configuration. Feeds not enabled are not checked. -/
def validate (straps : BitVec 4) (c : PartConfig) : ConfigError :=
  let feeds := c.feeds.filter (·.enable)
  if windowsAligned c = false then .windowAlign
  else if anyOverlap (windows straps c) then .windowOverlap
  else if feeds.all (fun f => f.ringValid (windows straps c)) = false then .feedRing
  else if feeds.any (fun f => f.tag == c.voiceTag) then .tagClash
  else .none

/-! ### Starting and ending a LOADING (R152 to R154) -/

/-- Loading reads abandoned: data still to arrive is discarded, and a RESTART not yet answered stays unanswered (R154). -/
def PartControl.abandon (p : PartControl) : PartControl :=
  { p with
    phase := .none
    cursor := none
    burst := none
    discard := if p.burst.isSome then p.discard + 1 else p.discard
    restartToken := none }

/-- The return of a failed LOADING to PASS (R154). -/
def State.failLoading (s : State) (err : ConfigError) : State :=
  let s := s.dropLive
  { s with part := { s.part.abandon with state := .pass, error := err } }

/-- The latch of the configuration staging: the part is LOADING and the error code NONE; with a valid configuration the
loading reads begin, otherwise the LOADING fails (R152). The result is that of the ENABLE or RESTART. -/
def State.latchConfig (s : State) : ResultCode × State :=
  let c := configOf s.staging.configWords
  let s := { s with
    part := { s.part with state := .loading, error := .none, config := c, phase := .records
                          cursor := some { table := .queue, index := 0, word := 0 }, restartToken := none } }
  match validate s.path.straps c with
  | .none => (.ok, s)
  | err => (.configError, s.failLoading err)

/-- The library staging latched as the active library, and whether a value was brought into range (R114). -/
def State.latchLibrary (s : State) : Bool × State :=
  let clamped := (List.range Config.numSegments).any (fun n => (s.staging.segment n).2)
    || (List.range Config.numPrograms).any (fun n => (s.staging.program n).2)
  (clamped, { s with
    playout := { s.playout with
      segments := Table.build Segment.cold Config.numSegments fun n => (s.staging.segment n).1
      programs := Table.build Program.cold Config.numPrograms fun n => (s.staging.program n).1 } })

/-- A feed at completion of LOADING: it takes the latched values, and is ARMING when enabled, else OFF (R135). -/
def Feed.loaded (f : Feed) (c : FeedConfig) (now : Tick) : Feed :=
  if c.enable then
    { latched := c, state := .arming, head := c.ringStart, lastWrite := now, settleCount := 0, settling := false
      ticksTaken := caughtUp f.ticksTaken now }
  else { f.dropped with latched := c }

def State.loadFeeds (s : State) : State :=
  (List.range Config.numFeeds).foldl
    (fun s i => s.setFeed i ((s.feed i).loaded (s.part.config.feeds.getD i {}) s.tick)) s

/-- The completion of LOADING, in one event (R153). -/
def State.completeLoading (s : State) : State :=
  let s := s.dropLive.latchLibrary.2.loadFeeds
  { s with part := { s.part with state := .active, phase := .none, cursor := none, burst := none } }

/-! ### Loading reads (R152, R153, R155) -/

/-- The words from this one to the end of its run of consecutive host-owned words. -/
def LoadWord.run (w : LoadWord) : Nat :=
  match w.table with
  | .config => 64 - w.word
  | .queue => if w.word < 8 then 8 - w.word else 16 - w.word
  | .agent => 5 - w.word
  | .call => 4 - w.word

/-- The word to ask for after `n` words of a run: record by record, the queues, the agents, the calls (R153). -/
def LoadWord.after (w : LoadWord) (n : Nat) : Option LoadWord :=
  let k := w.word + n
  match w.table with
  | .config => if k < 64 then some { w with word := k } else none
  | .queue =>
    if k = 8 then some { w with word := 9 }
    else if k < 16 then some { w with word := k }
    else if w.index + 1 < Config.numQueues then some { table := .queue, index := w.index + 1, word := 0 }
    else some { table := .agent, index := 0, word := 0 }
  | .agent =>
    if k < 5 then some { w with word := k }
    else if w.index + 1 < Config.numAgents then some { table := .agent, index := w.index + 1, word := 0 }
    else some { table := .call, index := 0, word := 0 }
  | .call =>
    if k < 4 then some { w with word := k }
    else if w.index + 1 < Config.numCalls then some { table := .call, index := w.index + 1, word := 0 }
    else none

/-- The address of a word in memory (R144, R167, R168). -/
def State.loadAddress (s : State) (w : LoadWord) : Word :=
  let anchor := BitVec.ofNat 32 (anchorBase s.path.straps)
  match w.table with
  | .config => anchor + BitVec.ofNat 32 (4 * w.word)
  | .queue => anchor + BitVec.ofNat 32 (0x2000 + 128 * w.index + 4 * w.word)
  | .agent => s.part.config.agentBase + BitVec.ofNat 32 (64 * w.index + 4 * w.word)
  | .call => s.part.config.callBase + BitVec.ofNat 32 (64 * w.index + 4 * w.word)

/-- A beat accepted and still to reach memory, when it writes one of the `n` words from word `w` at address `a`, with its
word. -/
def pendingWrite (a : Word) (w n : Nat) : Beat → Option (Nat × WriteBeat)
  | .write b => if (b.address - a).toNat / 4 < n then some (w + (b.address - a).toNat / 4, b) else none
  | .read _ => none

/-- Issues a loading burst of at most `beats` beats from the next word to read. The data to come is older than the writes to
its words that are accepted and have not reached memory, which are noted as those accepted later are (R153; log 29). -/
def State.issueLoad (s : State) (w : LoadWord) (beats : Nat) : State :=
  let n := min beats w.run
  let older := s.path.forward.filterMap (pendingWrite (s.loadAddress w) w.word n)
  { s with
    part := { s.part with burst := some { first := w, beats := n, hostWrote := older }, cursor := w.after n }
    path := { s.path with port := .load (s.loadAddress w) n, passCount := 0 } }

/-- LOADING_READ_GRANT: taken when a loading read can be served, no fetch can, and the part's own side has the slot
(R155). Its operand is the burst's size, one to four beats, which the spec leaves open (R153; log 21). -/
def execLoadingReadGrant (beats : Nat) (s : State) : Outcome :=
  event s fun s =>
    if s.loadServable && !s.fetchServable && s.ownTurn && decide (1 ≤ beats) && decide (beats ≤ 4) then
      match s.part.cursor with
      | none => s
      | some w => s.issueLoad w beats
    else s

/-- One arriving word set in staging. -/
def Staging.load (g : Staging) (w : LoadWord) (data : Word) : Staging :=
  match w.table with
  | .config => { g with config := Table.write 0 g.config w.word data }
  | .queue => { g with queues := Table.write 0 g.queues (32 * w.index + w.word) data }
  | .agent => { g with agents := Table.write 0 g.agents (16 * w.index + w.word) data }
  | .call => { g with calls := Table.write 0 g.calls (16 * w.index + w.word) data }

/-- An arriving word with the host's writes to it laid over it, lane by lane, so that memory and staging end equal (R152,
R153; log 29). -/
def LoadBurst.laid (b : LoadBurst) (k : Nat) (data : Word) : Word :=
  b.hostWrote.foldl (fun d e => if e.1 = k then mergeLanes d e.2 else d) data

/-- The words of a burst set in staging, from word `k` of its record on. -/
def Staging.loadWords (g : Staging) (b : LoadBurst) : Nat → List Word → Staging
  | _, [] => g
  | k, d :: ds =>
    (g.load { b.first with word := k } (b.laid k d)).loadWords b (k + 1) ds

/-- A burst's data taken into staging; the burst is no longer outstanding. -/
def State.takeLoad (s : State) (b : LoadBurst) (data : List Word) : State :=
  { s with
    staging := s.staging.loadWords b b.first.word data
    part := { s.part with burst := none } }

/-- Whether a burst is the last of the configuration read, or of the record reads. -/
def LoadBurst.endsConfig (b : LoadBurst) : Bool :=
  decide (b.first.table = .config) && (b.first.after b.beats).isNone
def LoadBurst.endsRecords (b : LoadBurst) : Bool :=
  decide (b.first.table = .call) && (b.first.after b.beats).isNone

/-- A response to an abandoned burst: discarded (R154). -/
def State.discardLoad (s : State) : State := { s with part := { s.part with discard := s.part.discard - 1 } }

/-- LOADING_READ_DONE: the data of the outstanding burst, other than the last of a configuration read, goes to staging; the
last call record's completes the LOADING (R153). -/
def execLoadingReadDone (data : List Word) (s : State) : Outcome :=
  event s fun s =>
    if s.part.discard ≠ 0 then s.discardLoad
    else
      match s.part.burst with
      | none => s
      | some b =>
        if data.length ≠ b.beats ∨ b.endsConfig = true then s
        else if b.endsRecords then (s.takeLoad b data).completeLoading
        else s.takeLoad b data

/-- The result of the RESTART whose configuration read has ended (R152). -/
def State.answerRestart (s : State) (token : Option Byte) (r : ResultCode) : State :=
  match token with
  | none => s
  | some t => s.setPartResult { code := 3, token := t, result := r }

/-- CONFIG_READ_DONE: the last data of a RESTART's configuration read: latch, validation and result (R152). -/
def execConfigReadDone (data : List Word) (s : State) : Outcome :=
  event s fun s =>
    if s.part.discard ≠ 0 then s.discardLoad
    else
      match s.part.burst with
      | none => s
      | some b =>
        if data.length ≠ b.beats ∨ b.endsConfig = false then s
        else
          let r := (s.takeLoad b data).latchConfig
          r.2.answerRestart s.part.restartToken r.1

/-- LOAD_FAULT: an error response to the outstanding loading read. The LOADING fails with LOAD_FAULT, and a RESTART whose
configuration read it was is answered CONFIG_ERROR (R154, R156). None of the burst's data reaches staging, the beats before the
one in error included (DESIGN CHOICE; log 47). -/
def execLoadFault (s : State) : Outcome :=
  event s fun s =>
    if s.part.discard ≠ 0 then s.discardLoad
    else
      match s.part.burst with
      | none => s
      | some _ =>
        ({ s with part := { s.part with burst := none } }.failLoading .loadFault).answerRestart s.part.restartToken
          .configError

end Sys2Proof.Machine
end

