-- ==== Sys2Proof/Machine/Part.lean ====
section
/-! DEFINITION. The eight part commands, and the RESET pin (09 R151 to R154, R157; 10 R162, R163). -/

namespace Sys2Proof.Machine

/-! ### ENABLE, DISABLE, RESTART (R151, R152, R154) -/

def anyState (_ : PartState) : Bool := true

/-- PASS and ACTIVE, the states in which most part commands are executed (R151). -/
def notLoading : PartState → Bool
  | .pass => true
  | .loading => false
  | .active => true

def onlyActive : PartState → Bool
  | .pass => false
  | .loading => false
  | .active => true

/-- ENABLE (R151, R152). -/
def enableBody (_ : IntakeEntry) (s : State) : ResultCode × State :=
  if s.part.state ≠ .pass then (.wrongState, s) else s.latchConfig

/-- DISABLE (R151, R154). In PASS nothing changes, queued notices included, as R151's table has it (DEDUCED; log 41). -/
def disableBody (_ : IntakeEntry) (s : State) : ResultCode × State :=
  if s.part.state = .pass then (.ok, s)
  else
    let s := s.dropLive
    (.ok, { s with part := { s.part.abandon with state := .pass } })

/-- RESTART: an earlier LOADING is abandoned, a proposal in flight discarded, and the configuration read begins; its
result is written when that read completes (R68, R152, R154). -/
def restartBody (e : IntakeEntry) (s : State) : State :=
  let s := s.endProposal
  { s with
    part := { s.part.abandon with
      state := .loading, phase := .config, cursor := some { table := .config, index := 0, word := 0 }
      restartToken := some e.token } }

/-! ### LIBRARY_APPLY (R114), EVENT_POP (R162), SUMMARY_CLEAR (R163) -/

/-- LIBRARY_APPLY (R114). -/
def libraryApplyBody (_ : IntakeEntry) (s : State) : ResultCode × State :=
  (if s.latchLibrary.1 then .okClamped else .ok, s.latchLibrary.2)

/-- Whether a queue's head has a sequence number; no queued event has 0 (R159, R162). -/
def headIs (l : List EventRecord) (n : Nat) : Bool := n != 0 && l.head?.any fun r => r.sequence == n

/-- The shown event after the record of a sequence number leaves its queue (R161, R162). -/
def EventUnit.unshow (u : EventUnit) (n : Nat) : Option EventRecord := u.shown.filter fun r => r.sequence != n

/-- EVENT_POP (R162). -/
def eventPopBody (e : IntakeEntry) (s : State) : ResultCode × State :=
  let n := e.argument
  if headIs s.events.dispatch n then
    (.ok, { s with events := { s.events with dispatch := s.events.dispatch.tail, shown := s.events.unshow n } })
  else if headIs s.events.notices n then
    (.ok, { s with events := { s.events with notices := s.events.notices.tail, shown := s.events.unshow n } })
  else (.stale, s)

/-- SUMMARY_CLEAR (R163, R168). -/
def summaryClearBody (e : IntakeEntry) (s : State) : ResultCode × State :=
  (.ok, { s with
    events := { s.events with
      summaries := s.events.summaries.clear e.argument, lost := s.events.lost && !e.argument.testBit 6 } })

def execEnable (s : State) : Outcome := partCommand 1 anyState (answering enableBody) s
def execDisable (s : State) : Outcome := partCommand 2 anyState (answering disableBody) s
def execRestart (s : State) : Outcome := partCommand 3 anyState restartBody s
def execLibraryApply (s : State) : Outcome := partCommand 4 onlyActive (answering libraryApplyBody) s
def execEventPop (s : State) : Outcome := partCommand 5 notLoading (answering eventPopBody) s
def execSummaryClear (s : State) : Outcome := partCommand 6 notLoading (answering summaryClearBody) s
def execFeedClear (s : State) : Outcome := partCommand 7 onlyActive (answering feedClearBody) s
def execTimebaseClear (s : State) : Outcome := partCommand 8 notLoading (answering timebaseClearBody) s

/-! ### The RESET pin (R157) -/

/-- RESET: beats accepted and not yet forwarded are dropped with an error response, held beats are forwarded as any other
beat now is (log 23), and the part's own outstanding requests are abandoned; responses still to come to them are forgotten
(R157; DESIGN CHOICE, log 43). -/
def execReset (s : State) : Outcome :=
  if s.path.resetAsserted then .next s
  else
    .next { s with
      path := { s.path with
        resetAsserted := true, waiting := [], forward := s.path.waiting, answer := .errors s.path.forward, port := .idle
        passCount := 0 }
      part := { s.part with phase := .none, cursor := none, burst := none, discard := 0, restartToken := none }
      playout := { s.playout with fetch := none } }

/-- RESET_RELEASE: the straps have been sampled, and every unit has its cold-reset values (R144, R157). Beats forwarded
under RESET that still wait for their slot keep it; the commands still to come are the sender's. -/
def execResetRelease (straps : BitVec 4) (s : State) : Outcome :=
  if s.path.resetAsserted then
    .next { State.reset with
      pending := s.pending
      freeIndex := s.freeIndex
      path := { State.reset.path with straps := straps, forward := s.path.forward } }
  else .next s

end Sys2Proof.Machine
end

