-- ==== Sys2Proof/Machine/Dispatch.lean ====
section
/-! DEFINITION. One arm per command: the meaning each has. -/

namespace Sys2Proof.Machine

def exec (i : Instr) (s : State) : Host.Outcome State Fault Refusal :=
  match i with
  | .enqueue => Sys2Proof.Machine.execEnqueue s
  | .abandon => Sys2Proof.Machine.execAbandon s
  | .answer => Sys2Proof.Machine.execAnswer s
  | .noAnswer => Sys2Proof.Machine.execNoAnswer s
  | .hold => Sys2Proof.Machine.execHold s
  | .resume => Sys2Proof.Machine.execResume s
  | .transfer => Sys2Proof.Machine.execTransfer s
  | .release => Sys2Proof.Machine.execRelease s
  | .priority => Sys2Proof.Machine.execPriority s
  | .announce => Sys2Proof.Machine.execAnnounce s
  | .login => Sys2Proof.Machine.execLogin s
  | .ready => Sys2Proof.Machine.execReady s
  | .notReady => Sys2Proof.Machine.execNotReady s
  | .logout => Sys2Proof.Machine.execLogout s
  | .skills => Sys2Proof.Machine.execSkills s
  | .extendWrap => Sys2Proof.Machine.execExtendWrap s
  | .flagWrite => Sys2Proof.Machine.execFlagWrite s
  | .openQueue => Sys2Proof.Machine.execOpen s
  | .closeQueue => Sys2Proof.Machine.execClose s
  | .pauseQueue => Sys2Proof.Machine.execPause s
  | .unpauseQueue => Sys2Proof.Machine.execUnpause s
  | .applyQueue => Sys2Proof.Machine.execApply s
  | .resetCounters => Sys2Proof.Machine.execResetCounters s
  | .enable => Sys2Proof.Machine.execEnable s
  | .disable => Sys2Proof.Machine.execDisable s
  | .restart => Sys2Proof.Machine.execRestart s
  | .libraryApply => Sys2Proof.Machine.execLibraryApply s
  | .eventPop => Sys2Proof.Machine.execEventPop s
  | .summaryClear => Sys2Proof.Machine.execSummaryClear s
  | .feedClear => Sys2Proof.Machine.execFeedClear s
  | .timebaseClear => Sys2Proof.Machine.execTimebaseClear s
  | .unknownCommand => Sys2Proof.Machine.execUnknownCommand s
  | .commandWordWrite b => Sys2Proof.Machine.execCommandWordWrite b s
  | .heldCommandBeat => Sys2Proof.Machine.execHeldCommandBeat s
  | .stagingWrite b => Sys2Proof.Machine.execStagingWrite b s
  | .feedCountedWrite b => Sys2Proof.Machine.execFeedCountedWrite b s
  | .voiceRead b => Sys2Proof.Machine.execVoiceRead b s
  | .eventWindowRead b => Sys2Proof.Machine.execEventWindowRead b s
  | .fsyncPulse early => Sys2Proof.Machine.execFsyncPulse early s
  | .referencePeriodEnd => Sys2Proof.Machine.execReferencePeriodEnd s
  | .timebaseSubst => Sys2Proof.Machine.execTimebaseSubst s
  | .tick => Sys2Proof.Machine.execTick s
  | .offerExpiry => Sys2Proof.Machine.execOfferExpiry s
  | .maxWaitDue => Sys2Proof.Machine.execMaxWaitDue s
  | .overflowDue => Sys2Proof.Machine.execOverflowDue s
  | .agentTick a => Sys2Proof.Machine.execAgentTick a s
  | .wrapCountdownEnd a => Sys2Proof.Machine.execWrapCountdownEnd a s
  | .handleTimeSample n => Sys2Proof.Machine.execHandleTimeSample n s
  | .ewtRepublish q => Sys2Proof.Machine.execEwtRepublish q s
  | .agentTrigger => Sys2Proof.Machine.execAgentTrigger s
  | .callTrigger => Sys2Proof.Machine.execCallTrigger s
  | .queueTrigger => Sys2Proof.Machine.execQueueTrigger s
  | .commit => Sys2Proof.Machine.execCommit s
  | .generatedGroup k => Sys2Proof.Machine.execGeneratedGroup k s
  | .fetchGrant => Sys2Proof.Machine.execFetchGrant s
  | .burstArrival d0 d1 => Sys2Proof.Machine.execBurstArrival d0 d1 s
  | .fetchError => Sys2Proof.Machine.execFetchError s
  | .interjectionTick k => Sys2Proof.Machine.execInterjectionTick k s
  | .interjection k => Sys2Proof.Machine.execInterjection k s
  | .feedArmingTick f => Sys2Proof.Machine.execFeedArmingTick f s
  | .armingRestart f => Sys2Proof.Machine.execArmingRestart f s
  | .feedArmed f => Sys2Proof.Machine.execFeedArmed f s
  | .feedMissing f => Sys2Proof.Machine.execFeedMissing f s
  | .configReadDone data => Sys2Proof.Machine.execConfigReadDone data s
  | .loadingReadGrant beats => Sys2Proof.Machine.execLoadingReadGrant beats s
  | .loadingReadDone data => Sys2Proof.Machine.execLoadingReadDone data s
  | .loadFault => Sys2Proof.Machine.execLoadFault s
  | .reset => Sys2Proof.Machine.execReset s
  | .resetRelease straps => Sys2Proof.Machine.execResetRelease straps s
  | .passThroughBeatGrant => Sys2Proof.Machine.execPassThroughBeatGrant s

end Sys2Proof.Machine
end

