-- ==== Sys2Proof/Machine/Step.lean ====
section
/-! DEFINITION. One step: the command at the front of the queue is taken and executed on the state with the queue's
rest. -/

namespace Sys2Proof.Machine

/-- Takes the front command. On an empty queue the part idles: nothing happens that no command brings (log 2). -/
def step (s : State) : Host.Outcome State Fault Refusal :=
  match s.pending with
  | [] => .next s
  | c :: rest => exec c { s with pending := rest }

/-- The state with the command a table word spells at the front of its queue; unchanged where the word spells none, which
is every word, since no row of the table has bits (log 32). -/
def State.withFetchWord (s : State) (nbits w : Nat) : State :=
  match decodeTableWord nbits w with
  | none => s
  | some c => { s with pending := c :: s.pending }

end Sys2Proof.Machine
end

