-- ==== Sys2Proof/Safety.lean ====
section
/-! DEFINITION. What a step may change, and what every step keeps: the components of the state, the relation that says a
step changed nothing outside some of them, and the invariants the spec states. -/

namespace Sys2Proof.Machine

/-! ### Frames -/

/-- The components of the state a frame speaks of. -/
inductive Component where
  | pending | freeIndex
  | resetAsserted | straps | waiting | forward | answer | port | passCount
  | staging | intake
  | partState | configError | config | partResult | loading
  | calls | seniority | deadlines
  | queues | samples | agents
  | workList | proposal
  | contexts | bindings | fetch | library
  | feeds | time
  | dispatch | notices | sequence | summaries | lost | shown
  deriving DecidableEq, Repr

/-- Two states have a component in common. -/
def Component.agree (s t : State) : Component → Prop
  | .pending => t.pending = s.pending
  | .freeIndex => t.freeIndex = s.freeIndex
  | .resetAsserted => t.path.resetAsserted = s.path.resetAsserted
  | .straps => t.path.straps = s.path.straps
  | .waiting => t.path.waiting = s.path.waiting
  | .forward => t.path.forward = s.path.forward
  | .answer => t.path.answer = s.path.answer
  | .port => t.path.port = s.path.port
  | .passCount => t.path.passCount = s.path.passCount
  | .staging => t.staging = s.staging
  | .intake => t.intake = s.intake
  | .partState => t.part.state = s.part.state
  | .configError => t.part.error = s.part.error
  | .config => t.part.config = s.part.config
  | .partResult => t.part.result = s.part.result
  | .loading => t.part.phase = s.part.phase ∧ t.part.cursor = s.part.cursor ∧ t.part.burst = s.part.burst
      ∧ t.part.discard = s.part.discard ∧ t.part.restartToken = s.part.restartToken
  | .calls => t.calls = s.calls
  | .seniority => t.seniority = s.seniority
  | .deadlines => t.deadlines = s.deadlines
  | .queues => t.queues = s.queues
  | .samples => t.samples = s.samples
  | .agents => t.agents = s.agents
  | .workList => t.engine.workList = s.engine.workList
  | .proposal => t.engine.proposal = s.engine.proposal ∧ t.engine.reserved = s.engine.reserved
  | .contexts => t.playout.contexts = s.playout.contexts
  | .bindings => t.playout.bindings = s.playout.bindings
  | .fetch => t.playout.fetch = s.playout.fetch
  | .library => t.playout.segments = s.playout.segments ∧ t.playout.programs = s.playout.programs
  | .feeds => t.feeds = s.feeds
  | .time => t.time = s.time
  | .dispatch => t.events.dispatch = s.events.dispatch
  | .notices => t.events.notices = s.events.notices
  | .sequence => t.events.sequence = s.events.sequence
  | .summaries => t.events.summaries = s.events.summaries
  | .lost => t.events.lost = s.events.lost
  | .shown => t.events.shown = s.events.shown

/-- Every component outside a list is unchanged. -/
structure Changes (cs : List Component) (s t : State) : Prop where
  keeps : ∀ k, k ∉ cs → k.agree s t

/-- The components a posting may change (R159). -/
def posting : List Component := [.dispatch, .notices, .sequence, .summaries, .lost]

/-- Every record of a table but one is unchanged. -/
def CallsBut (c : Nat) (s t : State) : Prop := ∀ d, d ≠ c → t.call d = s.call d
def QueuesBut (q : Nat) (s t : State) : Prop := ∀ r, r ≠ q → t.queue r = s.queue r
def AgentsBut (a : Nat) (s t : State) : Prop := ∀ b, b ≠ a → t.agent b = s.agent b
def ContextsBut (k : Nat) (s t : State) : Prop := ∀ j, j ≠ k → t.context j = s.context j
def FeedsBut (f : Nat) (s t : State) : Prop := ∀ g, g ≠ f → t.feed g = s.feed g

/-- The work list with a trigger added, unless it is in the list already (R66). -/
def withTrigger (l : List Trigger) (g : Trigger) : List Trigger := if g ∈ l then l else l ++ [g]

/-- A call's entry in the deadline list is the one its armed slots ask for, and the others' entries stand as they stood. One
that stays the same keeps its place; a replaced one stands behind those present (R23; log 34). -/
def EntryFollows (c : Nat) (s t : State) : Prop :=
  t.shownDeadline c = t.deadlineOf c ∧
    t.deadlines =
      if s.shownDeadline c = t.deadlineOf c then s.deadlines
      else (s.deadlines.filter fun d => d.call != c) ++ (t.deadlineOf c).toList

/-- A due entry has been taken (R24): the call's entry has left the deadline list, and the one its armed slots ask for stands
behind those present. -/
def EntryReinserted (c : Nat) (s t : State) : Prop :=
  t.shownDeadline c = t.deadlineOf c ∧
    t.deadlines = (s.deadlines.filter fun d => d.call != c) ++ (t.deadlineOf c).toList

/-- The context of a call is stopped: unbound, and FREE, or DRAINING while a fetch is in flight (R112); every other context
and binding is unchanged, and a call without a context stops none (R12). A FREE context has the model's values (log 28). -/
def ContextStopped (c : Nat) (s t : State) : Prop :=
  match (s.call c).context with
  | none => (∀ k, t.context k = s.context k) ∧ ∀ b, t.binding b = s.binding b
  | some k =>
    t.context k =
      (if (s.context k).inFlight then
        { s.context k with state := .draining, stack := [], buffer := [], timer := 0 }
      else { Context.cold with ticksTaken := (s.context k).ticksTaken }) ∧
    ContextsBut k s t ∧
    ∀ b, t.binding b = if b = (s.context k).channel then none else s.binding b

/-- Two states agree on what a notice takes its stamp and its class check from (R159), and on the free values still to come
(log 11). -/
def SamePosting (s t : State) : Prop :=
  t.time = s.time ∧ t.part.config = s.part.config ∧ t.freeIndex = s.freeIndex

/-- Context `k` of call `c` stands as record `y` when the control `x` is taken (R115, R121), and what stands afterwards is
what `x` leaves of it: `v` is the state in which it is taken. -/
def ControlLeaves (s t : State) (c k : Nat) (y : Context) (x : Control) : Prop :=
  ∃ v, v.context k = y ∧ v.binding y.channel = some k ∧ (v.call c).context = some k ∧ v.events = s.events ∧ SamePosting s v ∧
    Component.library.agree s v ∧ v.feeds = s.feeds ∧ v.queues = t.queues ∧ CallsBut c v t ∧
    (v.call c).state = (t.call c).state ∧ (v.call c).currentQueue = (t.call c).currentQueue ∧
    let u := v.control k x
    t.context k = u.context k ∧ t.binding y.channel = u.binding y.channel ∧ (t.call c).context = (u.call c).context ∧
      t.events = u.events ∧ t.freeIndex = u.freeIndex

/-- A command or event for context `k` leaves it as record `y` and changes nothing outside some components; what `x` begins or
resumes then follows within the same event (R115, R121): `v` is the state in which it is taken. -/
def GoesOn (i : Instr) (cs : List Component) (s : State) (k : Nat) (e : EventUnit) (y : Context) (x : Control) : Prop :=
  ∃ t v, exec i s = .next t ∧ v.context k = y ∧ ContextsBut k s v ∧ v.events = e ∧ Changes cs s v ∧
    Changes [.passCount] (v.control k x) t

/-- As `GoesOn`, where a count of 0 is lowered: the model's free value `n` stands for the result (log 11), and the step ends,
leaving `y` for what follows, when it is 0; else the activity goes on as `again n`. -/
def GoesFreely (i : Instr) (cs : List Component) (s : State) (k : Nat) (y : Context) (again : Nat → Context) (x : Control) :
    Prop :=
  let n := (Config.loweredZero s.freeIndex).toNat
  ∃ t v, exec i s = .next t ∧ v.context k = (if n = 0 then y else again n) ∧ v.freeIndex = s.freeIndex + 1 ∧
    ContextsBut k s v ∧ Changes (.freeIndex :: cs) s v ∧ Changes [.passCount] (v.control k (if n = 0 then x else .done)) t

/-- Context `k` has ended by the Playout Engine's own stop (R12, R112), and a notice that names its call is posted. A FREE
context has the model's values (log 28). -/
structure ContextEnded (s t : State) (k : Nat) (cls : EventClass) (kind : EventKind) (detail : Nat) : Prop where
  context : t.context k =
    if (s.context k).inFlight then { s.context k with state := .draining, stack := [], buffer := [], timer := 0 }
    else { Context.cold with ticksTaken := (s.context k).ticksTaken }
  others : ContextsBut k s t
  bindings : ∀ b, t.binding b = if b = (s.context k).channel then none else s.binding b
  call : t.call (s.context k).call = { s.call (s.context k).call with context := none }
  calls : CallsBut (s.context k).call s t
  events : t.events = (s.post cls kind (some (s.context k).call) none none detail).events
  frame : Changes ([.calls, .contexts, .bindings] ++ posting) s t

/-- The segment of entry `b` of a header's eight, falling to the highest entry below it that holds one (R102, R103). -/
def EntryChosen (entries : List Nat) (b n : Nat) : Prop :=
  ∃ j, 1 ≤ j ∧ j ≤ b ∧ entries.getD (j - 1) 255 = n ∧ n ≠ 255 ∧ ∀ i, j < i → i ≤ b → entries.getD (i - 1) 255 = 255

/-- A call's place in line for a SAY step: its queue, and its position, which is 1 for an OFFERED call (R101, R103). -/
def InLine (s : State) (c q n : Nat) : Prop :=
  (s.call c).currentQueue = some q ∧
    ((s.call c).state = .queued ∧ n = (s.queue q).waiting.idxOf c + 1 ∨ (s.call c).state = .offered ∧ n = 1)

/-- The playout request of a call for program `p` on channel `ch`, and its answer `r` (R11, R110). Declined for no program,
a channel that is none or bound, or with no FREE context: nothing changes. Else the lowest-numbered FREE context takes it and
begins step 0; a first step that plays a DEFINED segment (R116) leaves it STARTING at that step. -/
structure PlayoutAsked (s t : State) (c p ch : Nat) (r : ResultCode) : Prop where
  declined : (64 ≤ p ∨ 2048 ≤ ch ∨ s.binding ch ≠ none ∨ ∀ k < 512, (s.context k).state ≠ .free) →
    r = .okNoPlayout ∧ (t.call c).context = (s.call c).context ∧ (∀ k, t.context k = s.context k) ∧
      (∀ b, t.binding b = s.binding b) ∧ t.events = s.events ∧ t.freeIndex = s.freeIndex
  started : ∀ k < 512, p < 64 → ch < 2048 → s.binding ch = none → (s.context k).state = .free →
    (∀ j < k, (s.context j).state ≠ .free) →
      r = .ok ∧ ContextsBut k s t ∧ (∀ b, b ≠ ch → t.binding b = s.binding b) ∧
        ∃ mark, ControlLeaves s t c k
          { Context.cold with
            state := .starting, call := c, channel := ch, program := p, timer := (s.program p).period, ticksTaken := mark }
          (.begin 0)
  played : ∀ k < 512, p < 64 → ch < 2048 → s.binding ch = none → (s.context k).state = .free →
    (∀ j < k, (s.context j).state ≠ .free) → ∀ g, (s.program p).steps.getD 0 {} = g → g.kind = .play →
      (s.segment g.arg).defined = true →
        (t.call c).context = some k ∧ t.binding ch = some k ∧ t.events = s.events ∧
          ∃ mark, t.context k =
            { Context.cold with
              state := .starting, call := c, channel := ch, program := p, activity := .step 0, step := g
              segment := s.segment g.arg, passes := g.count, timer := (s.program p).period, beginnings := 1
              ticksTaken := mark }

/-- What a playout request may change beside its call: contexts, bindings, and the notices of a step that ends or faults
at once. -/
def asking : List Component := [.contexts, .bindings, .freeIndex, .notices, .sequence, .summaries, .lost]

/-- The EWT of a call of a priority at the position it would take in a queue with the next seniority number, for `n` staffed
agents (R38, R39, R100). -/
def State.entryWait (s : State) (q priority n : Nat) : Nat :=
  let ahead := (s.queue q).waiting.filter fun d =>
    decide (priority < (s.call d).priority) ||
      ((s.call d).priority == priority && decide ((s.call d).seniority.toNat < s.seniority.toNat))
  let p := ahead.length + 1
  if n = 0 then 65535 else min ((p * (s.queue q).handle + 16 * n - 1) / (16 * n)) 65535

/-- A queue with `n` staffed agents passes an entering call on to its overflow target, by the entry check (R39). The call is
not in the queue's waiting list yet. -/
def PassesOn (s : State) (q c priority n : Nat) : Prop :=
  let g := (s.queue q).settings
  (g.mode = .ewt ∨ g.mode = .both) ∧ g.target ≠ 255 ∧ c ∉ (s.queue q).waiting ∧ g.threshold < s.entryWait q priority n ∧
    (s.queue g.target).state = .open ∧ (s.queue g.target).occupancy < (s.queue g.target).settings.capacity

/-- A queue with `n` staffed agents keeps an entering call (R39): it makes no entry check, has no target, expects a wait
within its threshold, or its target is not OPEN or has no room. -/
def KeepsEntering (s : State) (q c priority n : Nat) : Prop :=
  let g := (s.queue q).settings
  g.mode = .none ∨ g.mode = .time ∨ g.target = 255 ∨
    c ∉ (s.queue q).waiting ∧ s.entryWait q priority n ≤ g.threshold ∨
    (s.queue g.target).state ≠ .open ∨ (s.queue g.target).settings.capacity ≤ (s.queue g.target).occupancy

/-! ### Commands the intake hands over -/

/-- RESET is not asserted, and the intake's oldest entry is a whole command word of a kind with a code: the entry that
R150 hands over next. -/
structure Handed (s : State) (e : IntakeEntry) (kind : RecordKind) (code : Byte) : Prop where
  awake : s.path.resetAsserted = false
  oldest : s.intake.head? = some e
  kind : e.kind = kind
  commandWord : e.flagWord = false
  code : e.code = code
  whole : e.torn = false

/-- As `Handed`, with the part ACTIVE: what a record's unit executes (R150). -/
def Taken (s : State) (e : IntakeEntry) (kind : RecordKind) (code : Byte) : Prop :=
  Handed s e kind code ∧ s.part.state = .active

/-- The result field a command word leaves (R150). -/
def IntakeEntry.answer (e : IntakeEntry) (r : ResultCode) : CommandResult :=
  { code := e.code, token := e.token, result := r }

/-- A record whose command has been executed: its result written, one entry fewer pending (R148, R150). -/
def Call.done (x : Call) (r : CommandResult) : Call := { x with result := r, pendingCount := x.pendingCount - 1 }
def Agent.done (g : Agent) (r : CommandResult) : Agent := { g with result := r, pendingCount := g.pendingCount - 1 }
def Queue.done (q : Queue) (r : CommandResult) : Queue := { q with result := r, pendingCount := q.pendingCount - 1 }

/-- The oldest entry is gone and its record's result written; nothing else has changed. -/
def OnlyAnswered (s t : State) (e : IntakeEntry) (r : CommandResult) : Prop :=
  t.intake = s.intake.tail ∧
    match e.kind with
    | .call => t.call e.index = (s.call e.index).done r ∧ CallsBut e.index s t ∧ Changes [.intake, .calls, .passCount] s t
    | .agent =>
      t.agent e.index = (s.agent e.index).done r ∧ AgentsBut e.index s t ∧ Changes [.intake, .agents, .passCount] s t
    | .queue =>
      t.queue e.index = (s.queue e.index).done r ∧ QueuesBut e.index s t ∧ Changes [.intake, .queues, .passCount] s t
    | .part => t.part.result = r ∧ Changes [.intake, .partResult, .passCount] s t

/-- The rows of record commands: command, record kind and code (R168). FLAG_WRITE is not one: it has a word of its own. -/
def recordRows : List (Instr × RecordKind × Byte) :=
  [(.enqueue, .call, 1), (.abandon, .call, 2), (.answer, .call, 3), (.noAnswer, .call, 4), (.hold, .call, 5),
   (.resume, .call, 6), (.transfer, .call, 7), (.release, .call, 8), (.priority, .call, 9), (.announce, .call, 10),
   (.login, .agent, 1), (.ready, .agent, 2), (.notReady, .agent, 3), (.logout, .agent, 4), (.skills, .agent, 5),
   (.extendWrap, .agent, 6), (.openQueue, .queue, 1), (.closeQueue, .queue, 2), (.pauseQueue, .queue, 3),
   (.unpauseQueue, .queue, 4), (.applyQueue, .queue, 5), (.resetCounters, .queue, 6)]

/-- The rows of part commands: command, code, and the part states in which R151 answers NOT_ACTIVE. -/
def partRows : List (Instr × Byte × List PartState) :=
  [(.enable, 1, []), (.disable, 2, []), (.restart, 3, []), (.libraryApply, 4, [.pass, .loading]),
   (.eventPop, 5, [.loading]), (.summaryClear, 6, [.loading]), (.feedClear, 7, [.pass, .loading]),
   (.timebaseClear, 8, [.loading])]

/-- The live state is dropped: every unit but the feeds has the values its chapter gives for DISABLE (R6, R29, R49, R66,
R84, R95, R109, R151, R160). Results and pending counts are kept; the marks of the ticks taken are the model's own (log
4), and so are the values of a context that becomes FREE (log 28). -/
structure LiveDropped (s t : State) : Prop where
  calls : ∀ c, t.call c =
    { Call.cold with result := (s.call c).result, pendingCount := (s.call c).pendingCount }
  agents : ∀ a, t.agent a =
    { Agent.cold with
      result := (s.agent a).result, pendingCount := (s.agent a).pendingCount, ticksTaken := (s.agent a).ticksTaken }
  queues : ∀ q, t.queue q =
    { Queue.cold with
      result := (s.queue q).result, pendingCount := (s.queue q).pendingCount, ticksTaken := (s.queue q).ticksTaken }
  contexts : ∀ k, t.context k =
    if (s.context k).state = .starting ∨ (s.context k).state = .playing then
      (if (s.context k).inFlight then
        { s.context k with state := .draining, stack := [], buffer := [], timer := 0 }
      else { Context.cold with ticksTaken := (s.context k).ticksTaken })
    else s.context k
  bindings : ∀ b, t.binding b = none
  seniority : t.seniority = 0
  deadlines : t.deadlines = []
  samples : t.samples = []
  workList : t.engine.workList = []
  proposal : t.engine.proposal = none ∧ t.engine.reserved = false
  events : t.events.dispatch = [] ∧ t.events.notices = [] ∧ t.events.sequence = 0 ∧ t.events.shown = none

/-- The feeds are OFF: head and latched values stay (R135). -/
def FeedsOff (s t : State) : Prop :=
  ∀ f, t.feed f = { s.feed f with state := .off, lastWrite := 0, settleCount := 0, settling := false }

/-- What dropping the live state may change. -/
def liveState : List Component :=
  [.calls, .seniority, .deadlines, .queues, .samples, .agents, .workList, .proposal, .contexts, .bindings, .feeds,
   .dispatch, .notices, .sequence, .shown]

/-- The library staging is the active library, with the two values R114 brings into range. -/
def LibraryLatched (s t : State) : Prop :=
  let descriptor := fun n w => Table.read 0 s.staging.segments (4 * n + w)
  let stored := fun n => (descriptor n 1).toNat % 16777216
  let length := fun n => if stored n = 0 then 16777216 else stored n
  let loop := fun n => (descriptor n 2).toNat % 16777216
  let words := fun n => (List.range 64).map fun w => Table.read 0 s.staging.programs (64 * n + w)
  let high := fun n i =>
    byteField (words n) (64 + 12 * i) = 6 ∧ halfField (words n) (64 + 12 * i + 8) < halfField (words n) (64 + 12 * i + 10)
  (∀ n < 256, t.segment n =
    { start := descriptor n 0, length := length n, loopStart := if length n ≤ loop n then 0 else loop n
      defined := (descriptor n 1).getLsbD 24 }) ∧
  ∀ n < 64, (t.program n).period = halfField (words n) 0 ∧ (t.program n).interjectionStep = byteField (words n) 2 ∧
    (∀ b < 8, (t.program n).bands.getD b 255 = byteField (words n) (4 + b)) ∧
    (∀ j < 8, (t.program n).positions.getD j 255 = byteField (words n) (12 + j)) ∧
    ∀ i < 16, ∀ g, (t.program n).steps.getD i {} = g →
      g.kind = stepKindOf (byteField (words n) (64 + 12 * i)) ∧ g.arg = byteField (words n) (64 + 12 * i + 1) ∧
      g.feed = byteField (words n) (64 + 12 * i + 2) ∧ g.count = halfField (words n) (64 + 12 * i + 4) ∧
      g.period = halfField (words n) (64 + 12 * i + 8) ∧
      (high n i → g.on = g.period) ∧ (¬ high n i → g.on = halfField (words n) (64 + 12 * i + 10))

/-- A host-owned word of the configuration block or of a record (R167, R168). -/
def LoadWord.Owned (w : LoadWord) : Prop :=
  match w.table with
  | .config => w.index = 0 ∧ w.word < 64
  | .queue => w.index < 64 ∧ w.word < 16 ∧ w.word ≠ 8
  | .agent => w.index < 1024 ∧ w.word < 5
  | .call => w.index < 2048 ∧ w.word < 4

/-- A loading read of one to four host-owned words of one record (R153). -/
def LoadBurst.Within (b : LoadBurst) : Prop :=
  1 ≤ b.beats ∧ b.beats ≤ 4 ∧ ∀ k, b.first.word ≤ k → k < b.first.word + b.beats → { b.first with word := k }.Owned

/-- A word of a loading read as staging is left with it (R153; log 29): each lane has the data of the last write beat noted
for the word that enables the lane, and the data that arrived where none does. -/
def LoadBurst.Leaves (b : LoadBurst) (word : Nat) (arrived new : Word) : Prop :=
  ∀ i < 4, new.extractLsb' (8 * i) 8 =
    match (b.hostWrote.filter fun e => e.1 == word && e.2.enables.getLsbD i).getLast? with
    | some e => e.2.data.extractLsb' (8 * i) 8
    | none => arrived.extractLsb' (8 * i) 8

/-- The words of a loading read stand in staging, under the lanes the host wrote since its issue; every other word of
staging is unchanged (R152, R153). -/
def WordsLoaded (b : LoadBurst) (data : List Word) (s t : State) : Prop :=
  let stands := fun (table : LoadTable) (index word : Nat) (old new : Word) =>
    if b.first.table = table ∧ b.first.index = index ∧ b.first.word ≤ word ∧ word < b.first.word + data.length then
      b.Leaves word (data.getD (word - b.first.word) 0) new
    else new = old
  (∀ w, stands .config 0 w (Table.read 0 s.staging.config w) (Table.read 0 t.staging.config w)) ∧
    (∀ q, ∀ w < 32,
      stands .queue q w (Table.read 0 s.staging.queues (32 * q + w)) (Table.read 0 t.staging.queues (32 * q + w))) ∧
    (∀ a, ∀ w < 16,
      stands .agent a w (Table.read 0 s.staging.agents (16 * a + w)) (Table.read 0 t.staging.agents (16 * a + w))) ∧
    (∀ c, ∀ w < 16,
      stands .call c w (Table.read 0 s.staging.calls (16 * c + w)) (Table.read 0 t.staging.calls (16 * c + w))) ∧
    t.staging.segments = s.staging.segments ∧ t.staging.programs = s.staging.programs

/-! ### Beats -/

/-- The five rows that present a beat on the upstream port. The part tells them apart by the beat's address (log 19). -/
def presents (i : Instr) (b : Beat) : Prop :=
  (∃ w, b = .write w ∧ (i = .commandWordWrite w ∨ i = .stagingWrite w ∨ i = .feedCountedWrite w)) ∨
    ∃ r, b = .read r ∧ (i = .voiceRead r ∨ i = .eventWindowRead r)

/-- A word has a beat's data in its enabled lanes and, in the others, the lanes of another word. -/
def LanesWritten (old : Word) (b : WriteBeat) (new : Word) : Prop :=
  ∀ i < 4, new.extractLsb' (8 * i) 8 =
    if b.enables.getLsbD i = true then b.data.extractLsb' (8 * i) 8 else old.extractLsb' (8 * i) 8

/-- A beat is a counted write for a feed (R136). -/
def Feed.Counts (f : Feed) (b : WriteBeat) : Prop :=
  f.state ≠ .off ∧ b.tag = f.latched.tag ∧ f.latched.ringStart.toNat ≤ 4 * (b.address.toNat / 4) ∧
    4 * (b.address.toNat / 4) < f.latched.ringEnd.toNat ∧ b.enables ≠ 0

/-- The feeds after a write beat: those it is counted for have followed it, the others are unchanged. -/
def FeedsTracked (b : WriteBeat) (s t : State) : Prop :=
  t.feeds = (s.trackFeeds b).feeds

/-- The record an intake entry counts against has one entry more pending (R148). -/
def OneMorePending (kind : RecordKind) (id : Nat) (s t : State) : Prop :=
  match kind with
  | .call => t.call id = { s.call id with pendingCount := (s.call id).pendingCount + 1 } ∧ CallsBut id s t ∧
      t.agents = s.agents ∧ t.queues = s.queues
  | .agent => t.agent id = { s.agent id with pendingCount := (s.agent id).pendingCount + 1 } ∧ AgentsBut id s t ∧
      t.calls = s.calls ∧ t.queues = s.queues
  | .queue => t.queue id = { s.queue id with pendingCount := (s.queue id).pendingCount + 1 } ∧ QueuesBut id s t ∧
      t.calls = s.calls ∧ t.agents = s.agents
  | .part => t.calls = s.calls ∧ t.agents = s.agents ∧ t.queues = s.queues

/-- The entry a command word write makes (R148): torn when a lane is off, disabled lanes 0, and the record's host-owned
words as staging holds them. -/
def EntryMade (s : State) (kind : RecordKind) (id : Nat) (flag : Bool) (b : WriteBeat) (e : IntakeEntry) : Prop :=
  e.kind = kind ∧ e.index = id ∧ e.flagWord = flag ∧ LanesWritten 0 b e.word ∧ (e.torn = true ↔ b.enables ≠ 0xF) ∧
    e.snapshot =
      match kind with
      | .call => (List.range 4).map fun w => Table.read 0 s.staging.calls (16 * id + w)
      | .agent => (List.range 5).map fun w => Table.read 0 s.staging.agents (16 * id + w)
      | .queue => [0, 1, 2, 3, 4, 5, 6, 7, 9, 10, 11, 12, 13, 14, 15].map fun w => Table.read 0 s.staging.queues (32 * id + w)
      | .part => []

/-! ### Readers of a feed (R140, R141) -/

/-- A context at a moment it takes its next samples, on a FEED step of feed `i`: it runs, its fill is 8 or less, and no
fetch of its is in flight. -/
def Context.reads (x : Context) (i : Nat) : Prop :=
  (x.state = .starting ∨ x.state = .playing) ∧ x.inFlight = false ∧ x.buffer.length ≤ 8 ∧
    ∃ j, x.activity = .step j ∧ x.step.kind = .feed ∧ x.step.feed = i

/-- The place a joining reader takes in a feed's ring: the head minus the delay, round the ring (R141). -/
def Feed.joinPlace (f : Feed) : Word :=
  let size := f.latched.ringEnd.toNat - f.latched.ringStart.toNat
  f.latched.ringStart +
    BitVec.ofNat 32 ((f.head.toNat - f.latched.ringStart.toNat + size - f.latched.delay) % size)

/-- The readers of a feed that has become LIVE leave their fallback for the ring; every other context is unchanged. -/
def ReadersRejoin (i : Nat) (s t : State) : Prop :=
  ∀ k, ((s.context k).reads i → (s.context k).source ≠ .ring →
      t.context k = { s.context k with source := .ring, pointer := (s.feed i).joinPlace, position := 0 }) ∧
    (¬ (s.context k).reads i ∨ (s.context k).source = .ring → t.context k = s.context k)

/-- The readers on the ring of a feed that is lost go to their fallback from its sample 0, or to silence when it is not
DEFINED (R118); every other context is unchanged. -/
def ReadersFallBack (i : Nat) (s t : State) : Prop :=
  ∀ k, let x := s.context k
    (x.reads i → x.source = .ring → (s.segment x.step.arg).defined = true →
      t.context k =
        { x with
          source := .segment, segment := s.segment x.step.arg
          position := if 0 < (s.segment x.step.arg).length then 0 else (s.segment x.step.arg).loopStart }) ∧
    (x.reads i → x.source = .ring → (s.segment x.step.arg).defined = false →
      t.context k = { x with source := .silence, position := 0 }) ∧
    (¬ x.reads i ∨ x.source ≠ .ring → t.context k = x)

/-! ### Invariants -/

/-- Every sparse table is in its canonical form, so that equal tables are equal data. -/
def Canonical (s : State) : Prop :=
  Table.wf Call.cold s.calls = true ∧ Table.wf Queue.cold s.queues = true ∧ Table.wf Agent.cold s.agents = true
    ∧ Table.wf Feed.cold s.feeds = true ∧ Table.wf Context.cold s.playout.contexts = true
    ∧ Table.wf none s.playout.bindings = true ∧ Table.wf Segment.cold s.playout.segments = true
    ∧ Table.wf Program.cold s.playout.programs = true ∧ Table.wf 0 s.staging.calls = true
    ∧ Table.wf 0 s.staging.agents = true ∧ Table.wf 0 s.staging.queues = true ∧ Table.wf 0 s.staging.config = true
    ∧ Table.wf 0 s.staging.segments = true ∧ Table.wf 0 s.staging.programs = true

/-- The Time Base keeps its ranges: the frame counter is 0 to 799, the history has 8 entries, the silence count stops at 8
(R131, R132). -/
def ClockInRange (s : State) : Prop :=
  s.time.frames < Config.framesPerTick ∧ s.time.history.length = 8 ∧ s.time.silence ≤ 8

/-- The FIFOs keep their capacities (R148, R160), the reservation stands exactly while a proposal is in flight (R69), and
the dispatch queue leaves it an entry. -/
def WithinCapacity (s : State) : Prop :=
  s.intake.length ≤ Config.intakeDepth ∧ s.events.notices.length ≤ Config.noticeDepth
    ∧ s.events.dispatch.length + s.engine.reserved.toNat ≤ Config.dispatchDepth
    ∧ s.engine.reserved = s.engine.proposal.isSome ∧ s.events.sequence ≤ 65535

/-- The loading reads stay within the host-owned words of the records the part has (R153). -/
def LoadingInRange (s : State) : Prop :=
  (∀ w, s.part.cursor = some w → w.Owned) ∧ ∀ b, s.part.burst = some b → b.Within

/-- The work list holds no trigger twice (R66). -/
def WorkListDistinct (s : State) : Prop := s.engine.workList.Nodup

/-- Active skill lists name no queue twice (R51). -/
def SkillsDistinct (s : State) : Prop := ∀ a, duplicateSkill (s.agent a).skills = false

/-- A request of the part's own stands that can be served (R126, R153, R155): a loading read to be made with none outstanding,
or a context's fetch request with no burst outstanding. -/
def OwnServable (s : State) : Prop :=
  s.part.state = .loading ∧ s.part.burst = none ∧ s.part.cursor ≠ none ∨
    s.playout.fetch = none ∧ ∃ e ∈ s.playout.contexts, s.requests e.2 = true

/-- The count of consecutive pass-through beats is 0 while the part's own side has no servable request (R127, R155). -/
def PassCountRests (s : State) : Prop := ¬ OwnServable s → s.path.passCount = 0

end Sys2Proof.Machine
end

