-- ==== Sys2Proof/WellFormed.lean ====
section
/-! DEFINITION. Which commands can come to the part at all: record numbers it has, word addresses, burst sizes. -/

namespace Sys2Proof

/-- A beat is one 32-bit transfer, so its address is that of a word (00_scope "beat"). -/
def wordAligned (address : Word) : Bool := address.toNat % 4 == 0

/-- A loading burst is of one to four beats (R153). -/
def burstSize (n : Nat) : Bool := decide (1 ≤ n) && decide (n ≤ 4)

/-- The well-formed commands. -/
def WellFormed : Instr → Bool
  | .commandWordWrite b => wordAligned b.address
  | .stagingWrite b => wordAligned b.address
  | .feedCountedWrite b => wordAligned b.address
  | .voiceRead b => wordAligned b.address
  | .eventWindowRead b => wordAligned b.address
  | .agentTick a => decide (a < Config.numAgents)
  | .wrapCountdownEnd a => decide (a < Config.numAgents)
  | .ewtRepublish q => decide (q < Config.numQueues)
  | .generatedGroup c => decide (c < Config.numContexts)
  | .interjectionTick c => decide (c < Config.numContexts)
  | .interjection c => decide (c < Config.numContexts)
  | .feedArmingTick f => decide (f < Config.numFeeds)
  | .armingRestart f => decide (f < Config.numFeeds)
  | .feedArmed f => decide (f < Config.numFeeds)
  | .feedMissing f => decide (f < Config.numFeeds)
  | .configReadDone d => burstSize d.length
  | .loadingReadGrant n => burstSize n
  | .loadingReadDone d => burstSize d.length
  | .enqueue | .abandon | .answer | .noAnswer | .hold | .resume | .transfer | .release | .priority | .announce => true
  | .login | .ready | .notReady | .logout | .skills | .extendWrap | .flagWrite => true
  | .openQueue | .closeQueue | .pauseQueue | .unpauseQueue | .applyQueue | .resetCounters => true
  | .enable | .disable | .restart | .libraryApply | .eventPop | .summaryClear | .feedClear | .timebaseClear => true
  | .unknownCommand | .heldCommandBeat => true
  | .fsyncPulse _ | .referencePeriodEnd | .timebaseSubst | .tick => true
  | .offerExpiry | .maxWaitDue | .overflowDue | .handleTimeSample _ => true
  | .agentTrigger | .callTrigger | .queueTrigger | .commit => true
  | .fetchGrant | .burstArrival _ _ | .fetchError => true
  | .loadFault | .reset | .resetRelease _ | .passThroughBeatGrant => true

end Sys2Proof
end

