-- ==== Sys2Proof/Certificates/Slice0/Obligations.lean ====
section
/-! DEFINITION. The statements for the provers, from the numbered rules of spec/. A statement about a command says that it
answers a next state, what that state holds, and what it leaves as it was. -/

open Sys2Proof Sys2Proof.Machine

/-! ### Queue commands (02) -/

/-- The settings of a snapshot (R28, R168): none exactly when a field is out of R28's table, else the fields at the places
of the queue record. OPEN of a queue that is not OPEN, and APPLY of one that is not IDLE, with valid settings (R28, R31,
R34): the clamped settings are latched, an upper limit of 0 returns the alarm to NORMAL, OPEN from IDLE starts H at 16 times
the seed; with a field out of range nothing is latched. The queue's own tick mark (log 4) may move on at OPEN from IDLE.
OPEN of an OPEN queue, and APPLY, CLOSE, PAUSE and UNPAUSE of an IDLE one, are answered WRONG_STATE and change nothing else
(R30). CLOSE, PAUSE and UNPAUSE of a queue that is not IDLE (R32, R33). UNPAUSE that clears a set flag adds a queue trigger,
unless the work list has it already (R66); one of a queue not paused adds none. -/
def Obligations.QueueCommandsSetStateAndSettings : Prop :=
  ((∀ (q : Nat) (ws : List Word),
     let program := fun p : Nat => p < 64 ∨ p = 255
     let target := byteField ws 0x07
     let inRange : Prop :=
       1 ≤ halfField ws 0x00 ∧ halfField ws 0x00 ≤ 2048 ∧ byteField ws 0x02 ≤ 7 ∧ byteField ws 0x03 ≤ 7 ∧
         program (byteField ws 0x04) ∧ program (byteField ws 0x05) ∧ byteField ws 0x06 ≤ 3 ∧
         (target < 64 ∧ target ≠ q ∨ target = 255)
     (queueSettings q ws = none ↔ ¬ inRange) ∧
     ∀ mode, (byteField ws 0x06, mode) ∈ [(0, OverflowMode.none), (1, .time), (2, .ewt), (3, .both)] → inRange →
       queueSettings q ws =
         some
           { capacity := halfField ws 0x00, arbitration := byteField ws 0x02, shift := byteField ws 0x03
             queueProgram := byteField ws 0x04, holdProgram := byteField ws 0x05, mode := mode, target := target
             offerTimeout := halfField ws 0x08, overflowAfter := halfField ws 0x0A, threshold := halfField ws 0x0C
             maxWait := halfField ws 0x0E, wrapLength := halfField ws 0x10, serviceLevel := halfField ws 0x12
             seed := halfField ws 0x14, upper := halfField ws 0x18, lower := halfField ws 0x1A }) ∧
   ∀ (s : State) (e : IntakeEntry),
     (Taken s e .queue 1 → (s.queue e.index).state ≠ .open →
       ∀ g, queueSettings e.index e.snapshot = some g →
         ∃ t mark, exec .openQueue s = .next t ∧
           t.queue e.index =
             { s.queue e.index with
               state := .open
               settings :=
                 { g with
                   capacity := max g.capacity (s.queue e.index).occupancy
                   lower := if g.upper ≠ 0 ∧ g.upper ≤ g.lower then g.upper - 1 else g.lower }
               alarm := if g.upper = 0 then .normal else (s.queue e.index).alarm
               handle := if (s.queue e.index).state = .idle then 16 * g.seed else (s.queue e.index).handle
               ticksTaken := mark
               result := e.answer
                 (if g.capacity < (s.queue e.index).occupancy ∨ (g.upper ≠ 0 ∧ g.upper ≤ g.lower) then .okClamped else .ok)
               pendingCount := (s.queue e.index).pendingCount - 1 } ∧
           t.intake = s.intake.tail ∧ QueuesBut e.index s t ∧ Changes [.intake, .queues, .passCount] s t) ∧
     (Taken s e .queue 5 → (s.queue e.index).state ≠ .idle →
       ∀ g, queueSettings e.index e.snapshot = some g →
         ∃ t, exec .applyQueue s = .next t ∧
           t.queue e.index =
             { s.queue e.index with
               settings :=
                 { g with
                   capacity := max g.capacity (s.queue e.index).occupancy
                   lower := if g.upper ≠ 0 ∧ g.upper ≤ g.lower then g.upper - 1 else g.lower }
               alarm := if g.upper = 0 then .normal else (s.queue e.index).alarm
               result := e.answer
                 (if g.capacity < (s.queue e.index).occupancy ∨ (g.upper ≠ 0 ∧ g.upper ≤ g.lower) then .okClamped else .ok)
               pendingCount := (s.queue e.index).pendingCount - 1 } ∧
           t.intake = s.intake.tail ∧ QueuesBut e.index s t ∧ Changes [.intake, .queues, .passCount] s t) ∧
     (Taken s e .queue 1 → (s.queue e.index).state ≠ .open → queueSettings e.index e.snapshot = none →
       ∃ t, exec .openQueue s = .next t ∧ OnlyAnswered s t e (e.answer .badField)) ∧
     (Taken s e .queue 5 → (s.queue e.index).state ≠ .idle → queueSettings e.index e.snapshot = none →
       ∃ t, exec .applyQueue s = .next t ∧ OnlyAnswered s t e (e.answer .badField)) ∧
     (Taken s e .queue 1 → (s.queue e.index).state = .open →
       ∃ t, exec .openQueue s = .next t ∧ OnlyAnswered s t e (e.answer .wrongState)) ∧
     (∀ i code, (i, code) ∈ [(Instr.closeQueue, 2), (.pauseQueue, 3), (.unpauseQueue, 4), (.applyQueue, (5 : Byte))] →
       Taken s e .queue code → (s.queue e.index).state = .idle →
         ∃ t, exec i s = .next t ∧ OnlyAnswered s t e (e.answer .wrongState))) ∧
  (∀ (s : State) (e : IntakeEntry), (s.queue e.index).state ≠ .idle →
     (Taken s e .queue 2 →
       ∃ t, exec .closeQueue s = .next t ∧
         t.queue e.index = { (s.queue e.index).done (e.answer .ok) with state := .closed } ∧
         t.intake = s.intake.tail ∧ QueuesBut e.index s t ∧ Changes [.intake, .queues, .passCount] s t) ∧
     (Taken s e .queue 3 →
       ∃ t, exec .pauseQueue s = .next t ∧
         t.queue e.index = { (s.queue e.index).done (e.answer .ok) with paused := true } ∧
         t.intake = s.intake.tail ∧ QueuesBut e.index s t ∧ Changes [.intake, .queues, .passCount] s t) ∧
     (Taken s e .queue 4 →
       ∃ t, exec .unpauseQueue s = .next t ∧
         t.queue e.index = { (s.queue e.index).done (e.answer .ok) with paused := false } ∧
         t.engine.workList =
           (if (s.queue e.index).paused = true ∧ Trigger.queue e.index ∉ s.engine.workList then
             s.engine.workList ++ [.queue e.index] else s.engine.workList) ∧
         t.intake = s.intake.tail ∧ QueuesBut e.index s t ∧ Changes [.intake, .queues, .workList, .passCount] s t))

/-- RESET_COUNTERS in any state (R30, R35). -/
def Obligations.ResetCountersStartsANewPeriod : Prop :=
  ∀ (s : State) (e : IntakeEntry), Taken s e .queue 6 →
    ∃ t, exec .resetCounters s = .next t ∧
      t.queue e.index =
        { (s.queue e.index).done (e.answer .ok) with
          entered := BitVec.ofNat 32 (s.queue e.index).occupancy
          answered := 0, answeredInSl := 0, abandoned := 0, overflowedOut := 0 } ∧
      t.intake = s.intake.tail ∧ QueuesBut e.index s t ∧ Changes [.intake, .queues, .passCount] s t

/-! ### Agent commands (03, 05) -/

/-- LOGIN of a LOGGED_OUT agent whose skill entries pass (R51, R52), and the same answered with the validation's result
otherwise. The agent's own tick mark (log 4) may move on. In every other state LOGIN is answered WRONG_STATE (R50). What the
validation of LOGIN and SKILLS answers (R51): BAD_FIELD across all eight entries, then DUPLICATE_SKILL; an entry with level
0 is empty. -/
def Obligations.LoginValidatesAndSignsIn : Prop :=
  (∀ (s : State) (e : IntakeEntry), Taken s e .agent 1 →
     ((s.agent e.index).state = .loggedOut → skillError e.snapshot = none →
       ∃ t mark, exec .login s = .next t ∧
         t.agent e.index =
           { (s.agent e.index).done (e.answer .ok) with
             state := .notReady, stateEntry := s.tick
             skills := agentSkills e.snapshot, wrapLength := agentWrapLength e.snapshot
             talk := 0, wrap := 0, availableTime := 0, notReadyTime := 0, callsHandled := 0, ticksTaken := mark } ∧
         (∀ q, t.queue q = s.queue q) ∧
         t.intake = s.intake.tail ∧ AgentsBut e.index s t ∧ Changes [.intake, .agents, .queues, .passCount] s t) ∧
     ((s.agent e.index).state = .loggedOut →
       ∀ r, skillError e.snapshot = some r → ∃ t, exec .login s = .next t ∧ OnlyAnswered s t e (e.answer r)) ∧
     ((s.agent e.index).state ≠ .loggedOut → ∃ t, exec .login s = .next t ∧ OnlyAnswered s t e (e.answer .wrongState))) ∧
  (∀ ws : List Word,
     let level := fun i => byteField ws (2 * i + 1)
     let queue := fun i => byteField ws (2 * i)
     (skillError ws = some .badField ↔ ∃ i < 8, level i ≠ 0 ∧ (63 < queue i ∨ 15 < level i)) ∧
     (skillError ws = some .duplicateSkill ↔
       (∀ i < 8, level i ≠ 0 → queue i ≤ 63 ∧ level i ≤ 15) ∧
         ∃ i j, i < j ∧ j < 8 ∧ level i ≠ 0 ∧ level j ≠ 0 ∧ queue i = queue j) ∧
     (∀ r, skillError ws = some r → r = .badField ∨ r = .duplicateSkill) ∧
     (∀ k, k ∈ agentSkills ws ↔ ∃ i < 8, level i ≠ 0 ∧ k = { queue := queue i, level := level i }))

/-- READY by the agent's state (R53): NOT_READY without the mark goes to AVAILABLE with its head counts and an agent
trigger, with the mark is answered MARKED; AVAILABLE and BUSY stay. READY in WRAP_UP ends the wrap-up at once (R88, R91):
LOGGED_OUT with PEND_LOGOUT set, else AVAILABLE; both pending flags are used, the sample goes to the agent's last queue and
WRAP_END is posted (R93, R94). That the held answer tick is 0 afterwards is the model's choice (log 35). -/
def Obligations.ReadyMakesAvailableOrEndsWrapUp : Prop :=
  (∀ (s : State) (e : IntakeEntry), Taken s e .agent 2 →
     ((s.agent e.index).state = .notReady → (s.agent e.index).flags.rnaMark = false →
       duplicateSkill (s.agent e.index).skills = false →
       ∃ t, exec .ready s = .next t ∧
         t.agent e.index =
           { (s.agent e.index).done (e.answer .ok) with
             state := .available, stateEntry := s.tick
             flags := { (s.agent e.index).flags with pendNotReady := false } } ∧
         (∀ q, t.queue q =
           if (s.agent e.index).names q then
             { s.queue q with staffed := (s.queue q).staffed + 1, available := (s.queue q).available + 1 }
           else s.queue q) ∧
         t.engine.workList = withTrigger s.engine.workList (.agent e.index) ∧
         t.intake = s.intake.tail ∧ AgentsBut e.index s t ∧
         Changes [.intake, .agents, .queues, .workList, .passCount] s t) ∧
     ((s.agent e.index).state = .notReady → (s.agent e.index).flags.rnaMark = true →
       ∃ t, exec .ready s = .next t ∧ OnlyAnswered s t e (e.answer .marked)) ∧
     ((s.agent e.index).state = .available → ∃ t, exec .ready s = .next t ∧ OnlyAnswered s t e (e.answer .ok)) ∧
     ((s.agent e.index).state = .busy →
       ∃ t, exec .ready s = .next t ∧
         t.agent e.index =
           { (s.agent e.index).done (e.answer .ok) with
             flags := { (s.agent e.index).flags with pendNotReady := false } } ∧
         t.intake = s.intake.tail ∧ AgentsBut e.index s t ∧ Changes [.intake, .agents, .passCount] s t) ∧
     ((s.agent e.index).state = .loggedOut ∨ (s.agent e.index).state = .offered →
       ∃ t, exec .ready s = .next t ∧ OnlyAnswered s t e (e.answer .wrongState))) ∧
  (∀ (s : State) (e : IntakeEntry) (q : Nat), Taken s e .agent 2 → (s.agent e.index).state = .wrapUp →
     (s.agent e.index).lastQueue = some q → duplicateSkill (s.agent e.index).skills = false →
     let g := s.agent e.index
     let n := min (s.tick - g.heldAnswer).toNat 65535
     ∃ t, exec .ready s = .next t ∧
       t.agent e.index =
         { g.done (e.answer .ok) with
           state := if g.flags.pendLogout then .loggedOut else .available
           stateEntry := s.tick, wrapRemaining := 0, heldAnswer := 0
           flags := { g.flags with pendNotReady := false, pendLogout := false } } ∧
       (∀ r, t.queue r =
         if g.names r then
           (if g.flags.pendLogout then { s.queue r with staffed := (s.queue r).staffed - 1 }
             else { s.queue r with available := (s.queue r).available + 1 })
         else s.queue r) ∧
       t.engine.workList =
         (if g.flags.pendLogout then s.engine.workList else withTrigger s.engine.workList (.agent e.index)) ∧
       t.samples = s.samples ++ [{ queue := q, ticks := n }] ∧
       t.events = (s.post .agent .wrapEnd none (some e.index) (some q) n).events ∧
       t.intake = s.intake.tail ∧ AgentsBut e.index s t ∧
       Changes ([.intake, .agents, .queues, .workList, .samples, .passCount] ++ posting) s t)

/-- NOT_READY and LOGOUT of an agent not OFFERED (R54, R55). NOT_READY and LOGOUT of an OFFERED agent withdraw the offer
(R56, R77, R81): the call goes back into its queue's waiting list at the place its keys give, its slots are armed again, and
the agent leaves with N lowered. That an unchanged deadline entry keeps its place is the model's reading (log 34). -/
def Obligations.NotReadyAndLogoutLeaveEveryState : Prop :=
  (∀ (s : State) (e : IntakeEntry) (i : Instr) (out : AgentState),
     (i = .notReady ∧ Taken s e .agent 3 ∧ out = .notReady ∨ i = .logout ∧ Taken s e .agent 4 ∧ out = .loggedOut) →
     ((s.agent e.index).state = .available → duplicateSkill (s.agent e.index).skills = false →
       ∃ t, exec i s = .next t ∧
         t.agent e.index = { (s.agent e.index).done (e.answer .ok) with state := out, stateEntry := s.tick } ∧
         (∀ q, t.queue q =
           if (s.agent e.index).names q then
             { s.queue q with staffed := (s.queue q).staffed - 1, available := (s.queue q).available - 1 }
           else s.queue q) ∧
         t.intake = s.intake.tail ∧ AgentsBut e.index s t ∧ Changes [.intake, .agents, .queues, .passCount] s t) ∧
     ((s.agent e.index).state = .busy ∨ (s.agent e.index).state = .wrapUp →
       ∃ t, exec i s = .next t ∧
         t.agent e.index =
           { (s.agent e.index).done (e.answer .okPending) with
             flags :=
               { (s.agent e.index).flags with
                 pendNotReady := (s.agent e.index).flags.pendNotReady || decide (out = .notReady)
                 pendLogout := (s.agent e.index).flags.pendLogout || decide (out = .loggedOut) } } ∧
         t.intake = s.intake.tail ∧ AgentsBut e.index s t ∧ Changes [.intake, .agents, .passCount] s t) ∧
     ((s.agent e.index).state = .notReady → out = .loggedOut →
       ∃ t, exec i s = .next t ∧
         t.agent e.index = { (s.agent e.index).done (e.answer .ok) with state := .loggedOut, stateEntry := s.tick } ∧
         (∀ q, t.queue q = s.queue q) ∧
         t.intake = s.intake.tail ∧ AgentsBut e.index s t ∧ Changes [.intake, .agents, .queues, .passCount] s t) ∧
     ((s.agent e.index).state = out → ∃ t, exec i s = .next t ∧ OnlyAnswered s t e (e.answer .ok)) ∧
     ((s.agent e.index).state = .loggedOut → out = .notReady →
       ∃ t, exec i s = .next t ∧ OnlyAnswered s t e (e.answer .wrongState))) ∧
  (∀ (s : State) (e : IntakeEntry) (i : Instr) (out : AgentState) (detail c q : Nat),
     (i = .notReady ∧ Taken s e .agent 3 ∧ out = .notReady ∧ detail = 2 ∨
       i = .logout ∧ Taken s e .agent 4 ∧ out = .loggedOut ∧ detail = 3) →
     (s.agent e.index).state = .offered → (s.agent e.index).currentCall = some c → (s.call c).currentQueue = some q →
     duplicateSkill (s.agent e.index).skills = false →
     ∃ t, exec i s = .next t ∧
       t.agent e.index =
         { (s.agent e.index).done (e.answer .ok) with state := out, stateEntry := s.tick, currentCall := none } ∧
       t.call c =
         { s.call c with
           state := .queued, agent := none, lastEnd := .withdrawn, offerExpiry := none
           overflowDue := (s.call c).overflowDue.map fun d => if (s.tick - d).toNat < 2 ^ 31 then s.tick + 1 else d
           maxWaitDue := (s.call c).maxWaitDue.map fun d => if (s.tick - d).toNat < 2 ^ 31 then s.tick + 1 else d } ∧
       (∀ r, t.queue r =
         { s.queue r with
           waiting := if r = q then s.insertByKeys c (s.queue q).waiting else (s.queue r).waiting
           staffed := if (s.agent e.index).names r then (s.queue r).staffed - 1 else (s.queue r).staffed }) ∧
       EntryFollows c s t ∧
       t.engine.workList = withTrigger s.engine.workList (.call c) ∧
       t.events = (s.post .dispatch .offerWithdrawn (some c) (some e.index) (some q) detail).events ∧
       t.intake = s.intake.tail ∧ AgentsBut e.index s t ∧ CallsBut c s t ∧
       Changes ([.intake, .agents, .calls, .queues, .deadlines, .workList, .passCount] ++ posting) s t)

/-- SKILLS in any state (R57, R63): the head counts of a staffed agent follow the difference of the lists, and an AVAILABLE
agent is triggered. -/
def Obligations.SkillsReplaceTheActiveList : Prop :=
  ∀ (s : State) (e : IntakeEntry), Taken s e .agent 5 →
    (skillError e.snapshot = none → duplicateSkill (s.agent e.index).skills = false →
      let g := s.agent e.index
      let named := fun q => (agentSkills e.snapshot).any fun k => k.queue == q
      let staffed := g.state ≠ .loggedOut ∧ g.state ≠ .notReady
      ∃ t, exec .skills s = .next t ∧
        t.agent e.index =
          { g.done (e.answer .ok) with
            skills := agentSkills e.snapshot, wrapLength := agentWrapLength e.snapshot } ∧
        (∀ q, t.queue q =
          { s.queue q with
            staffed :=
              if staffed ∧ g.names q = true ∧ named q = false then (s.queue q).staffed - 1
              else if staffed ∧ g.names q = false ∧ named q = true then (s.queue q).staffed + 1
              else (s.queue q).staffed
            available :=
              if g.state = .available ∧ g.names q = true ∧ named q = false then (s.queue q).available - 1
              else if g.state = .available ∧ g.names q = false ∧ named q = true then (s.queue q).available + 1
              else (s.queue q).available }) ∧
        t.engine.workList =
          (if g.state = .available then withTrigger s.engine.workList (.agent e.index) else s.engine.workList) ∧
        t.intake = s.intake.tail ∧ AgentsBut e.index s t ∧
        Changes [.intake, .agents, .queues, .workList, .passCount] s t) ∧
    (∀ r, skillError e.snapshot = some r → ∃ t, exec .skills s = .next t ∧ OnlyAnswered s t e (e.answer r))

/-- EXTEND_WRAP (R89): in WRAP_UP the sum of wrap remaining and the extension, held to the wrap ceiling; WRONG_STATE in
every other state. -/
def Obligations.ExtendWrapLengthensARunningWrapUp : Prop :=
  ∀ (s : State) (e : IntakeEntry), Taken s e .agent 6 →
    ((s.agent e.index).state = .wrapUp →
      let sum := (s.agent e.index).wrapRemaining + agentExtension e.snapshot
      ∃ t, exec .extendWrap s = .next t ∧
        t.agent e.index =
          { (s.agent e.index).done (e.answer (if sum ≤ s.part.config.wrapCeiling then .ok else .okClamped)) with
            wrapRemaining := if sum ≤ s.part.config.wrapCeiling then sum else s.part.config.wrapCeiling } ∧
        t.intake = s.intake.tail ∧ AgentsBut e.index s t ∧ Changes [.intake, .agents, .passCount] s t) ∧
    ((s.agent e.index).state ≠ .wrapUp →
      ∃ t, exec .extendWrap s = .next t ∧ OnlyAnswered s t e (e.answer .wrongState)) ∧
    agentExtension e.snapshot ≤ 65535

/-- A flag write, in any state (R59, R168): the low half asks to clear, the high half to set, bit by bit; a request at a
position that names no flag, or to set RNA_MARK, gives BAD_FIELD. -/
def Obligations.FlagWriteActsByItsRequests : Prop :=
  ∀ (s : State) (e : IntakeEntry),
    s.path.resetAsserted = false → s.intake.head? = some e → e.kind = .agent → e.flagWord = true → e.torn = false →
    s.part.state = .active →
    let after := fun (old : Bool) (n : Nat) =>
      match e.word.getLsbD (16 + n), e.word.getLsbD n with
      | false, false => old
      | true, false => true
      | false, true => false
      | true, true => old
    ((∀ n, (4 ≤ n ∧ n < 16 ∨ 19 ≤ n ∧ n < 32) → e.word.getLsbD n = false) →
      ∃ t, exec .flagWrite s = .next t ∧
        t.agent e.index =
          { (s.agent e.index).done { code := 0x80, token := 0, result := .ok } with
            flags :=
              { autoReady := after (s.agent e.index).flags.autoReady 0
                pendNotReady := after (s.agent e.index).flags.pendNotReady 1
                pendLogout := after (s.agent e.index).flags.pendLogout 2
                rnaMark := after (s.agent e.index).flags.rnaMark 3 } } ∧
        t.intake = s.intake.tail ∧ AgentsBut e.index s t ∧ Changes [.intake, .agents, .passCount] s t) ∧
    ((∃ n, (4 ≤ n ∧ n < 16 ∨ 19 ≤ n ∧ n < 32) ∧ e.word.getLsbD n = true) →
      ∃ t, exec .flagWrite s = .next t ∧ OnlyAnswered s t e { code := 0x80, token := 0, result := .badField })

/-! ### Call commands (01, 04) -/

/-- ENQUEUE of a FREE call (R3, R8 to R10, R37): priority 0 to 15, queue program 0 to 63 or 255, a queue of the part that is
OPEN, has room and keeps the call (R39). The call takes the next seniority number and stands QUEUED at the place its keys
give, its deadlines armed (R22), and its playout is asked for (R11): the answer is OK or OK_NO_PLAYOUT as `PlayoutAsked`
says. That an unchanged deadline entry keeps its place is the model's reading (log 34). -/
def Obligations.EnqueuePlacesANewCaller : Prop :=
  ∀ (s : State) (e : IntakeEntry) (q : Nat), Taken s e .call 1 → (s.call e.index).state = .free →
    callPriority e.snapshot ≤ 15 → (callQueueProgram e.snapshot < 64 ∨ callQueueProgram e.snapshot = 255) →
    callTarget e.snapshot = q → q < 64 → (s.queue q).state = .open → (s.queue q).occupancy < (s.queue q).settings.capacity →
    KeepsEntering s q e.index (callPriority e.snapshot) (s.queue q).staffed →
    let g := (s.queue q).settings
    let p := if callQueueProgram e.snapshot = 255 then g.queueProgram else callQueueProgram e.snapshot
    ∃ t r, exec .enqueue s = .next t ∧
      t.call e.index =
        { (s.call e.index).done (e.answer r) with
          state := .queued, currentQueue := some q, hops := 0, attempts := 0, underruns := 0, answerTick := 0
          lastEnd := .none, firstEntry := s.tick, queueEntry := s.tick, seniority := s.seniority
          priority := callPriority e.snapshot, targetQueue := q, queueProgram := callQueueProgram e.snapshot
          channel := callChannel e.snapshot, context := (t.call e.index).context
          offerExpiry := none
          overflowDue :=
            if (g.mode = .time ∨ g.mode = .both) ∧ g.overflowAfter ≠ 0 ∧ g.target ≠ 255 then
              some (s.tick + BitVec.ofNat 32 g.overflowAfter) else none
          maxWaitDue := if g.maxWait ≠ 0 then some (s.tick + BitVec.ofNat 32 g.maxWait) else none } ∧
      t.queue q =
        { s.queue q with
          entered := (s.queue q).entered + 1, occupancy := (s.queue q).occupancy + 1
          waiting := t.insertByKeys e.index (s.queue q).waiting } ∧
      t.seniority = s.seniority + 1 ∧ EntryFollows e.index s t ∧
      t.engine.workList = withTrigger s.engine.workList (.call e.index) ∧
      PlayoutAsked s t e.index p (callChannel e.snapshot) r ∧
      t.intake = s.intake.tail ∧ CallsBut e.index s t ∧ QueuesBut q s t ∧
      Changes ([.intake, .calls, .queues, .seniority, .deadlines, .workList, .passCount] ++ asking) s t

/-- A new caller carried on at entry (R39, R40): the named queue passes the call on to a target that keeps it, and the call
lands there with one hop. The named queue counts it entered and overflowed out, the landing queue entered and present. Every
accepted ENQUEUE and TRANSFER, whatever its overflow and playout, lands the call in one queue after at most three hops, and
keeps every queue's balance of counters and occupancy (R39, R40, R44). -/
def Obligations.EntryOverflowKeepsTheBalance : Prop :=
  (∀ (s : State) (e : IntakeEntry) (q r : Nat), Taken s e .call 1 → (s.call e.index).state = .free →
     callPriority e.snapshot ≤ 15 → (callQueueProgram e.snapshot < 64 ∨ callQueueProgram e.snapshot = 255) →
     callTarget e.snapshot = q → q < 64 → (s.queue q).state = .open → (s.queue q).occupancy < (s.queue q).settings.capacity →
     (s.queue q).settings.target = r → r ≠ q → PassesOn s q e.index (callPriority e.snapshot) (s.queue q).staffed →
     KeepsEntering s r e.index (callPriority e.snapshot) (s.queue r).staffed →
     let p := if callQueueProgram e.snapshot = 255 then (s.queue r).settings.queueProgram else callQueueProgram e.snapshot
     ∃ t x, exec .enqueue s = .next t ∧
       (t.call e.index).state = .queued ∧ (t.call e.index).currentQueue = some r ∧ (t.call e.index).hops = 1 ∧
       (t.call e.index).seniority = s.seniority ∧ (t.call e.index).result = e.answer x ∧
       t.queue q =
         { s.queue q with
           entered := (s.queue q).entered + 1, overflowedOut := (s.queue q).overflowedOut + 1 } ∧
       t.queue r =
         { s.queue r with
           entered := (s.queue r).entered + 1, occupancy := (s.queue r).occupancy + 1
           waiting := t.insertByKeys e.index (s.queue r).waiting } ∧
       (∀ p, p ≠ q → p ≠ r → t.queue p = s.queue p) ∧ PlayoutAsked s t e.index p (callChannel e.snapshot) x ∧
       CallsBut e.index s t ∧
       Changes ([.intake, .calls, .queues, .seniority, .deadlines, .workList, .passCount] ++ asking) s t) ∧
  (∀ (s : State) (e : IntakeEntry) (i : Instr),
     (i = .enqueue ∧ Taken s e .call 1 ∧ (s.call e.index).state = .free ∨
       i = .transfer ∧ Taken s e .call 7 ∧
         ((s.call e.index).state = .connected ∨ (s.call e.index).state = .agentHold) ∧
         ∀ a, (s.call e.index).agent = some a → duplicateSkill (s.agent a).skills = false) →
     s.entryError e.snapshot = none →
     ∃ t q, exec i s = .next t ∧
       (t.call e.index).state = .queued ∧ (t.call e.index).currentQueue = some q ∧ (t.call e.index).hops ≤ 3 ∧
       ((t.call e.index).result = e.answer .ok ∨ (t.call e.index).result = e.answer .okNoPlayout) ∧
       (∀ r, (t.queue r).occupancy = (s.queue r).occupancy + if r = q then 1 else 0) ∧
       (∀ r, (t.queue r).entered - (t.queue r).overflowedOut =
         (s.queue r).entered - (s.queue r).overflowedOut + if r = q then 1 else 0) ∧
       (∀ r, (t.queue r).answered = (s.queue r).answered ∧ (t.queue r).abandoned = (s.queue r).abandoned) ∧
       e.index ∈ (t.queue q).waiting ∧
       (∀ r, r ≠ q → (t.queue r).waiting = (s.queue r).waiting))

/-- ABANDON of a QUEUED call (R13). ABANDON of an OFFERED call withdraws the offer (R14, R81): the agent is AVAILABLE again,
last in the idle order. -/
def Obligations.AbandonFreesTheCall : Prop :=
  (∀ (s : State) (e : IntakeEntry) (q : Nat), Taken s e .call 2 → (s.call e.index).state = .queued →
     (s.call e.index).currentQueue = some q →
     ∃ t, exec .abandon s = .next t ∧
       t.call e.index =
         { (s.call e.index).done (e.answer .ok) with
           state := .free, agent := none, currentQueue := none, context := none
           offerExpiry := none, overflowDue := none, maxWaitDue := none } ∧
       t.queue q =
         { s.queue q with
           waiting := (s.queue q).waiting.filter (· != e.index)
           occupancy := (s.queue q).occupancy - 1, abandoned := (s.queue q).abandoned + 1 } ∧
       t.deadlines = (s.deadlines.filter fun d => d.call != e.index) ∧ ContextStopped e.index s t ∧
       t.intake = s.intake.tail ∧ CallsBut e.index s t ∧ QueuesBut q s t ∧
       Changes [.intake, .calls, .queues, .deadlines, .contexts, .bindings, .passCount] s t) ∧
  (∀ (s : State) (e : IntakeEntry) (q a : Nat), Taken s e .call 2 → (s.call e.index).state = .offered →
     (s.call e.index).currentQueue = some q → (s.call e.index).agent = some a → (s.agent a).state = .offered →
     duplicateSkill (s.agent a).skills = false →
     ∃ t, exec .abandon s = .next t ∧
       t.call e.index =
         { (s.call e.index).done (e.answer .ok) with
           state := .free, agent := none, currentQueue := none, context := none, lastEnd := .withdrawn
           offerExpiry := none, overflowDue := none, maxWaitDue := none } ∧
       t.agent a = { s.agent a with state := .available, stateEntry := s.tick, currentCall := none } ∧
       (∀ r, t.queue r =
         { s.queue r with
           waiting := if r = q then (s.queue q).waiting.filter (· != e.index) else (s.queue r).waiting
           occupancy := if r = q then (s.queue q).occupancy - 1 else (s.queue r).occupancy
           abandoned := if r = q then (s.queue q).abandoned + 1 else (s.queue r).abandoned
           available := if (s.agent a).names r then (s.queue r).available + 1 else (s.queue r).available }) ∧
       t.engine.workList = withTrigger s.engine.workList (.agent a) ∧
       t.events = (s.post .dispatch .offerWithdrawn (some e.index) (some a) (some q) 1).events ∧
       t.deadlines = (s.deadlines.filter fun d => d.call != e.index) ∧ ContextStopped e.index s t ∧
       t.intake = s.intake.tail ∧ CallsBut e.index s t ∧ AgentsBut a s t ∧
       Changes ([.intake, .calls, .agents, .queues, .deadlines, .workList, .contexts, .bindings, .passCount] ++ posting) s t)

/-- ANSWER, accepted (R15, R45, R78). The stopped context has the model's values (log 28). -/
def Obligations.AnswerConnectsTheCall : Prop :=
  ∀ (s : State) (e : IntakeEntry) (q a : Nat), Taken s e .call 3 → callOfferAgent e.snapshot = a → a < 1024 →
    (s.call e.index).state = .offered → (s.call e.index).agent = some a → (s.call e.index).currentQueue = some q →
    (s.agent a).state = .offered → duplicateSkill (s.agent a).skills = false →
    ∃ t, exec .answer s = .next t ∧
      t.call e.index =
        { (s.call e.index).done (e.answer .ok) with
          state := .connected, answerTick := s.tick, lastEnd := .answered, context := none
          offerExpiry := none, overflowDue := none, maxWaitDue := none } ∧
      t.agent a =
        { s.agent a with
          state := .busy, stateEntry := s.tick, lastQueue := some q, callsHandled := (s.agent a).callsHandled + 1 } ∧
      t.queue q =
        { s.queue q with
          occupancy := (s.queue q).occupancy - 1, answered := (s.queue q).answered + 1
          answeredInSl :=
            if (s.tick - (s.call e.index).firstEntry).toNat ≤ (s.queue q).settings.serviceLevel then
              (s.queue q).answeredInSl + 1 else (s.queue q).answeredInSl } ∧
      (∀ r, r ≠ q → t.queue r = s.queue r) ∧
      t.deadlines = (s.deadlines.filter fun d => d.call != e.index) ∧ ContextStopped e.index s t ∧
      t.intake = s.intake.tail ∧ CallsBut e.index s t ∧ AgentsBut a s t ∧
      Changes [.intake, .calls, .agents, .queues, .deadlines, .contexts, .bindings, .passCount] s t

/-- NO_ANSWER, accepted (R79): restore by keys, and the agent NOT_READY with the mark. That an unchanged deadline entry
keeps its place is the model's reading (log 34). -/
def Obligations.NoAnswerRestoresTheCall : Prop :=
  ∀ (s : State) (e : IntakeEntry) (q a : Nat), Taken s e .call 4 → callOfferAgent e.snapshot = a → a < 1024 →
    (s.call e.index).state = .offered → (s.call e.index).agent = some a → (s.call e.index).currentQueue = some q →
    (s.agent a).state = .offered → duplicateSkill (s.agent a).skills = false →
    ∃ t, exec .noAnswer s = .next t ∧
      t.call e.index =
        { (s.call e.index).done (e.answer .ok) with
          state := .queued, agent := none, lastEnd := .noAnswer, offerExpiry := none
          overflowDue := (s.call e.index).overflowDue.map fun d => if (s.tick - d).toNat < 2 ^ 31 then s.tick + 1 else d
          maxWaitDue := (s.call e.index).maxWaitDue.map fun d => if (s.tick - d).toNat < 2 ^ 31 then s.tick + 1 else d } ∧
      t.agent a =
        { s.agent a with
          state := .notReady, stateEntry := s.tick, currentCall := none
          flags := { (s.agent a).flags with rnaMark := true } } ∧
      (∀ r, t.queue r =
        { s.queue r with
          waiting := if r = q then s.insertByKeys e.index (s.queue q).waiting else (s.queue r).waiting
          staffed := if (s.agent a).names r then (s.queue r).staffed - 1 else (s.queue r).staffed }) ∧
      EntryFollows e.index s t ∧ t.engine.workList = withTrigger s.engine.workList (.call e.index) ∧
      t.intake = s.intake.tail ∧ CallsBut e.index s t ∧ AgentsBut a s t ∧
      Changes [.intake, .calls, .agents, .queues, .deadlines, .workList, .passCount] s t

/-- HOLD and RESUME (R16, R17). HOLD asks for the hold program's playout (R11), answered as `PlayoutAsked` says; RESUME
stops the hold playout, whose context then has the model's values (log 28). -/
def Obligations.HoldAndResumeKeepTheAgent : Prop :=
  ∀ (s : State) (e : IntakeEntry),
    (∀ q, Taken s e .call 5 → (s.call e.index).state = .connected → (s.call e.index).currentQueue = some q →
      (callHoldProgram e.snapshot < 64 ∨ callHoldProgram e.snapshot = 255) →
      let p := if callHoldProgram e.snapshot = 255 then (s.queue q).settings.holdProgram else callHoldProgram e.snapshot
      ∃ t r, exec .hold s = .next t ∧
        t.call e.index =
          { (s.call e.index).done (e.answer r) with
            state := .agentHold, holdProgram := callHoldProgram e.snapshot, context := (t.call e.index).context } ∧
        PlayoutAsked s t e.index p (s.call e.index).channel r ∧
        t.intake = s.intake.tail ∧ CallsBut e.index s t ∧ Changes ([.intake, .calls, .passCount] ++ asking) s t) ∧
    (Taken s e .call 6 → (s.call e.index).state = .agentHold →
      ∃ t, exec .resume s = .next t ∧
        t.call e.index = { (s.call e.index).done (e.answer .ok) with state := .connected, context := none } ∧
        ContextStopped e.index s t ∧
        t.intake = s.intake.tail ∧ CallsBut e.index s t ∧
        Changes [.intake, .calls, .contexts, .bindings, .passCount] s t)

/-- RELEASE with a wrap-up to come (R18, R85, R86): `n` is the agent's own length, else its last queue's, at most the
ceiling. RELEASE with no wrap-up length (R85, R91): the wrap-up ends in the same event, by the flags. That the held answer
tick is 0 afterwards (log 35) and the values of the stopped context (log 28) are the model's. -/
def Obligations.ReleaseEndsTheCall : Prop :=
  (∀ (s : State) (e : IntakeEntry) (a p n : Nat), Taken s e .call 8 →
     ((s.call e.index).state = .connected ∨ (s.call e.index).state = .agentHold) → (s.call e.index).agent = some a →
     (s.agent a).state = .busy → (s.agent a).lastQueue = some p → duplicateSkill (s.agent a).skills = false →
     min (if 0 < (s.agent a).wrapLength then (s.agent a).wrapLength else (s.queue p).settings.wrapLength)
       s.part.config.wrapCeiling = n →
     0 < n →
     ∃ t, exec .release s = .next t ∧
       t.call e.index =
         { (s.call e.index).done (e.answer .ok) with
           state := .free, agent := none, currentQueue := none, context := none
           offerExpiry := none, overflowDue := none, maxWaitDue := none } ∧
       t.agent a =
         { s.agent a with
           state := .wrapUp, stateEntry := s.tick, currentCall := none, heldAnswer := (s.call e.index).answerTick
           wrapRemaining := n } ∧
       (∀ r, t.queue r = s.queue r) ∧
       t.deadlines = (s.deadlines.filter fun d => d.call != e.index) ∧ ContextStopped e.index s t ∧
       t.intake = s.intake.tail ∧ CallsBut e.index s t ∧ AgentsBut a s t ∧
       Changes [.intake, .calls, .agents, .queues, .deadlines, .contexts, .bindings, .passCount] s t) ∧
  (∀ (s : State) (e : IntakeEntry) (a p : Nat), Taken s e .call 8 →
     ((s.call e.index).state = .connected ∨ (s.call e.index).state = .agentHold) → (s.call e.index).agent = some a →
     (s.agent a).state = .busy → (s.agent a).lastQueue = some p → duplicateSkill (s.agent a).skills = false →
     (s.agent a).wrapLength = 0 → (s.queue p).settings.wrapLength = 0 →
     let f := (s.agent a).flags
     let n := min (s.tick - (s.call e.index).answerTick).toNat 65535
     let out : AgentState :=
       if f.pendLogout then .loggedOut else if f.pendNotReady then .notReady else if f.autoReady then .available else .notReady
     ∃ t, exec .release s = .next t ∧
       t.agent a =
         { s.agent a with
           state := out, stateEntry := s.tick, currentCall := none, heldAnswer := 0, wrapRemaining := 0
           flags := { f with pendNotReady := false, pendLogout := false } } ∧
       t.call e.index =
         { (s.call e.index).done (e.answer .ok) with
           state := .free, agent := none, currentQueue := none, context := none
           offerExpiry := none, overflowDue := none, maxWaitDue := none } ∧
       (∀ r, t.queue r =
         if (s.agent a).names r then
           (if out = .available then { s.queue r with available := (s.queue r).available + 1 }
             else { s.queue r with staffed := (s.queue r).staffed - 1 })
         else s.queue r) ∧
       t.engine.workList =
         (if out = .available then withTrigger s.engine.workList (.agent a) else s.engine.workList) ∧
       t.samples = s.samples ++ [{ queue := p, ticks := n }] ∧
       t.events = (s.post .agent .wrapEnd none (some a) (some p) n).events ∧
       t.deadlines = (s.deadlines.filter fun d => d.call != e.index) ∧ ContextStopped e.index s t ∧
       t.intake = s.intake.tail ∧ CallsBut e.index s t ∧ AgentsBut a s t ∧
       Changes ([.intake, .calls, .agents, .queues, .deadlines, .workList, .samples, .contexts, .bindings, .passCount] ++
         posting) s t)

/-- TRANSFER with a wrap-up to come (R19): the agent's wrap-up begins, and the call enters the named queue afresh, without
the attempts and the last-offer-end kind being touched. Its hold playout is stopped first (`m` stands with it stopped), and
its queue playout is then asked for (R11), answered as `PlayoutAsked` says. TRANSFER with no wrap-up length (R19, R85, R91):
the wrap-up ends in the same event, by the flags, before the call enters the named queue. The model's own are the held
answer tick of 0 afterwards (log 35), the tick mark and the values of the stopped context (logs 4, 28), and that an
unchanged deadline entry keeps its place (log 34). -/
def Obligations.TransferSendsTheCallBackIntoAQueue : Prop :=
  (∀ (s : State) (e : IntakeEntry) (a p n q : Nat), Taken s e .call 7 →
     ((s.call e.index).state = .connected ∨ (s.call e.index).state = .agentHold) → (s.call e.index).agent = some a →
     (s.agent a).state = .busy → (s.agent a).lastQueue = some p → duplicateSkill (s.agent a).skills = false →
     min (if 0 < (s.agent a).wrapLength then (s.agent a).wrapLength else (s.queue p).settings.wrapLength)
       s.part.config.wrapCeiling = n →
     0 < n →
     callPriority e.snapshot ≤ 15 → (callQueueProgram e.snapshot < 64 ∨ callQueueProgram e.snapshot = 255) →
     callTarget e.snapshot = q → q < 64 → (s.queue q).state = .open → (s.queue q).occupancy < (s.queue q).settings.capacity →
     KeepsEntering s q e.index (callPriority e.snapshot) (s.queue q).staffed →
     let g := (s.queue q).settings
     let program := if callQueueProgram e.snapshot = 255 then g.queueProgram else callQueueProgram e.snapshot
     ∃ t r m, exec .transfer s = .next t ∧
       t.call e.index =
         { (s.call e.index).done (e.answer r) with
           state := .queued, agent := none, currentQueue := some q, hops := 0, context := (t.call e.index).context
           firstEntry := s.tick, queueEntry := s.tick, seniority := s.seniority
           priority := callPriority e.snapshot, targetQueue := q, queueProgram := callQueueProgram e.snapshot
           offerExpiry := none
           overflowDue :=
             if (g.mode = .time ∨ g.mode = .both) ∧ g.overflowAfter ≠ 0 ∧ g.target ≠ 255 then
               some (s.tick + BitVec.ofNat 32 g.overflowAfter) else none
           maxWaitDue := if g.maxWait ≠ 0 then some (s.tick + BitVec.ofNat 32 g.maxWait) else none } ∧
       t.agent a =
         { s.agent a with
           state := .wrapUp, stateEntry := s.tick, currentCall := none, heldAnswer := (s.call e.index).answerTick
           wrapRemaining := n } ∧
       t.queue q =
         { s.queue q with
           entered := (s.queue q).entered + 1, occupancy := (s.queue q).occupancy + 1
           waiting := t.insertByKeys e.index (s.queue q).waiting } ∧
       t.seniority = s.seniority + 1 ∧ EntryFollows e.index s t ∧
       ContextStopped e.index s m ∧ (m.call e.index).context = none ∧ Component.library.agree s m ∧ m.feeds = s.feeds ∧
       SamePosting s m ∧ PlayoutAsked m t e.index program (s.call e.index).channel r ∧
       m.events = s.events ∧ t.engine.workList = withTrigger s.engine.workList (.call e.index) ∧
       t.intake = s.intake.tail ∧ CallsBut e.index s t ∧ AgentsBut a s t ∧ QueuesBut q s t ∧
       Changes ([.intake, .calls, .agents, .queues, .seniority, .deadlines, .workList, .passCount] ++ asking) s t) ∧
  (∀ (s : State) (e : IntakeEntry) (a p q : Nat), Taken s e .call 7 →
     ((s.call e.index).state = .connected ∨ (s.call e.index).state = .agentHold) → (s.call e.index).agent = some a →
     (s.agent a).state = .busy → (s.agent a).lastQueue = some p → duplicateSkill (s.agent a).skills = false →
     (s.agent a).wrapLength = 0 → (s.queue p).settings.wrapLength = 0 →
     let f := (s.agent a).flags
     let n := min (s.tick - (s.call e.index).answerTick).toNat 65535
     let out : AgentState :=
       if f.pendLogout then .loggedOut else if f.pendNotReady then .notReady else if f.autoReady then .available else .notReady
     callPriority e.snapshot ≤ 15 → (callQueueProgram e.snapshot < 64 ∨ callQueueProgram e.snapshot = 255) →
     callTarget e.snapshot = q → q < 64 → (s.queue q).state = .open → (s.queue q).occupancy < (s.queue q).settings.capacity →
     KeepsEntering s q e.index (callPriority e.snapshot)
       (if (s.agent a).names q ∧ out ≠ .available then (s.queue q).staffed - 1 else (s.queue q).staffed) →
     let g := (s.queue q).settings
     let program := if callQueueProgram e.snapshot = 255 then g.queueProgram else callQueueProgram e.snapshot
     let freed := fun x =>
       if (s.agent a).names x then
         (if out = .available then { s.queue x with available := (s.queue x).available + 1 }
           else { s.queue x with staffed := (s.queue x).staffed - 1 })
       else s.queue x
     ∃ t r m, exec .transfer s = .next t ∧
       t.call e.index =
         { (s.call e.index).done (e.answer r) with
           state := .queued, agent := none, currentQueue := some q, hops := 0, context := (t.call e.index).context
           firstEntry := s.tick, queueEntry := s.tick, seniority := s.seniority
           priority := callPriority e.snapshot, targetQueue := q, queueProgram := callQueueProgram e.snapshot
           offerExpiry := none
           overflowDue :=
             if (g.mode = .time ∨ g.mode = .both) ∧ g.overflowAfter ≠ 0 ∧ g.target ≠ 255 then
               some (s.tick + BitVec.ofNat 32 g.overflowAfter) else none
           maxWaitDue := if g.maxWait ≠ 0 then some (s.tick + BitVec.ofNat 32 g.maxWait) else none } ∧
       t.agent a =
         { s.agent a with
           state := out, stateEntry := s.tick, currentCall := none, heldAnswer := 0, wrapRemaining := 0
           flags := { f with pendNotReady := false, pendLogout := false } } ∧
       t.queue q =
         { freed q with
           entered := (s.queue q).entered + 1, occupancy := (s.queue q).occupancy + 1
           waiting := t.insertByKeys e.index (s.queue q).waiting } ∧
       (∀ x, x ≠ q → t.queue x = freed x) ∧
       t.seniority = s.seniority + 1 ∧ EntryFollows e.index s t ∧
       ContextStopped e.index s m ∧ (m.call e.index).context = none ∧ Component.library.agree s m ∧ m.feeds = s.feeds ∧
       SamePosting s m ∧ PlayoutAsked m t e.index program (s.call e.index).channel r ∧
       m.events = (s.post .agent .wrapEnd none (some a) (some p) n).events ∧
       t.engine.workList =
         withTrigger (if out = .available then withTrigger s.engine.workList (.agent a) else s.engine.workList) (.call e.index) ∧
       t.samples = s.samples ++ [{ queue := p, ticks := n }] ∧
       t.intake = s.intake.tail ∧ CallsBut e.index s t ∧ AgentsBut a s t ∧
       Changes ([.intake, .calls, .agents, .queues, .seniority, .deadlines, .workList, .samples, .passCount] ++ asking ++ posting)
         s t)

/-- The place a call's keys give it in a list (R9, R36): behind every call ahead of it, and before the first it stands
before by higher priority, or by lower seniority at equal priority; in a list ordered by these keys, before every such call.
PRIORITY (R20): a QUEUED call moves to the place its new priority gives; any other call that is not FREE only latches it.
ANNOUNCE (R21, R123): on a program step with room on the return stack the activity is saved with the announcement marker; on
an announcement the segment replaces it; one whose segment is not DEFINED ends at its beginning, and the top record is
popped in the same event, as R121 has it (log 39); at depth 4 STACK_FULL; without a running context NO_PLAYOUT. In STARTING
too the step saved is the current one (log 44). One answered STACK_FULL latches no segment (R3 over R21; log 45). -/
def Obligations.PriorityMovesAndAnnounceCutsIn : Prop :=
  ((∀ (s : State) (c : Nat) (l : List Nat),
     let before := fun x y : Nat =>
       (s.call y).priority < (s.call x).priority ∨
         (s.call x).priority = (s.call y).priority ∧ (s.call x).seniority.toNat < (s.call y).seniority.toNat
     ∃ front back, l = front ++ back ∧ s.insertByKeys c l = front ++ c :: back ∧ (∀ d ∈ front, ¬ before c d) ∧
       (∀ d, back.head? = some d → before c d) ∧ (l.Pairwise before → ∀ d ∈ back, before c d)) ∧
   ∀ (s : State) (e : IntakeEntry), Taken s e .call 9 → callPriority e.snapshot ≤ 15 →
     (∀ q, (s.call e.index).state = .queued → (s.call e.index).currentQueue = some q →
       ∃ t, exec .priority s = .next t ∧
         t.call e.index = { (s.call e.index).done (e.answer .ok) with priority := callPriority e.snapshot } ∧
         t.queue q =
           { s.queue q with waiting := t.insertByKeys e.index ((s.queue q).waiting.filter (· != e.index)) } ∧
         t.intake = s.intake.tail ∧ CallsBut e.index s t ∧ QueuesBut q s t ∧
         Changes [.intake, .calls, .queues, .passCount] s t) ∧
     ((s.call e.index).state = .offered ∨ (s.call e.index).state = .connected ∨ (s.call e.index).state = .agentHold →
       ∃ t, exec .priority s = .next t ∧
         t.call e.index = { (s.call e.index).done (e.answer .ok) with priority := callPriority e.snapshot } ∧
         t.intake = s.intake.tail ∧ CallsBut e.index s t ∧ Changes [.intake, .calls, .passCount] s t)) ∧
  (∀ (s : State) (e : IntakeEntry), Taken s e .call 10 →
     (∀ k, (s.call e.index).context = some k →
       let x := s.context k
       let n := callSegment e.snapshot
       let period := (s.program x.program).period
       let y : Context :=
         { x with
           activity := .announcement, segment := s.segment n, position := 0, passes := 0, phase := 0, bursts := 0
           redirected := x.redirected || x.inFlight }
       let plays := fun (z : Context) => ∃ t, exec .announce s = .next t ∧
         t.call e.index = { (s.call e.index).done (e.answer .ok) with announcement := n } ∧ t.context k = z ∧
         t.intake = s.intake.tail ∧ CallsBut e.index s t ∧ ContextsBut k s t ∧
         Changes [.intake, .calls, .contexts, .passCount] s t
       let returns := fun (rest : List ReturnRecord) (r : ReturnRecord) => ∃ t, exec .announce s = .next t ∧
         t.call e.index =
           { (s.call e.index).done (e.answer .ok) with announcement := n, context := (t.call e.index).context } ∧
         ControlLeaves s t e.index k { y with stack := rest, timer := if rest = [] then period else x.timer } (.resume r) ∧
         t.intake = s.intake.tail ∧ CallsBut e.index s t ∧ ContextsBut k s t ∧
         Changes ([.intake, .calls, .passCount] ++ asking) s t
       let bound := x.call = e.index ∧ s.binding x.channel = some k
       (x.state = .starting ∨ x.state = .playing →
         (∀ i, x.activity = .step i → x.stack.length < 4 →
           let saved : ReturnRecord :=
             { step := i, position := x.position, passes := x.passes, phase := x.phase, bursts := x.bursts
               announcement := true, fallback := x.step.kind == .feed && x.source != .ring }
           ((s.segment n).defined = true → plays { y with stack := saved :: x.stack }) ∧
           ((s.segment n).defined = false → bound → returns x.stack saved)) ∧
         (x.activity = .announcement →
           ((s.segment n).defined = true → plays y) ∧
           ((s.segment n).defined = false → bound → ∀ r rest, x.stack = r :: rest → returns rest r)) ∧
         (∀ i, x.activity = .step i → 4 ≤ x.stack.length →
           ∃ t, exec .announce s = .next t ∧ OnlyAnswered s t e (e.answer .stackFull))) ∧
       (x.state = .free ∨ x.state = .draining →
         ∃ t, exec .announce s = .next t ∧ OnlyAnswered s t e (e.answer .noPlayout))) ∧
     ((s.call e.index).context = none → ∃ t, exec .announce s = .next t ∧ OnlyAnswered s t e (e.answer .noPlayout)))

/-- A call command that a check refuses changes nothing but the call's result: the call's state first, then the snapshot's
fields, then the target queue, IDLE, CLOSED or full (R7, R15, R37). That BAD_FIELD goes before BAD_QUEUE is the model's
reading (log 16). -/
def Obligations.RefusedCallCommandsChangeNothing : Prop :=
  ∀ (s : State) (e : IntakeEntry),
    let x := (s.call e.index).state
    (Taken s e .call 1 → x ≠ .free → ∃ t, exec .enqueue s = .next t ∧ OnlyAnswered s t e (e.answer .wrongState)) ∧
    (Taken s e .call 2 → x ≠ .queued → x ≠ .offered →
      ∃ t, exec .abandon s = .next t ∧ OnlyAnswered s t e (e.answer .wrongState)) ∧
    (∀ i code, i = Instr.answer ∧ code = 3 ∨ i = Instr.noAnswer ∧ code = 4 → Taken s e .call code →
      (1023 < callOfferAgent e.snapshot → ∃ t, exec i s = .next t ∧ OnlyAnswered s t e (e.answer .badField)) ∧
      (callOfferAgent e.snapshot ≤ 1023 → x = .queued ∨ x = .offered ∧ (s.call e.index).agent ≠ some (callOfferAgent e.snapshot) →
        ∃ t, exec i s = .next t ∧ OnlyAnswered s t e (e.answer .tooLate)) ∧
      (callOfferAgent e.snapshot ≤ 1023 → x = .free ∨ x = .connected ∨ x = .agentHold →
        ∃ t, exec i s = .next t ∧ OnlyAnswered s t e (e.answer .wrongState))) ∧
    (Taken s e .call 5 → x ≠ .connected → ∃ t, exec .hold s = .next t ∧ OnlyAnswered s t e (e.answer .wrongState)) ∧
    (Taken s e .call 6 → x ≠ .agentHold → ∃ t, exec .resume s = .next t ∧ OnlyAnswered s t e (e.answer .wrongState)) ∧
    (∀ i code, i = Instr.transfer ∧ code = 7 ∨ i = Instr.release ∧ code = 8 → Taken s e .call code →
      x ≠ .connected → x ≠ .agentHold → ∃ t, exec i s = .next t ∧ OnlyAnswered s t e (e.answer .wrongState)) ∧
    (Taken s e .call 9 → x = .free → ∃ t, exec .priority s = .next t ∧ OnlyAnswered s t e (e.answer .wrongState)) ∧
    (Taken s e .call 9 → x ≠ .free → 15 < callPriority e.snapshot →
      ∃ t, exec .priority s = .next t ∧ OnlyAnswered s t e (e.answer .badField)) ∧
    (Taken s e .call 5 → x = .connected → 64 ≤ callHoldProgram e.snapshot → callHoldProgram e.snapshot ≠ 255 →
      ∃ t, exec .hold s = .next t ∧ OnlyAnswered s t e (e.answer .badField)) ∧
    (∀ i, i = Instr.enqueue ∧ Taken s e .call 1 ∧ x = .free ∨
        i = Instr.transfer ∧ Taken s e .call 7 ∧ (x = .connected ∨ x = .agentHold) →
      let badField := 15 < callPriority e.snapshot ∨ 64 ≤ callQueueProgram e.snapshot ∧ callQueueProgram e.snapshot ≠ 255
      let q := s.queue (callTarget e.snapshot)
      (badField → ∃ t, exec i s = .next t ∧ OnlyAnswered s t e (e.answer .badField)) ∧
      (¬ badField → 64 ≤ callTarget e.snapshot ∨ q.state = .idle →
        ∃ t, exec i s = .next t ∧ OnlyAnswered s t e (e.answer .badQueue)) ∧
      (¬ badField → callTarget e.snapshot < 64 → q.state = .closed →
        ∃ t, exec i s = .next t ∧ OnlyAnswered s t e (e.answer .queueClosed)) ∧
      (¬ badField → callTarget e.snapshot < 64 → q.state = .open → q.settings.capacity ≤ q.occupancy →
        ∃ t, exec i s = .next t ∧ OnlyAnswered s t e (e.answer .queueFull)))

/-! ### Steps, and the intake's hand-over (09 R148, R150) -/

/-- A step takes the command at the front of the queue and executes it on the state with the queue's rest. An empty queue
leaves the state as it is (the model's choice, log 2). -/
def Obligations.StepTakesTheFrontCommand : Prop :=
  ∀ (s : State),
    (∀ c rest, s.pending = c :: rest → step s = exec c { s with pending := rest }) ∧
    (∀ c, step { s with pending := c :: s.pending } = exec c s) ∧
    (s.pending = [] → step s = .next s)

/-- What the hand-over settles before a unit acts (R150): TORN first, then NOT_ACTIVE; an entry so settled changes nothing
but its result and its pending count. For all 22 record commands, FLAG_WRITE and the eight part commands. A command word
whose code its kind does not define (R150, R168): codes 1 to 10 for calls, 1 to 6 for agents and queues, 1 to 8 for the
part. -/
def Obligations.HandOverSettlesTornNotActiveAndUnknown : Prop :=
  (∀ (s : State) (e : IntakeEntry), s.path.resetAsserted = false → s.intake.head? = some e →
     (∀ i kind code, (i, kind, code) ∈ recordRows → e.kind = kind → e.flagWord = false → e.code = code →
       (e.torn = true → ∃ t, exec i s = .next t ∧ OnlyAnswered s t e (e.answer .torn)) ∧
       (e.torn = false → s.part.state ≠ .active →
         ∃ t, exec i s = .next t ∧ OnlyAnswered s t e (e.answer .notActive))) ∧
     (e.kind = .agent → e.flagWord = true →
       (e.torn = true →
         ∃ t, exec .flagWrite s = .next t ∧ OnlyAnswered s t e { code := 0x80, token := 0, result := .torn }) ∧
       (e.torn = false → s.part.state ≠ .active →
         ∃ t, exec .flagWrite s = .next t ∧ OnlyAnswered s t e { code := 0x80, token := 0, result := .notActive })) ∧
     (∀ i code states, (i, code, states) ∈ partRows → e.kind = .part → e.flagWord = false → e.code = code →
       (e.torn = true → ∃ t, exec i s = .next t ∧ OnlyAnswered s t e (e.answer .torn)) ∧
       (e.torn = false → s.part.state ∈ states →
         ∃ t, exec i s = .next t ∧ OnlyAnswered s t e (e.answer .notActive)))) ∧
  (∀ (s : State) (e : IntakeEntry), s.path.resetAsserted = false → s.intake.head? = some e → e.flagWord = false →
     (e.code = 0 ∨ e.kind = .call ∧ 10 < e.code.toNat ∨ e.kind = .agent ∧ 6 < e.code.toNat ∨
       e.kind = .queue ∧ 6 < e.code.toNat ∨ e.kind = .part ∧ 8 < e.code.toNat) →
     ∃ t, exec .unknownCommand s = .next t ∧
       OnlyAnswered s t e
         (e.answer (if e.torn = true then .torn else if e.kind ≠ .part ∧ s.part.state ≠ .active then .notActive else .unknown)))

/-! ### Part commands (07 R114, 08 R134, R139, 09 R151 to R154, 10 R162, R163) -/

/-- The configuration a staging gives (R86, R135, R167): the fields at the places of the block, a wrap ceiling of 0 as
65,535, a feed's timeout and settle of 0 as 1 and its delay brought into range. ENABLE (R151, R152): in PASS the
configuration staging is latched; a valid one begins the loading reads, an invalid one fails the LOADING with its code
(R154). The values of a FREE context are the model's (log 28), and so is the delay latched for a feed that is not enabled
where R135's bounds cross (log 40). -/
def Obligations.EnableLatchesAndValidates : Prop :=
  (∀ (g : Staging) (ws : List Word) (f : Nat),
    let c := configOf ws
    let x := c.feeds.getD f {}
    let at_ := 0x20 + 16 * f
    let size := x.ringEnd.toNat - x.ringStart.toNat
    let delay := halfField ws (at_ + 0x0C)
    g.configWords.length = 64 ∧ (∀ w < 64, g.configWords.getD w 0 = Table.read 0 g.config w) ∧
    c.callBase = wordField ws 0x00 ∧ c.agentBase = wordField ws 0x04 ∧ c.channelBase = wordField ws 0x08 ∧
    c.voiceTag.toNat = byteField ws 0x0C % 4 ∧ c.enables.toNat = byteField ws 0x0D ∧ c.silence.toNat = byteField ws 0x0E ∧
    c.wrapCeiling = (if halfField ws 0x10 = 0 then 65535 else halfField ws 0x10) ∧ c.feeds.length = 4 ∧
    (f < 4 →
      x.ringStart = wordField ws at_ ∧ x.ringEnd = wordField ws (at_ + 4) ∧
      (x.enable = true ↔ byteField ws (at_ + 8) % 2 = 1) ∧ x.tag.toNat = byteField ws (at_ + 9) % 4 ∧
      x.timeout = max 1 (byteField ws (at_ + 0x0A)) ∧ x.settle = max 1 (byteField ws (at_ + 0x0B)) ∧
      x.delay = (if delay < 64 then 64 else min delay (min 4096 (size - 64))))) ∧
  ∀ (s : State) (e : IntakeEntry), Handed s e .part 1 →
    (s.part.state ≠ .pass → ∃ t, exec .enable s = .next t ∧ OnlyAnswered s t e (e.answer .wrongState)) ∧
    (s.part.state = .pass → validate s.path.straps (configOf s.staging.configWords) = .none →
      ∃ t, exec .enable s = .next t ∧
        t.part =
          { s.part with
            state := .loading, error := .none, config := configOf s.staging.configWords, phase := .records
            cursor := some { table := .queue, index := 0, word := 0 }, restartToken := none, result := e.answer .ok } ∧
        t.intake = s.intake.tail ∧
        Changes [.intake, .partState, .configError, .config, .partResult, .loading, .passCount] s t) ∧
    (∀ err, s.part.state = .pass → validate s.path.straps (configOf s.staging.configWords) = err → err ≠ .none →
      Canonical s →
      ∃ t, exec .enable s = .next t ∧
        t.part.state = .pass ∧ t.part.error = err ∧ t.part.config = configOf s.staging.configWords ∧
        t.part.phase = .none ∧ t.part.cursor = none ∧ t.part.burst = none ∧
        t.part.result = e.answer .configError ∧ LiveDropped s t ∧ FeedsOff s t ∧
        t.intake = s.intake.tail ∧
        Changes ([.intake, .partState, .configError, .config, .partResult, .loading, .passCount] ++ liveState) s t)

/-- The validation of a configuration (R144, R152): the windows' alignment, their overlap, the enabled feeds' rings and
their tags, the first failure giving the code. -/
def Obligations.ValidationFindsTheFirstFailure : Prop :=
  ∀ (straps : BitVec 4) (c : PartConfig),
    let anchor := straps.toNat * 0x10000000 + 0x0FFF0000
    let inWindow : Nat → Nat → Prop := fun w a =>
      w = 0 ∧ anchor ≤ a ∧ a < anchor + 0x10000 ∨ w = 1 ∧ c.callBase.toNat ≤ a ∧ a < c.callBase.toNat + 0x20000 ∨
        w = 2 ∧ c.agentBase.toNat ≤ a ∧ a < c.agentBase.toNat + 0x10000 ∨
        w = 3 ∧ c.channelBase.toNat ≤ a ∧ a < c.channelBase.toNat + 0x10000
    let aligned : Prop := c.callBase.toNat % 0x20000 = 0 ∧ c.agentBase.toNat % 0x10000 = 0 ∧ c.channelBase.toNat % 0x10000 = 0
    let shared : Prop := ∃ v w a, v ≠ w ∧ inWindow v a ∧ inWindow w a
    let badRing : FeedConfig → Prop := fun f =>
      f.ringStart.toNat % 4 ≠ 0 ∨ f.ringEnd.toNat % 4 ≠ 0 ∨ f.ringEnd.toNat ≤ f.ringStart.toNat ∨
        f.ringEnd.toNat - f.ringStart.toNat < 1024 ∨ 1048576 < f.ringEnd.toNat - f.ringStart.toNat ∨
        ∃ w a, inWindow w a ∧ f.ringStart.toNat ≤ a ∧ a < f.ringEnd.toNat
    let ringFails : Prop := ∃ f ∈ c.feeds, f.enable = true ∧ badRing f
    let tagFails : Prop := ∃ f ∈ c.feeds, f.enable = true ∧ f.tag = c.voiceTag
    (validate straps c = .windowAlign ↔ ¬ aligned) ∧
    (validate straps c = .windowOverlap ↔ aligned ∧ shared) ∧
    (validate straps c = .feedRing ↔ aligned ∧ ¬ shared ∧ ringFails) ∧
    (validate straps c = .tagClash ↔ aligned ∧ ¬ shared ∧ ¬ ringFails ∧ tagFails) ∧
    (validate straps c = .none ↔ aligned ∧ ¬ shared ∧ ¬ ringFails ∧ ¬ tagFails)

/-- RESTART begins a configuration read in every part state, its result still to come, and discards a proposal (R68, R152,
R154); DISABLE abandons a LOADING or leaves ACTIVE, dropping the live state, and changes nothing in PASS (R151, R154; log
41). The count of abandoned reads (log 22) and the values of a FREE context (log 28) are the model's. -/
def Obligations.RestartAndDisableByState : Prop :=
  ∀ (s : State) (e : IntakeEntry),
    let waits := if s.part.burst.isSome then s.part.discard + 1 else s.part.discard
    (Handed s e .part 3 →
      ∃ t, exec .restart s = .next t ∧
        t.part =
          { s.part with
            state := .loading, phase := .config, cursor := some { table := .config, index := 0, word := 0 }
            burst := none, discard := waits, restartToken := some e.token } ∧
        t.engine.proposal = none ∧ t.engine.reserved = false ∧ t.intake = s.intake.tail ∧
        Changes [.intake, .partState, .loading, .proposal, .passCount] s t) ∧
    (Handed s e .part 2 → s.part.state = .pass →
      ∃ t, exec .disable s = .next t ∧ OnlyAnswered s t e (e.answer .ok)) ∧
    (Handed s e .part 2 → s.part.state ≠ .pass → Canonical s →
      ∃ t, exec .disable s = .next t ∧
        t.part =
          { s.part with
            state := .pass, phase := .none, cursor := none, burst := none, discard := waits, restartToken := none
            result := e.answer .ok } ∧
        LiveDropped s t ∧ FeedsOff s t ∧ t.intake = s.intake.tail ∧
        Changes ([.intake, .partState, .partResult, .loading, .passCount] ++ liveState) s t)

/-- LIBRARY_APPLY in ACTIVE latches the library staging, with the two values R114 brings into range. -/
def Obligations.LibraryApplyLatchesTheLibrary : Prop :=
  ∀ (s : State) (e : IntakeEntry), Taken s e .part 4 →
    let descriptor := fun n w => Table.read 0 s.staging.segments (4 * n + w)
    let stored := fun n => (descriptor n 1).toNat % 16777216
    let length := fun n => if stored n = 0 then 16777216 else stored n
    let loop := fun n => (descriptor n 2).toNat % 16777216
    let words := fun n => (List.range 64).map fun w => Table.read 0 s.staging.programs (64 * n + w)
    let high := fun n i =>
      byteField (words n) (64 + 12 * i) = 6 ∧ halfField (words n) (64 + 12 * i + 8) < halfField (words n) (64 + 12 * i + 10)
    ∃ t, exec .libraryApply s = .next t ∧
      LibraryLatched s t ∧
      ((∃ n < 256, length n ≤ loop n) ∨ (∃ n < 64, ∃ i < 16, high n i) → t.part.result = e.answer .okClamped) ∧
      ((∀ n < 256, loop n < length n) → (∀ n < 64, ∀ i < 16, ¬ high n i) → t.part.result = e.answer .ok) ∧
      t.intake = s.intake.tail ∧ Changes [.intake, .library, .partResult, .passCount] s t

/-- EVENT_POP removes the head that has the sequence number, and with it the shown event (R161, R162); SUMMARY_CLEAR clears
what its mask asks for (R163, R168). -/
def Obligations.EventPopAndSummaryClear : Prop :=
  ∀ (s : State) (e : IntakeEntry), s.part.state ≠ .loading →
    let n := e.argument
    (∀ r rest, Handed s e .part 5 → s.events.dispatch = r :: rest → r.sequence = n → n ≠ 0 →
      ∃ t, exec .eventPop s = .next t ∧
        t.events =
          { s.events with dispatch := rest, shown := s.events.shown.filter fun x => x.sequence != n } ∧
        t.part.result = e.answer .ok ∧ t.intake = s.intake.tail ∧
        Changes [.intake, .dispatch, .shown, .partResult, .passCount] s t) ∧
    (∀ r rest, Handed s e .part 5 → (∀ x, s.events.dispatch.head? = some x → x.sequence ≠ n) →
      s.events.notices = r :: rest → r.sequence = n → n ≠ 0 →
      ∃ t, exec .eventPop s = .next t ∧
        t.events =
          { s.events with notices := rest, shown := s.events.shown.filter fun x => x.sequence != n } ∧
        t.part.result = e.answer .ok ∧ t.intake = s.intake.tail ∧
        Changes [.intake, .notices, .shown, .partResult, .passCount] s t) ∧
    (Handed s e .part 5 →
      (n = 0 ∨ (∀ x, s.events.dispatch.head? = some x → x.sequence ≠ n) ∧
        ∀ x, s.events.notices.head? = some x → x.sequence ≠ n) →
      ∃ t, exec .eventPop s = .next t ∧ OnlyAnswered s t e (e.answer .stale)) ∧
    (Handed s e .part 6 →
      ∃ t, exec .summaryClear s = .next t ∧
        t.events =
          { s.events with
            summaries :=
              { dispatch := s.events.summaries.dispatch && !n.testBit 0
                call := s.events.summaries.call && !n.testBit 1
                agent := s.events.summaries.agent && !n.testBit 2
                queue := s.events.summaries.queue && !n.testBit 3
                playout := s.events.summaries.playout && !n.testBit 4
                supervision := s.events.summaries.supervision && !n.testBit 5 }
            lost := s.events.lost && !n.testBit 6 } ∧
        t.part.result = e.answer .ok ∧ t.intake = s.intake.tail ∧
        Changes [.intake, .summaries, .lost, .partResult, .passCount] s t)

/-- TIMEBASE_CLEAR (R134): judged against the Time Base and its history in PASS and ACTIVE, NOT_ACTIVE in LOADING. -/
def Obligations.TimebaseClearJudgesTheHistory : Prop :=
  ∀ (s : State) (e : IntakeEntry), Handed s e .part 8 →
    (s.part.state = .loading → ∃ t, exec .timebaseClear s = .next t ∧ OnlyAnswered s t e (e.answer .notActive)) ∧
    (s.part.state ≠ .loading →
      (s.time.state = .substitute → (∀ p ∈ s.time.history, p = true) →
        ∃ t, exec .timebaseClear s = .next t ∧
          t.time = { s.time with state := .external } ∧
          t.events = (s.post .supervision .timebaseRestored none none none 0).events ∧
          t.part.result = e.answer .ok ∧ t.intake = s.intake.tail ∧
          Changes ([.intake, .time, .partResult, .passCount] ++ posting) s t) ∧
      (s.time.state = .substitute → (∃ p ∈ s.time.history, p = false) →
        ∃ t, exec .timebaseClear s = .next t ∧ OnlyAnswered s t e (e.answer .stillMissing)) ∧
      (s.time.state = .external → ∃ t, exec .timebaseClear s = .next t ∧ OnlyAnswered s t e (e.answer .ok)) ∧
      (s.time.state = .starting → ∃ t, exec .timebaseClear s = .next t ∧ OnlyAnswered s t e (e.answer .stillMissing)))

/-! ### The memory path: beats (08 R136, 09 R144 to R149, R155, 07 R125, 10 R161) -/

/-- What kind of word an address names (R144, R167, R168): the anchor's regions, and the addresses between them, in every
part state; the call and agent tables while they are watched; the channel window in ACTIVE. -/
def Obligations.AddressesNameTheirWords : Prop :=
  ∀ (s : State) (a : Word),
    let anchor := s.path.straps.toNat * 0x10000000 + 0x0FFF0000
    let inAnchor : Prop := anchor ≤ a.toNat ∧ a.toNat < anchor + 0x10000
    let watched : Prop := s.part.state = .active ∨ s.part.state = .loading ∧ s.part.phase = .records
    let inCalls : Prop := s.part.config.callBase.toNat ≤ a.toNat ∧ a.toNat < s.part.config.callBase.toNat + 0x20000
    let inAgents : Prop := s.part.config.agentBase.toNat ≤ a.toNat ∧ a.toNat < s.part.config.agentBase.toNat + 0x10000
    let inChannels : Prop :=
      s.part.config.channelBase.toNat ≤ a.toNat ∧ a.toNat < s.part.config.channelBase.toNat + 0x10000
    (∀ w < 64, a.toNat = anchor + 4 * w → s.classify a = .configWord w) ∧
    (a.toNat = anchor + 0x100 → s.classify a = .partCommand) ∧
    (∀ w < 16, a.toNat = anchor + 0x140 + 4 * w → s.classify a = .statusWord w) ∧
    (∀ w < 4, a.toNat = anchor + 0x180 + 4 * w → s.classify a = .eventWord w) ∧
    (∀ w < 1024, a.toNat = anchor + 0x1000 + 4 * w → s.classify a = .segmentWord w) ∧
    (∀ q < 64, ∀ w < 32, a.toNat = anchor + 0x2000 + 128 * q + 4 * w →
      s.classify a = if w = 8 then .queueCommand q else if w < 16 then .queueHost q w else .queuePart q w) ∧
    (∀ w < 4096, a.toNat = anchor + 0x4000 + 4 * w → s.classify a = .programWord w) ∧
    (∀ o, 0x104 ≤ o ∧ o < 0x140 ∨ 0x190 ≤ o ∧ o < 0x1000 ∨ 0x8000 ≤ o ∧ o < 0x10000 → a.toNat = anchor + o →
      s.classify a = .outside) ∧
    (∀ c < 2048, ∀ w < 16, ¬ inAnchor → watched → a.toNat = s.part.config.callBase.toNat + 64 * c + 4 * w →
      s.classify a = if w < 4 then .callHost c w else if w = 4 then .callCommand c else .callPart c w) ∧
    (∀ g < 1024, ∀ w < 16, ¬ inAnchor → ¬ inCalls → watched →
      a.toNat = s.part.config.agentBase.toNat + 64 * g + 4 * w →
      s.classify a =
        if w < 5 then .agentHost g w else if w = 5 then .agentCommand g else if w = 6 then .agentFlags g else .agentPart g w) ∧
    (∀ ch < 2048, ∀ w < 8, ¬ inAnchor → ¬ inCalls → ¬ inAgents → s.part.state = .active →
      a.toNat = s.part.config.channelBase.toNat + 32 * ch + 4 * w → s.classify a = .channel ch) ∧
    (¬ inAnchor → ¬ watched → s.classify a = .outside) ∧
    (¬ inAnchor → ¬ inCalls → ¬ inAgents → s.part.state ≠ .active ∨ ¬ inChannels → s.classify a = .outside)

/-- The fields of a command word and of a snapshot, at the places of R168: code, token and argument; a call's priority,
target queue, programs, channel, announcement segment and offer agent; an agent's wrap-up length and extension; and the
byte, halfword, word and three bytes at an offset. A write beat to a command word, with room in the intake (R145, R148): one
entry at the tail, the record's pending count up by 1, and the beat forwarded. -/
def Obligations.CommandWordWritesMakeEntries : Prop :=
  (∀ (e : IntakeEntry) (ws : List Word),
    let bits := fun (w : Word) (first count : Nat) => (w.extractLsb' first count).toNat
    let word := fun n => ws.getD n 0
    e.code.toNat = bits e.word 0 8 ∧ e.token.toNat = bits e.word 8 8 ∧ e.argument = bits e.word 16 16 ∧
    callPriority ws = bits (word 0) 0 8 ∧ callTarget ws = bits (word 0) 8 8 ∧ callQueueProgram ws = bits (word 0) 16 8 ∧
    callHoldProgram ws = bits (word 0) 24 8 ∧ callChannel ws = bits (word 1) 0 16 ∧ callSegment ws = bits (word 1) 16 8 ∧
    callOfferAgent ws = bits (word 2) 0 16 ∧ agentWrapLength ws = bits (word 4) 0 16 ∧
    agentExtension ws = bits (word 4) 16 16 ∧
    ∀ o, byteField ws o = bits (word (o / 4)) (8 * (o % 4)) 8 ∧ halfField ws o = bits (word (o / 4)) (8 * (o % 4)) 16 ∧
      tripleField ws o = bits (word (o / 4)) 0 24 ∧ wordField ws o = word (o / 4)) ∧
  ∀ (s : State) (i : Instr) (b : WriteBeat) (kind : RecordKind) (id : Nat) (flag : Bool),
    presents i (.write b) → s.path.resetAsserted = false → s.path.waiting = [] →
    (s.classify b.address = .callCommand id ∧ kind = .call ∧ flag = false ∨
      s.classify b.address = .agentCommand id ∧ kind = .agent ∧ flag = false ∨
      s.classify b.address = .agentFlags id ∧ kind = .agent ∧ flag = true ∨
      s.classify b.address = .queueCommand id ∧ kind = .queue ∧ flag = false ∨
      s.classify b.address = .partCommand ∧ kind = .part ∧ id = 0 ∧ flag = false) →
    s.intake.length < 32 →
    ∃ t e, exec i s = .next t ∧ t.intake = s.intake ++ [e] ∧ EntryMade s kind id flag b e ∧ OneMorePending kind id s t ∧
      t.path.forward = s.path.forward ++ [.write b] ∧ FeedsTracked b s t ∧
      Changes [.intake, .calls, .agents, .queues, .feeds, .forward, .passCount] s t

/-- A full intake holds the beat, and with it every beat behind it; the held beat is accepted once there is room (R149). A
beat at the front that makes no entry, a read or a write to no command word, is accepted whatever the intake holds, and acts
as it does when it is presented with no beat waiting (log 18). -/
def Obligations.AFullIntakeHoldsTheBeat : Prop :=
  ∀ (s : State), s.path.resetAsserted = false →
    (∀ i b, presents i b → s.path.waiting ≠ [] →
      ∃ t, exec i s = .next t ∧ t.path.waiting = s.path.waiting ++ [b] ∧ Changes [.waiting, .passCount] s t) ∧
    (∀ i b, presents i (.write b) → (s.classify b.address).command.isSome = true → 32 ≤ s.intake.length →
      s.path.waiting = [] →
      ∃ t, exec i s = .next t ∧ t.path.waiting = [.write b] ∧ Changes [.waiting, .passCount] s t) ∧
    (∀ b rest, s.path.waiting = .write b :: rest → (s.classify b.address).command.isSome = true → 32 ≤ s.intake.length →
      ∃ t, exec .heldCommandBeat s = .next t ∧ Changes [.passCount] s t) ∧
    (∀ b rest kind id flag, s.path.waiting = .write b :: rest →
      (s.classify b.address).command = some (kind, id, flag) → s.intake.length < 32 →
      ∃ t e, exec .heldCommandBeat s = .next t ∧ t.path.waiting = rest ∧ t.intake = s.intake ++ [e] ∧
        EntryMade s kind id flag b e ∧ OneMorePending kind id s t ∧ t.path.forward = s.path.forward ++ [.write b] ∧
        FeedsTracked b s t ∧ Changes [.waiting, .intake, .calls, .agents, .queues, .feeds, .forward, .passCount] s t) ∧
    (∀ i b rest, presents i b → s.path.waiting = b :: rest →
      (∀ w, b = .write w → (s.classify w.address).command = none) →
      ∃ u, exec i { s with path := { s.path with waiting := [] } } = .next u ∧
        exec .heldCommandBeat s = .next { u with path := { u.path with waiting := rest } })

/-- A write beat to a host-owned word, the configuration block or the library updates the enabled lanes of that staging word
alone (R145, R147), and is forwarded; one to a word under an outstanding loading read is noted in it (R153; log 29), and
nothing else of the part's control changes; a write to any other word that is no command word changes no staging. -/
def Obligations.StagingFollowsWriteBeats : Prop :=
  ∀ (s : State) (i : Instr) (b : WriteBeat), presents i (.write b) → s.path.resetAsserted = false → s.path.waiting = [] →
    (s.classify b.address).command = none →
    let noted := fun (table : LoadTable) (index word : Nat) (t : State) =>
      t.part =
        { s.part with
          burst := s.part.burst.map fun r =>
            if table = r.first.table ∧ index = r.first.index ∧ r.first.word ≤ word ∧ word < r.first.word + r.beats then
              { r with hostWrote := r.hostWrote ++ [(word, b)] }
            else r }
    ∃ t, exec i s = .next t ∧ t.path.forward = s.path.forward ++ [.write b] ∧ FeedsTracked b s t ∧
      Changes [.staging, .feeds, .forward, .loading, .passCount] s t ∧ (s.part.burst = none → t.part = s.part) ∧
      (∀ c w, s.classify b.address = .callHost c w →
        ∃ x, LanesWritten (Table.read 0 s.staging.calls (16 * c + w)) b x ∧
          (∀ n, Table.read 0 t.staging.calls n = if n = 16 * c + w then x else Table.read 0 s.staging.calls n) ∧
          t.staging = { s.staging with calls := t.staging.calls } ∧ noted .call c w t) ∧
      (∀ g w, s.classify b.address = .agentHost g w →
        ∃ x, LanesWritten (Table.read 0 s.staging.agents (16 * g + w)) b x ∧
          (∀ n, Table.read 0 t.staging.agents n = if n = 16 * g + w then x else Table.read 0 s.staging.agents n) ∧
          t.staging = { s.staging with agents := t.staging.agents } ∧ noted .agent g w t) ∧
      (∀ q w, s.classify b.address = .queueHost q w →
        ∃ x, LanesWritten (Table.read 0 s.staging.queues (32 * q + w)) b x ∧
          (∀ n, Table.read 0 t.staging.queues n = if n = 32 * q + w then x else Table.read 0 s.staging.queues n) ∧
          t.staging = { s.staging with queues := t.staging.queues } ∧ noted .queue q w t) ∧
      (∀ w, s.classify b.address = .configWord w →
        ∃ x, LanesWritten (Table.read 0 s.staging.config w) b x ∧
          (∀ n, Table.read 0 t.staging.config n = if n = w then x else Table.read 0 s.staging.config n) ∧
          t.staging = { s.staging with config := t.staging.config } ∧ noted .config 0 w t) ∧
      (∀ w, s.classify b.address = .segmentWord w →
        ∃ x, LanesWritten (Table.read 0 s.staging.segments w) b x ∧
          (∀ n, Table.read 0 t.staging.segments n = if n = w then x else Table.read 0 s.staging.segments n) ∧
          t.staging = { s.staging with segments := t.staging.segments } ∧ t.part = s.part) ∧
      (∀ w, s.classify b.address = .programWord w →
        ∃ x, LanesWritten (Table.read 0 s.staging.programs w) b x ∧
          (∀ n, Table.read 0 t.staging.programs n = if n = w then x else Table.read 0 s.staging.programs n) ∧
          t.staging = { s.staging with programs := t.staging.programs } ∧ t.part = s.part) ∧
      ((∀ c w, s.classify b.address ≠ .callHost c w) → (∀ g w, s.classify b.address ≠ .agentHost g w) →
        (∀ q w, s.classify b.address ≠ .queueHost q w) → (∀ w, s.classify b.address ≠ .configWord w) →
        (∀ w, s.classify b.address ≠ .segmentWord w) → (∀ w, s.classify b.address ≠ .programWord w) →
        t.staging = s.staging ∧ t.part = s.part)

/-- A counted write moves a feed's head past its highest enabled byte, round the ring, and starts the settling of an ARMING
feed; a beat that is not counted for a feed leaves it as it is (R136). -/
def Obligations.CountedWritesMoveTheHead : Prop :=
  ∀ (s : State) (b : WriteBeat), s.path.resetAsserted = false → s.path.waiting = [] →
    (s.classify b.address).command = none →
    let past := (b.address &&& 0xFFFFFFFC) +
      (if b.enables.getLsbD 3 then 4 else if b.enables.getLsbD 2 then 3 else if b.enables.getLsbD 1 then 2 else 1)
    ∃ t, exec (.feedCountedWrite b) s = .next t ∧ t.path.forward = s.path.forward ++ [.write b] ∧
      Changes [.staging, .feeds, .forward, .loading, .passCount] s t ∧
      ∀ f, (f < 4 → (s.feed f).Counts b →
          let head := if past = (s.feed f).latched.ringEnd then (s.feed f).latched.ringStart else past
          ((s.feed f).state = .arming → (s.feed f).settling = false →
            t.feed f = { s.feed f with head := head, lastWrite := s.tick, settling := true, settleCount := 0 }) ∧
          ((s.feed f).state ≠ .arming ∨ (s.feed f).settling = true →
            t.feed f = { s.feed f with head := head, lastWrite := s.tick })) ∧
        (4 ≤ f ∨ ¬ (s.feed f).Counts b → t.feed f = s.feed f)

/-- A voice read is answered lane by lane from the context's buffer (R125): a disabled lane returns the silence code, an
enabled one the next sample or, with none left, the silence code, and one shortfall or more raises the call's underrun count
by 1. A context left at a fill of 8 or less on a FEED step looks at its feed in the same event (R140): off the ring of a
LIVE feed it joins it, on the ring of one not LIVE it goes to its fallback. A STARTING context answers silence and nothing
changes. That the fallback's descriptor is read at the switch is the model's reading (log 38). -/
def Obligations.VoiceReadsTakeTheNextSamples : Prop :=
  ∀ (s : State) (i : Instr) (b : ReadBeat) (ch k : Nat), presents i (.read b) → s.path.resetAsserted = false →
    s.path.waiting = [] → s.part.state = .active → b.tag = s.part.config.voiceTag → s.classify b.address = .channel ch →
    s.binding ch = some k →
    let x := s.context k
    let asked := (List.range 4).filter fun l => b.enables.getLsbD l
    let lane := fun l =>
      if b.enables.getLsbD l then
        x.buffer.getD (asked.filter (· < l)).length s.part.config.silence
      else s.part.config.silence
    let drained := { x with buffer := x.buffer.drop asked.length }
    let leaves := fun (z : Context) =>
      ∃ t word, exec i s = .next t ∧ t.path.answer = .data word ∧
        (∀ l < 4, word.extractLsb' (8 * l) 8 = lane l) ∧
        t.context k = z ∧ ContextsBut k s t ∧
        t.call x.call =
          { s.call x.call with
            underruns :=
              if x.buffer.length < asked.length then min ((s.call x.call).underruns + 1) 65535
              else (s.call x.call).underruns } ∧
        CallsBut x.call s t ∧ Changes [.answer, .contexts, .calls, .passCount] s t
    (x.state = .playing → (∀ f, ¬ drained.reads f) → leaves drained) ∧
    (∀ f, x.state = .playing → drained.reads f →
      let seg := s.segment x.step.arg
      (((s.feed f).state = .live ↔ x.source = .ring) → leaves drained) ∧
      ((s.feed f).state = .live → x.source ≠ .ring →
        leaves { drained with source := .ring, pointer := (s.feed f).joinPlace, position := 0 }) ∧
      ((s.feed f).state ≠ .live → x.source = .ring → seg.defined = true →
        leaves
          { drained with
            source := .segment, segment := seg, position := if 0 < seg.length then 0 else seg.loopStart }) ∧
      ((s.feed f).state ≠ .live → x.source = .ring → seg.defined = false →
        leaves { drained with source := .silence, position := 0 })) ∧
    (x.state = .starting →
      ∃ t word, exec i s = .next t ∧ t.path.answer = .data word ∧
        (∀ l < 4, word.extractLsb' (8 * l) 8 = s.part.config.silence) ∧ Changes [.answer, .passCount] s t)

/-- The other reads (R146, R161, R165): the part answers the status block, the event window and the queues' part-owned words
in every state, and the calls' and agents' in ACTIVE; the event window's first word chooses the shown event, DISPATCH first;
every other read passes to memory. -/
def Obligations.ReadsAreAnsweredFromLiveState : Prop :=
  ∀ (s : State) (i : Instr) (b : ReadBeat), presents i (.read b) → s.path.resetAsserted = false → s.path.waiting = [] →
    let answers := fun (w : Word) => ∃ t, exec i s = .next t ∧ t.path.answer = .data w ∧ Changes [.answer, .passCount] s t
    let passes := ∃ t, exec i s = .next t ∧ t.path.forward = s.path.forward ++ [.read b] ∧ Changes [.forward, .passCount] s t
    let cls := fun (r : EventRecord) =>
      (match r.cls with
        | .dispatch => 1 | .call => 2 | .agent => 3 | .queue => 4 | .playout => 5 | .supervision => 6 : Nat)
    let kind := fun (r : EventRecord) =>
      (match r.kind with
      | .offer => 1 | .offerWithdrawn => 2 | .offerExpired => 3 | .overflowed => 16 | .maxWait => 17 | .programEnd => 18
      | .wrapEnd => 32 | .ewtHigh => 48 | .ewtNormal => 49 | .playoutFault => 64 | .feedMissing => 80 | .feedLive => 81
      | .timebaseSubst => 82 | .timebaseRestored => 83 : Nat)
    let record := fun (r : EventRecord) (w : Nat) =>
      if w = 0 then packHalves r.sequence (cls r + 256 * kind r)
      else if w = 1 then packHalves (r.call.getD 0xFFFF) (r.agent.getD 0xFFFF)
      else if w = 2 then packHalves (r.target.getD 0xFFFF) r.detail else r.tick
    (∀ w, s.classify b.address = .statusWord w → answers (s.statusWord w)) ∧
    (∀ q w, s.classify b.address = .queuePart q w → answers (s.queueWord q w)) ∧
    (∀ c w, s.classify b.address = .callPart c w → s.part.state = .active → answers (s.callWord c w)) ∧
    (∀ g w, s.classify b.address = .agentPart g w → s.part.state = .active → answers (s.agentWord g w)) ∧
    (∀ c w, s.classify b.address = .callPart c w ∨ s.classify b.address = .agentPart c w → s.part.state ≠ .active → passes) ∧
    (s.classify b.address = .eventWord 0 →
      ∃ t, exec i s = .next t ∧
        t.events.shown =
          (match s.events.dispatch, s.events.notices with
            | r :: _, _ => some r
            | [], r :: _ => some r
            | [], [] => none) ∧
        (∀ r, t.events.shown = some r → t.path.answer = .data (record r 0)) ∧
        (t.events.shown = none → t.path.answer = .data 0) ∧ Changes [.answer, .shown, .passCount] s t) ∧
    (∀ w, s.classify b.address = .eventWord w → 1 ≤ w → w < 4 →
      (∀ r, s.events.shown = some r → answers (record r w)) ∧ (s.events.shown = none → answers 0)) ∧
    (∀ c w, s.classify b.address = .callHost c w ∨ s.classify b.address = .agentHost c w ∨
        s.classify b.address = .queueHost c w ∨ s.classify b.address = .callCommand c ∨ s.classify b.address = .agentCommand c ∨
        s.classify b.address = .agentFlags c ∨ s.classify b.address = .queueCommand c ∨ s.classify b.address = .partCommand ∨
        s.classify b.address = .configWord w ∨ s.classify b.address = .segmentWord w ∨
        s.classify b.address = .programWord w ∨ s.classify b.address = .outside → passes) ∧
    (∀ ch, s.classify b.address = .channel ch →
      s.part.state ≠ .active ∨ b.tag ≠ s.part.config.voiceTag ∨ s.binding ch = none → passes)

/-- A pass-through beat takes the slot in the order of acceptance, unless the part's own side has waited through 8 (R127,
R155). `own`: a servable request of the part's own stands. That the count is 0 after every event that leaves none is stated
with the invariants every step keeps (`PassCountRests`). -/
def Obligations.PassThroughBeatsAreGranted : Prop :=
  ∀ (s : State) (b : Beat) (rest : List Beat), s.path.forward = b :: rest → s.path.resetAsserted = false →
    let own : Prop :=
      s.part.state = .loading ∧ s.part.burst = none ∧ s.part.cursor ≠ none ∨
        s.playout.fetch = none ∧ ∃ e ∈ s.playout.contexts, s.requests e.2 = true
    (¬ own → ∃ t, exec .passThroughBeatGrant s = .next t ∧ t.path.forward = rest ∧ t.path.port = .passThrough b ∧
      t.path.passCount = 0 ∧ Changes [.forward, .port, .passCount] s t) ∧
    (own → s.path.passCount < 8 →
      ∃ t, exec .passThroughBeatGrant s = .next t ∧ t.path.forward = rest ∧ t.path.port = .passThrough b ∧
        t.path.passCount = s.path.passCount + 1 ∧ Changes [.forward, .port, .passCount] s t) ∧
    (own → 8 ≤ s.path.passCount → exec .passThroughBeatGrant s = .next s)

/-- RESET and its release (R144, R157). RESET drops the beats accepted and not yet forwarded with an error response,
abandons the part's own requests and forwards every beat from then on; the release leaves the cold-reset values with the
straps sampled, and a further edge of either kind changes nothing. Beats already forwarded keep their place (log 23).
Responses still to come to abandoned requests are forgotten (log 43). Stated are the values the rules give (R6, R29, R49,
R84, R95, R109, R113, R131, R132, R135, R157); those no rule gives are left to log 25. -/
def Obligations.ResetGivesTheColdValues : Prop :=
  ∀ (s : State) (straps : BitVec 4),
    let noFeed : FeedConfig := { ringStart := 0, ringEnd := 0, enable := false, tag := 0, timeout := 0, settle := 0, delay := 0 }
    (s.path.resetAsserted = false →
      ∃ t, exec .reset s = .next t ∧ t.path.resetAsserted = true ∧ t.irq = false ∧
        t.path.answer = .errors s.path.forward ∧ t.path.forward = s.path.waiting ∧ t.path.waiting = [] ∧
        t.playout.fetch = none ∧ t.part.cursor = none ∧ t.part.burst = none) ∧
    (s.path.resetAsserted = true →
      (∀ i b, presents i b →
        ∃ t, exec i s = .next t ∧ t.path.forward = s.path.forward ++ [b] ∧ Changes [.forward] s t) ∧
      ∃ t, exec (.resetRelease straps) s = .next t ∧ t.path.resetAsserted = false ∧ t.path.straps = straps ∧
        t.path.forward = s.path.forward ∧ t.pending = s.pending ∧
        t.part.state = .pass ∧ t.part.error = .none ∧ t.part.result = { code := 0, token := 0, result := .ok } ∧
        t.part.config =
          { callBase := 0, agentBase := 0, channelBase := 0, voiceTag := 0, enables := 0, silence := 0, wrapCeiling := 0
            feeds := List.replicate 4 noFeed } ∧
        t.staging = {} ∧ t.intake = [] ∧ t.path.port = .idle ∧ t.path.passCount = 0 ∧
        t.time.state = .starting ∧ t.time.frames = 0 ∧ t.time.tick = 0 ∧ t.time.silence = 8 ∧
        t.time.history = List.replicate 8 false ∧
        (∀ c, t.call c =
          { t.call c with
            state := .free, currentQueue := none, agent := none, context := none, hops := 0, attempts := 0, underruns := 0
            firstEntry := 0, queueEntry := 0, answerTick := 0, seniority := 0, offerExpiry := none, overflowDue := none
            maxWaitDue := none, result := { code := 0, token := 0, result := .ok }, pendingCount := 0 }) ∧
        (∀ a, t.agent a =
          { t.agent a with
            state := .loggedOut, currentCall := none, lastQueue := none, wrapRemaining := 0, heldAnswer := 0, stateEntry := 0
            flags := { autoReady := false, pendNotReady := false, pendLogout := false, rnaMark := false }
            talk := 0, wrap := 0, availableTime := 0, notReadyTime := 0, callsHandled := 0, skills := [], wrapLength := 0
            result := { code := 0, token := 0, result := .ok }, pendingCount := 0 }) ∧
        (∀ q, t.queue q =
          { t.queue q with
            state := .idle, paused := false, waiting := [], occupancy := 0, entered := 0, answered := 0, answeredInSl := 0
            abandoned := 0, overflowedOut := 0, staffed := 0, available := 0, handle := 0, ewt := 0, alarm := .normal
            settings :=
              { capacity := 0, arbitration := 0, shift := 0, queueProgram := 0, holdProgram := 0, mode := .none, target := 0
                offerTimeout := 0, overflowAfter := 0, threshold := 0, maxWait := 0, wrapLength := 0, serviceLevel := 0
                seed := 0, upper := 0, lower := 0 }
            result := { code := 0, token := 0, result := .ok }, pendingCount := 0 }) ∧
        (∀ k, t.context k = { t.context k with state := .free, buffer := [], stack := [], inFlight := false }) ∧
        (∀ ch, t.binding ch = none) ∧ t.playout.fetch = none ∧
        (∀ f, t.feed f =
          { t.feed f with
            latched := noFeed, state := .off, head := 0, lastWrite := 0, settleCount := 0, settling := false }) ∧
        (∀ n, t.segment n = { start := 0, length := 16777216, loopStart := 0, defined := false }) ∧
        (∀ n, t.program n =
          { period := 0, interjectionStep := 0, bands := List.replicate 8 0, positions := List.replicate 8 0
            steps := List.replicate 16 { kind := .stop, arg := 0, feed := 0, count := 0, period := 0, on := 0 } }) ∧
        t.deadlines = [] ∧ t.seniority = 0 ∧ t.engine.workList = [] ∧ t.engine.proposal = none ∧ t.samples = [] ∧
        t.events.dispatch = [] ∧ t.events.notices = [] ∧ t.events.sequence = 0 ∧ t.events.lost = false ∧
        t.events.summaries = {} ∧ t.events.shown = none ∧ t.irq = false ∧
        t.statusWord 0 = 0 ∧ t.statusWord 1 = 0 ∧ t.statusWord 2 = 0 ∧ t.statusWord 3 = 512 * 65536 ∧
        t.statusWord 4 = 2048 ∧ t.statusWord 5 = 0) ∧
    (s.path.resetAsserted = true → exec .reset s = .next s) ∧
    (s.path.resetAsserted = false → exec (.resetRelease straps) s = .next s)

/-! ### The clock, deadlines and ticks (08 R131 to R133, 01 R22 to R24, 03 R65, 05 R87, 06 R97 to R106) -/

/-- A frame raises the frame counter, and the one that would bring it to 800 sets it to 0 and raises the tick (R131). An
FSYNC pulse shows in the history and is a frame in EXTERNAL unless it is a glitch; the end of a reference period closes the
history's entry and is a frame in STARTING and SUBSTITUTE; STARTING locks when all 8 entries show a pulse (R132). Whether a
pulse is a glitch is the command's operand (log 7); that the frame precedes the lock is the model's choice (log 8). -/
def Obligations.FramesMakeTicks : Prop :=
  ∀ (s : State), s.path.resetAsserted = false → s.time.frames < 800 → s.time.history.length = 8 →
    let framed := fun (t : State) =>
      t.time.frames = (if s.time.frames = 799 then 0 else s.time.frames + 1) ∧
        t.time.tick = (if s.time.frames = 799 then s.time.tick + 1 else s.time.tick)
    let unframed := fun (t : State) => t.time.frames = s.time.frames ∧ t.time.tick = s.time.tick
    let closed := fun (t : State) =>
      t.time.history = s.time.history.drop 1 ++ [s.time.pulseSeen] ∧ t.time.pulseSeen = false ∧
        t.time.silence = if s.time.pulseSeen = true then 0 else min (s.time.silence + 1) 8
    let pulsed := fun (i : Instr) (isFrame : Prop) =>
      ∃ t, exec i s = .next t ∧ t.time.pulseSeen = true ∧ t.time.history = s.time.history ∧
        t.time.silence = s.time.silence ∧ t.time.state = s.time.state ∧ (isFrame → framed t) ∧ (¬ isFrame → unframed t) ∧
        Changes [.time, .passCount] s t
    let periodEnds := fun (i : Instr) =>
      (s.time.state = .external → s.time.pulseSeen = true ∨ s.time.silence < 2 →
        ∃ t, exec i s = .next t ∧ closed t ∧ unframed t ∧ t.time.state = .external ∧ Changes [.time, .passCount] s t) ∧
      (s.time.state = .substitute →
        ∃ t, exec i s = .next t ∧ closed t ∧ framed t ∧ t.time.state = .substitute ∧ Changes [.time, .passCount] s t) ∧
      (s.time.state = .starting →
        ∃ t, exec i s = .next t ∧ closed t ∧ framed t ∧
          t.time.state = (if (s.time.history.drop 1 ++ [s.time.pulseSeen]).all id = true then .external else .starting) ∧
          Changes [.time, .passCount] s t)
    (∀ early, pulsed (.fsyncPulse early) (s.time.state = .external ∧ early = false)) ∧
    periodEnds .referencePeriodEnd ∧
    (s.time.frames = 799 →
      (s.time.state = .external → pulsed .tick True) ∧ (s.time.state ≠ .external → periodEnds .tick))

/-- The loss of FSYNC (R133): at the end of the third reference period in a row without a pulse, EXTERNAL goes to
SUBSTITUTE, three frames are made up, and TIMEBASE_SUBST is posted at the present tick. -/
def Obligations.LossMakesUpThreeFrames : Prop :=
  ∀ (s : State) (i : Instr), i = .timebaseSubst ∨ i = .referencePeriodEnd → s.path.resetAsserted = false →
    s.time.frames < 800 → s.time.state = .external → s.time.silence = 2 → s.time.pulseSeen = false →
    ∃ t, exec i s = .next t ∧ t.time.state = .substitute ∧
      t.time.frames = (s.time.frames + 3) % 800 ∧
      t.time.tick = (if 800 ≤ s.time.frames + 3 then s.time.tick + 1 else s.time.tick) ∧
      t.time.silence = 3 ∧ t.time.history = s.time.history.drop 1 ++ [false] ∧ t.time.pulseSeen = false ∧
      t.events = ({ s with time := t.time }.post .supervision .timebaseSubst none none none 0).events ∧
      (∃ u, exec .referencePeriodEnd { t with time := { t.time with pulseSeen := true } } = .next u ∧
        u.time.frames = (s.time.frames + 4) % 800 ∧ u.time.state = .substitute) ∧
      Changes (posting ++ [.time, .passCount]) s t

/-- A due offer expires (R24, R80): the front entry of the deadline list is an OFFERED call's whose offer expiry has been
reached. The call is restored to the place its keys give, the agent goes to NOT_READY, and OFFER_EXPIRED is posted. -/
def Obligations.ADueOfferExpires : Prop :=
  ∀ (s : State) (d : Deadline) (due : Tick) (a q : Nat), s.path.resetAsserted = false →
    frontDeadline s.tick s.deadlines = some d → (s.tick - d.due).toNat < 2 ^ 31 →
    (s.call d.call).state = .offered → (s.call d.call).offerExpiry = some due → (s.tick - due).toNat < 2 ^ 31 →
    (s.call d.call).agent = some a → (s.call d.call).currentQueue = some q → (s.agent a).state = .offered →
    duplicateSkill (s.agent a).skills = false →
    let rearmed := fun (x : Option Tick) => x.map fun k => if (s.tick - k).toNat < 2 ^ 31 then s.tick + 1 else k
    ∃ t, exec .offerExpiry s = .next t ∧
      t.call d.call =
        { s.call d.call with
          state := .queued, agent := none, lastEnd := .expired, offerExpiry := none
          overflowDue := rearmed (s.call d.call).overflowDue, maxWaitDue := rearmed (s.call d.call).maxWaitDue } ∧
      CallsBut d.call s t ∧
      t.agent a = { s.agent a with state := .notReady, currentCall := none, stateEntry := s.tick,
                                   flags := { (s.agent a).flags with rnaMark := true } } ∧
      AgentsBut a s t ∧
      (∀ r, t.queue r =
        { s.queue r with
          waiting := if r = q then s.insertByKeys d.call (s.queue q).waiting else (s.queue r).waiting
          staffed := if (s.agent a).names r then (s.queue r).staffed - 1 else (s.queue r).staffed }) ∧
      t.engine.workList = withTrigger s.engine.workList (.call d.call) ∧
      t.events = (s.post .dispatch .offerExpired (some d.call) (some a) (some q) (s.call d.call).attempts).events ∧
      EntryReinserted d.call s t ∧
      Changes (posting ++ [.calls, .agents, .queues, .deadlines, .workList, .passCount]) s t

/-- The front of the deadline list is the entry R23 orders first: reached longest ago, then nearest ahead, the one inserted
first among equal due ticks; and a call's entry is for its earliest armed slot, MAX_WAIT_DUE before OVERFLOW_DUE at a tie
(R22, R23). A due maximum wait is reported once, and a due overflow is taken (R24, R41 to R43): the front entry is a QUEUED
call's with a slot reached. MAX_WAIT comes first; the overflow is then NOT_TIMED, REFUSED (tried again at the next tick) or
MOVED into the target by the call's unchanged keys. Stated where the target is another queue, as R28's validation has it. -/
def Obligations.ADueWaitIsReportedOrOverflows : Prop :=
  (∀ (s : State) (c : Nat),
    let late := fun k : Tick => (s.tick - k).toNat < 2 ^ 31
    let earlier := fun j k : Tick =>
      late j ∧ ¬ late k ∨ late j ∧ late k ∧ (s.tick - k).toNat < (s.tick - j).toNat ∨
        ¬ late j ∧ ¬ late k ∧ (j - s.tick).toNat < (k - s.tick).toNat
    let x := s.call c
    (∀ l, frontDeadline s.tick l = none ↔ l = []) ∧
    (∀ l d, frontDeadline s.tick l = some d →
      ∃ front back, l = front ++ d :: back ∧ (∀ e ∈ front, earlier d.due e.due) ∧ ∀ e ∈ back, ¬ earlier e.due d.due) ∧
    (x.state = .free ∨ x.state = .connected ∨ x.state = .agentHold → s.deadlineOf c = none) ∧
    (x.state = .offered → s.deadlineOf c = x.offerExpiry.map fun k => { call := c, kind := .offerExpiry, due := k }) ∧
    (x.state = .queued →
      (x.maxWaitDue = none → x.overflowDue = none → s.deadlineOf c = none) ∧
      (∀ k, x.maxWaitDue = some k → (∀ j, x.overflowDue = some j → ¬ earlier j k) →
        s.deadlineOf c = some { call := c, kind := .maxWaitDue, due := k }) ∧
      (∀ j, x.overflowDue = some j → (∀ k, x.maxWaitDue = some k → earlier j k) →
        s.deadlineOf c = some { call := c, kind := .overflowDue, due := j }))) ∧
  ∀ (s : State) (d : Deadline) (q : Nat), s.path.resetAsserted = false →
    frontDeadline s.tick s.deadlines = some d → (s.tick - d.due).toNat < 2 ^ 31 → (s.call d.call).state = .queued →
    (s.call d.call).currentQueue = some q →
    let x := s.call d.call
    let late := fun (slot : Option Tick) => ∃ k, slot = some k ∧ (s.tick - k).toNat < 2 ^ 31
    let told := s.post .call .maxWait (some d.call) none (some q) (min (s.tick - x.queueEntry).toNat 65535)
    let g := (s.queue q).settings
    let timed : Prop := (g.mode = .time ∨ g.mode = .both) ∧ g.overflowAfter ≠ 0 ∧ g.target ≠ 255 ∧ x.hops < 3
    let taken : Prop := (s.queue g.target).state = .open ∧ (s.queue g.target).occupancy < (s.queue g.target).settings.capacity
    (late x.maxWaitDue → ¬ late x.overflowDue →
      ∃ t, exec .maxWaitDue s = .next t ∧ t.call d.call = { x with maxWaitDue := none } ∧ t.events = told.events ∧
        CallsBut d.call s t ∧ EntryReinserted d.call s t ∧ Changes (posting ++ [.calls, .deadlines, .passCount]) s t) ∧
    (late x.overflowDue → ∀ i before m,
      (¬ late x.maxWaitDue ∧ i = .overflowDue ∧ before = s ∧ m = x.maxWaitDue ∨
        late x.maxWaitDue ∧ (i = .overflowDue ∨ i = .maxWaitDue) ∧ before = told ∧ m = none) →
      (¬ timed ∨ ¬ taken →
        ∃ t, exec i s = .next t ∧
          t.call d.call = { x with maxWaitDue := m, overflowDue := if timed then some (s.tick + 1) else none } ∧
          t.events = before.events ∧ CallsBut d.call s t ∧ EntryReinserted d.call s t ∧
          Changes (posting ++ [.calls, .deadlines, .passCount]) s t) ∧
      (timed → taken → g.target ≠ q →
        let h := (s.queue g.target).settings
        ∃ t, exec i s = .next t ∧
          t.call d.call =
            { x with
              currentQueue := some g.target, hops := x.hops + 1, queueEntry := s.tick, offerExpiry := none
              overflowDue :=
                if (h.mode = .time ∨ h.mode = .both) ∧ h.overflowAfter ≠ 0 ∧ h.target ≠ 255 ∧ x.hops + 1 < 3 then
                  some (s.tick + BitVec.ofNat 32 h.overflowAfter) else none
              maxWaitDue := if h.maxWait ≠ 0 then some (s.tick + BitVec.ofNat 32 h.maxWait) else none } ∧
          t.queue q =
            { s.queue q with
              waiting := (s.queue q).waiting.filter (· != d.call), occupancy := (s.queue q).occupancy - 1
              overflowedOut := (s.queue q).overflowedOut + 1 } ∧
          t.queue g.target =
            { s.queue g.target with
              waiting := s.insertByKeys d.call (s.queue g.target).waiting
              occupancy := (s.queue g.target).occupancy + 1, entered := (s.queue g.target).entered + 1 } ∧
          (∀ r, r ≠ q → r ≠ g.target → t.queue r = s.queue r) ∧
          t.events = (before.post .call .overflowed (some d.call) none (some g.target) q).events ∧
          t.engine.workList = withTrigger s.engine.workList (.call d.call) ∧
          CallsBut d.call s t ∧ EntryReinserted d.call s t ∧
          Changes (posting ++ [.calls, .queues, .deadlines, .workList, .passCount]) s t))

/-- A tick the agent has not taken yet (log 4) adds to the accumulator of the agent's state and counts a wrap-up down (R65,
R87); the one that brings the wrap remaining to 0 ends the wrap-up by the flags, hands over the sample and posts WRAP_END
(R91, R93). That the held answer tick is 0 afterwards is the model's choice (log 35). -/
def Obligations.AgentTicksCountAndEndWrapUp : Prop :=
  ∀ (s : State) (a : Nat), a < 1024 → s.path.resetAsserted = false → (s.agent a).ticksTaken ≠ s.tick →
    let g := s.agent a
    let counted : Agent :=
      { g with
        ticksTaken := g.ticksTaken + 1
        notReadyTime := if g.state = .notReady then g.notReadyTime + 1 else g.notReadyTime
        availableTime := if g.state = .available then g.availableTime + 1 else g.availableTime
        talk := if g.state = .offered ∨ g.state = .busy then g.talk + 1 else g.talk
        wrap := if g.state = .wrapUp then g.wrap + 1 else g.wrap }
    (g.state ≠ .wrapUp →
      ∃ t, exec (.agentTick a) s = .next t ∧ t.agent a = counted ∧ AgentsBut a s t ∧ Changes [.agents, .passCount] s t) ∧
    (g.state = .wrapUp → 1 < g.wrapRemaining →
      ∃ t, exec (.agentTick a) s = .next t ∧ t.agent a = { counted with wrapRemaining := g.wrapRemaining - 1 } ∧
        AgentsBut a s t ∧ Changes [.agents, .passCount] s t) ∧
    (∀ i q, i = .agentTick a ∨ i = .wrapCountdownEnd a → g.state = .wrapUp → g.wrapRemaining = 1 → g.lastQueue = some q →
      duplicateSkill g.skills = false →
      let out : AgentState :=
        if g.flags.pendLogout then .loggedOut else if g.flags.pendNotReady then .notReady
        else if g.flags.autoReady then .available else .notReady
      let n := min (s.tick - g.heldAnswer).toNat 65535
      ∃ t, exec i s = .next t ∧
        t.agent a =
          { counted with
            state := out, stateEntry := s.tick, wrapRemaining := 0, heldAnswer := 0
            flags := { g.flags with pendNotReady := false, pendLogout := false } } ∧
        (∀ r, t.queue r =
          if g.names r then
            (if out = .available then { s.queue r with available := (s.queue r).available + 1 }
              else { s.queue r with staffed := (s.queue r).staffed - 1 })
          else s.queue r) ∧
        t.engine.workList = (if out = .available then withTrigger s.engine.workList (.agent a) else s.engine.workList) ∧
        t.samples = s.samples ++ [{ queue := q, ticks := n }] ∧
        t.events = (s.post .agent .wrapEnd none (some a) (some q) n).events ∧
        AgentsBut a s t ∧ Changes (posting ++ [.agents, .queues, .workList, .samples, .passCount]) s t)

/-- A sample is smoothed into H (R97): H moves toward 16 times the sample by the signed difference divided by 2^k toward
zero, kept in 0 to 1,048,560; for an IDLE queue the sample is discarded. Any of the samples handed over may be the next
(R98; log 10). -/
def Obligations.SamplesAreSmoothed : Prop :=
  ∀ (s : State) (i : Nat) (x : Sample), s.path.resetAsserted = false → s.samples[i]? = some x →
    let q := s.queue x.queue
    let d : Int := 16 * (x.ticks : Int) - (q.handle : Int)
    let p : Int := 2 ^ q.settings.shift
    (q.state = .idle →
      ∃ t, exec (.handleTimeSample i) s = .next t ∧ t.samples = s.samples.eraseIdx i ∧ Changes [.samples, .passCount] s t) ∧
    (q.state ≠ .idle →
      ∃ t, ∃ adj : Int, exec (.handleTimeSample i) s = .next t ∧ t.samples = s.samples.eraseIdx i ∧
        (0 ≤ d → 0 ≤ adj ∧ p * adj ≤ d ∧ d < p * (adj + 1)) ∧ (d ≤ 0 → adj ≤ 0 ∧ d ≤ p * adj ∧ p * (adj - 1) < d) ∧
        ((t.queue x.queue).handle : Int) = min (max ((q.handle : Int) + adj) 0) 1048560 ∧
        t.queue x.queue = { q with handle := (t.queue x.queue).handle } ∧
        QueuesBut x.queue s t ∧ Changes [.samples, .queues, .passCount] s t)

/-- A tick the queue has not taken yet (log 4) republishes the EWT of the next caller to arrive, and checks the alarm
against it (R99, R100, R104). An IDLE queue is left out: the model counts its tick as taken (log 4). -/
def Obligations.TicksRepublishTheWait : Prop :=
  ∀ (s : State) (n : Nat), n < 64 → s.path.resetAsserted = false → (s.queue n).ticksTaken ≠ s.tick →
    let q := s.queue n
    let place := min (q.waiting.length + 1) 2048
    (q.state = .idle →
      ∃ t, exec (.ewtRepublish n) s = .next t ∧ t.queue n = { q with ticksTaken := q.ticksTaken + 1 } ∧ QueuesBut n s t ∧
        Changes [.queues, .passCount] s t) ∧
    (q.state ≠ .idle → ∀ ewt,
      (q.staffed = 0 ∧ ewt = 65535 ∨
        0 < q.staffed ∧ ewt = min ((place * q.handle + 16 * q.staffed - 1) / (16 * q.staffed)) 65535) →
      ∃ t, exec (.ewtRepublish n) s = .next t ∧ QueuesBut n s t ∧ Changes (posting ++ [.queues, .passCount]) s t ∧
        (q.alarm = .normal → q.settings.upper ≠ 0 ∧ q.settings.upper < ewt →
          t.queue n = { q with ticksTaken := q.ticksTaken + 1, ewt := ewt, alarm := .high } ∧
          t.events = (s.post .queue .ewtHigh none none (some n) ewt).events) ∧
        (q.alarm = .high → ewt < q.settings.lower →
          t.queue n = { q with ticksTaken := q.ticksTaken + 1, ewt := ewt, alarm := .normal } ∧
          t.events = (s.post .queue .ewtNormal none none (some n) ewt).events) ∧
        (q.alarm = .normal ∧ ¬ (q.settings.upper ≠ 0 ∧ q.settings.upper < ewt) ∨ q.alarm = .high ∧ ¬ ewt < q.settings.lower →
          t.queue n = { q with ticksTaken := q.ticksTaken + 1, ewt := ewt } ∧ t.events = s.events))

/-! ### The Match Engine (04 R66 to R76) -/

/-- An agent trigger (R68 to R70): dropped unless its agent is AVAILABLE with an eligible queue (one of its active list, not
PAUSED, with a waiting call); else the best eligible queue by the five keys is chosen, and the proposal pairs its head with
the agent, under a reservation. A call trigger (R71): dropped unless its call is QUEUED in a queue not PAUSED that an
AVAILABLE agent names; else the best such agent by the three keys is paired with the queue's head. -/
def Obligations.TriggersChooseTheBestPair : Prop :=
  (∀ (s : State) (a : Nat) (rest : List Trigger), s.path.resetAsserted = false → s.part.state = .active →
     s.engine.proposal = none → s.events.dispatch.length < 128 → s.engine.workList = .agent a :: rest →
     let eligible := fun (k : Skill) =>
       k ∈ (s.agent a).skills ∧ (s.queue k.queue).paused = false ∧ (s.queue k.queue).waiting ≠ []
     let head := fun (k : Skill) => s.call ((s.queue k.queue).waiting.headD 0)
     let waited := fun (k : Skill) => (s.tick - (head k).firstEntry).toNat
     let level := fun (k : Skill) => (s.queue k.queue).settings.arbitration
     let before := fun (x y : Skill) =>
       x.level < y.level ∨ x.level = y.level ∧
         (level y < level x ∨ level x = level y ∧
           ((head y).priority < (head x).priority ∨ (head x).priority = (head y).priority ∧
             (waited y < waited x ∨ waited x = waited y ∧ x.queue < y.queue)))
     ((s.agent a).state ≠ .available ∨ (∀ k, ¬ eligible k) →
       ∃ t, exec .agentTrigger s = .next t ∧ t.engine.workList = rest ∧ Changes [.workList, .passCount] s t) ∧
     ((s.agent a).state = .available → ∀ k, eligible k → (∀ j, eligible j → j ≠ k → before k j) →
       ∃ t c, exec .agentTrigger s = .next t ∧ (s.queue k.queue).waiting.head? = some c ∧ t.engine.workList = rest ∧
         t.engine.proposal = some { call := c, agent := a, queue := k.queue, trigger := .agent a } ∧
         t.engine.reserved = true ∧ Changes [.workList, .proposal, .passCount] s t)) ∧
  (∀ (s : State) (c : Nat) (rest : List Trigger), Canonical s → s.path.resetAsserted = false → s.part.state = .active →
     s.engine.proposal = none → s.events.dispatch.length < 128 → s.engine.workList = .call c :: rest →
     let eligible := fun (q b : Nat) => (s.agent b).state = .available ∧ (s.agent b).names q = true
     let idle := fun (b : Nat) => (s.tick - (s.agent b).stateEntry).toNat
     let before := fun (q a b : Nat) =>
       (s.agent a).level q < (s.agent b).level q ∨ (s.agent a).level q = (s.agent b).level q ∧
         (idle b < idle a ∨ idle a = idle b ∧ a < b)
     let dropped := ∃ t, exec .callTrigger s = .next t ∧ t.engine.workList = rest ∧ Changes [.workList, .passCount] s t
     ((s.call c).state ≠ .queued → dropped) ∧
     (∀ q, (s.call c).state = .queued → (s.call c).currentQueue = some q →
       ((s.queue q).paused = true ∨ (∀ b, ¬ eligible q b) → dropped) ∧
       ((s.queue q).paused = false → ∀ a h, eligible q a → (∀ b, eligible q b → b ≠ a → before q a b) →
         (s.queue q).waiting.head? = some h →
         ∃ t, exec .callTrigger s = .next t ∧ t.engine.workList = rest ∧
           t.engine.proposal = some { call := h, agent := a, queue := q, trigger := .call c } ∧
           t.engine.reserved = true ∧ Changes [.workList, .proposal, .passCount] s t)))

/-- A queue trigger (R72): dropped for a PAUSED queue, else expanded into one agent trigger for each AVAILABLE agent that
names the queue, longest idle first, then by id; no trigger enters the list twice (R66). -/
def Obligations.QueueTriggersExpand : Prop :=
  ∀ (s : State) (q : Nat) (rest : List Trigger), Canonical s → s.path.resetAsserted = false → s.part.state = .active →
    s.engine.proposal = none → s.events.dispatch.length < 128 → s.engine.workList = .queue q :: rest →
    let idle := fun (b : Nat) => (s.tick - (s.agent b).stateEntry).toNat
    ((s.queue q).paused = true →
      ∃ t, exec .queueTrigger s = .next t ∧ t.engine.workList = rest ∧ Changes [.workList, .passCount] s t) ∧
    ((s.queue q).paused = false →
      ∃ t, ∃ order : List Nat, exec .queueTrigger s = .next t ∧
        (∀ a, a ∈ order ↔ (s.agent a).state = .available ∧ (s.agent a).names q = true) ∧
        order.Pairwise (fun a b => idle b < idle a ∨ idle a = idle b ∧ a < b) ∧
        t.engine.workList = order.foldl (fun l a => withTrigger l (.agent a)) rest ∧ Changes [.workList, .passCount] s t)

/-- The commit (R73 to R75): with its three conditions the offer is made, in one event, into the reserved entry; without one
of them nothing changes but the proposal and its trigger, which is put back while its entity still qualifies. That an
unchanged deadline entry keeps its place is the model's reading (log 34). -/
def Obligations.CommitsMakeTheOffer : Prop :=
  ∀ (s : State) (p : Proposal), s.path.resetAsserted = false → s.engine.proposal = some p →
    let x := s.call p.call
    let g := s.agent p.agent
    let holds : Prop :=
      (x.state = .queued ∧ x.currentQueue = some p.queue ∧ (s.queue p.queue).waiting.head? = some p.call) ∧
        g.state = .available ∧ ∃ k ∈ g.skills, k.queue = p.queue
    (holds → duplicateSkill g.skills = false →
      let n := if 65535 ≤ s.events.sequence then 1 else s.events.sequence + 1
      let tries := min (x.attempts + 1) 255
      let timeout := (s.queue p.queue).settings.offerTimeout
      ∃ t, exec .commit s = .next t ∧
        t.call p.call =
          { x with
            state := .offered, agent := some p.agent, attempts := tries
            offerExpiry := if timeout ≠ 0 then some (s.tick + BitVec.ofNat 32 timeout) else none } ∧
        t.agent p.agent = { g with state := .offered, currentCall := some p.call, stateEntry := s.tick } ∧
        (∀ r, t.queue r =
          { s.queue r with
            waiting := if r = p.queue then (s.queue r).waiting.filter (· != p.call) else (s.queue r).waiting
            available := if g.names r then (s.queue r).available - 1 else (s.queue r).available }) ∧
        t.events.dispatch = s.events.dispatch ++
          [{ sequence := n, cls := .dispatch, kind := .offer, call := some p.call, agent := some p.agent
             target := some p.queue, detail := tries, tick := s.tick }] ∧
        t.events.sequence = n ∧ t.events.summaries = { s.events.summaries with dispatch := true } ∧
        t.engine.proposal = none ∧ t.engine.reserved = false ∧
        (∀ c, p.trigger = .call c → c ≠ p.call → (s.call c).state = .queued →
          t.engine.workList = withTrigger s.engine.workList (.call c)) ∧
        ((∀ c, p.trigger = .call c → c = p.call ∨ (s.call c).state ≠ .queued) → t.engine.workList = s.engine.workList) ∧
        EntryFollows p.call s t ∧ CallsBut p.call s t ∧ AgentsBut p.agent s t ∧
        Changes [.calls, .agents, .queues, .deadlines, .workList, .proposal, .dispatch, .sequence, .summaries, .passCount] s t) ∧
    (¬ holds →
      ∃ t, exec .commit s = .next t ∧ t.engine.proposal = none ∧ t.engine.reserved = false ∧
        ((∃ c, p.trigger = .call c ∧ (s.call c).state = .queued) ∨
            (∃ a, p.trigger = .agent a ∧ (s.agent a).state = .available) →
          t.engine.workList = withTrigger s.engine.workList p.trigger) ∧
        (¬ ((∃ c, p.trigger = .call c ∧ (s.call c).state = .queued) ∨
            ∃ a, p.trigger = .agent a ∧ (s.agent a).state = .available) →
          t.engine.workList = s.engine.workList) ∧
        Changes [.workList, .proposal, .passCount] s t)

/-! ### Playout: fetches, arrivals, generated groups, interjections (07 R122 to R129, 08 R140 to R142) -/

/-- A fetch request stands exactly for a context in STARTING or PLAYING with a fill of 8 or less and no fetch in flight
whose activity has a sample left to take from memory, or which has samples available on its ring (R126, R141). The fetcher's
grant (R126, R127, R141, R142, R155): the emptiest standing request goes first, by context number among equals, with two
beats from the word that holds the next sample; a reader of a ring about to be overtaken rejoins first, and its burst is one
beat at the ring's last word. `burst` says what the grant of the samples from `a` leaves. -/
def Obligations.FetchesAreFormedAtTheGrant : Prop :=
  (∀ (s : State) (x : Context),
    let f := s.feed x.step.feed
    let start := f.latched.ringStart.toNat
    let size := f.latched.ringEnd.toNat - start
    let kinds := fun (l : List StepKind) => ∃ i, x.activity = .step i ∧ x.step.kind ∈ l
    s.requests x = true ↔
      (x.state = .starting ∨ x.state = .playing) ∧ x.inFlight = false ∧ x.buffer.length ≤ 8 ∧
      ((x.activity = .announcement ∨ kinds [.play, .sayWait, .sayPosition] ∨ kinds [.feed] ∧ x.source = .segment) ∧
          x.position < x.segment.length ∨
        kinds [.tone] ∧ x.phase < x.step.on ∧
          (x.position < x.segment.length ∨ x.segment.loopStart < x.segment.length) ∨
        kinds [.feed] ∧ x.source = .ring ∧
          0 < (f.head.toNat - start + size - (x.pointer.toNat - start)) % size)) ∧
  ∀ (s : State) (k : Nat), Canonical s → s.path.resetAsserted = false → s.playout.fetch = none →
    (s.path.forward = [] ∨ 8 ≤ s.path.passCount) →
    let x := s.context k
    (x.state = .starting ∨ x.state = .playing) → x.inFlight = false → x.buffer.length ≤ 8 →
    (∀ j, j ≠ k → s.requests (s.context j) = true →
      x.buffer.length < (s.context j).buffer.length ∨ x.buffer.length = (s.context j).buffer.length ∧ k < j) →
    let burst := fun (a : Word) (beats count : Nat) (y : Context) =>
      ∃ t, exec .fetchGrant s = .next t ∧
        t.playout.fetch =
          some { context := k, address := a - BitVec.ofNat 32 (a.toNat % 4), beats := beats, skip := a.toNat % 4, count := count } ∧
        t.path.port = .fetch (a - BitVec.ofNat 32 (a.toNat % 4)) beats ∧ t.path.passCount = 0 ∧
        t.context k = { y with inFlight := true, redirected := false } ∧ ContextsBut k s t ∧
        Changes [.contexts, .fetch, .port, .passCount] s t
    ((x.activity = .announcement ∨ ∃ i, x.activity = .step i ∧
        (x.step.kind = .play ∨ x.step.kind = .sayWait ∨ x.step.kind = .sayPosition ∨ x.step.kind = .feed ∧ x.source = .segment)) →
      x.position < x.segment.length →
      let a := x.segment.start + BitVec.ofNat 32 x.position
      burst a 2 (min (8 - a.toNat % 4) (x.segment.length - x.position)) x) ∧
    (∀ i, x.activity = .step i → x.step.kind = .tone → x.phase < x.step.on → x.segment.loopStart < x.segment.length →
      let n :=
        if x.position < x.segment.length then x.position
        else x.segment.loopStart + (x.position - x.segment.length) % (x.segment.length - x.segment.loopStart)
      let a := x.segment.start + BitVec.ofNat 32 n
      burst a 2 (min (8 - a.toNat % 4) (min (x.step.on - x.phase) (x.segment.length - n))) x) ∧
    (∀ i, x.activity = .step i → x.step.kind = .feed → x.source = .ring →
      let f := s.feed x.step.feed
      let size := f.latched.ringEnd.toNat - f.latched.ringStart.toNat
      let available := fun (p : Word) =>
        (f.head.toNat - f.latched.ringStart.toNat + size - (p.toNat - f.latched.ringStart.toNat)) % size
      let p := if size - 64 < available x.pointer then f.joinPlace else x.pointer
      let beats := if p - BitVec.ofNat 32 (p.toNat % 4) + 4 = f.latched.ringEnd then 1 else 2
      0 < available x.pointer →
      burst p beats (min (min (4 * beats - p.toNat % 4) (available p)) (f.latched.ringEnd.toNat - p.toNat))
        { x with pointer := p, position := if size - 64 < available x.pointer then 0 else x.position })

/-- What a step's beginning does, by its kind (R115 to R120, R102, R103): a step with samples to place is begun with its
copy and its counts; one without is passed over; JUMP, CALL and RETURN name the next act; STOP ends the context; the faults
of R115 end it with BAD_STEP. The step a RETURN names begins too, as resuming says. Resuming from a popped record (R121),
against the active library as it stands: PLAY, QUIET and TONE go on at the saved place, at the end of a pass, a stretch or a
period where that place is past it; FEED takes its feed's state afresh; any other kind begins from its start. A step whose
segment is no longer DEFINED is passed over, and what is found complete ends at once (log 13), and a count of 0 lowered
gives the model's free value (log 11). A resumption of its own, as an announcement's end makes, is no step beginning (log
12); a step that a RETURN names is one, and as the sixteenth in a row it stops the context (R115). -/
def Obligations.ProgramStepsBeginAndResumeByKind : Prop :=
  (∀ (s : State) (k i : Nat),
     let x := s.context k
     let p := s.program x.program
     let g := p.steps.getD i {}
     let c := x.call
     let y : Context :=
       { x with
         activity := .step i, step := g, position := 0, passes := 0, phase := 0, bursts := 0, source := .segment
         beginnings := x.beginnings + 1 }
     let t := s.control k (.begin i)
     let begun := fun (z : Context) => t = s.setContext k z
     let follows := fun (z : Context) (a : Control) => t = (s.setContext k z).control k a
     let skipped := follows y (.begin (i + 1))
     let bad := ContextEnded s t k .playout .playoutFault 1
     let defined := (s.segment g.arg).defined = true
     (16 ≤ i ∨ 16 ≤ x.beginnings + 1 → bad) ∧
     (i < 16 → x.beginnings + 1 < 16 →
       (g.kind = .play →
         (defined → begun { y with segment := s.segment g.arg, passes := g.count }) ∧ (¬ defined → skipped)) ∧
       (g.kind = .quiet → (g.count ≠ 0 → begun y) ∧ (g.count = 0 → skipped)) ∧
       (g.kind = .tone →
         (g.period = 0 → bad) ∧
         (g.period ≠ 0 → (defined → begun { y with segment := s.segment g.arg, bursts := g.count }) ∧ (¬ defined → skipped))) ∧
       (g.kind = .feed →
         (4 ≤ g.feed → bad) ∧
         (g.feed < 4 →
           ((s.feed g.feed).state = .live → begun { y with source := .ring, pointer := (s.feed g.feed).joinPlace }) ∧
           ((s.feed g.feed).state ≠ .live →
             (defined →
               begun
                 { y with
                   segment := s.segment g.arg
                   position := if 0 < (s.segment g.arg).length then 0 else (s.segment g.arg).loopStart }) ∧
             (¬ defined → begun { y with source := .silence })))) ∧
       (g.kind = .sayWait ∨ g.kind = .sayPosition →
         ((s.call c).state ≠ .queued → (s.call c).state ≠ .offered → skipped) ∧
         ∀ q n, InLine s c q n →
           let h := (s.queue q).handle
           let staffed := (s.queue q).staffed
           let wait := if staffed = 0 then 65535 else min ((n * h + 16 * staffed - 1) / (16 * staffed)) 65535
           let b := if g.kind = .sayWait then min (max ((wait + 599) / 600) 1) 8 else min n 8
           let entries := if g.kind = .sayWait then p.bands else p.positions
           ((∀ j, 1 ≤ j → j ≤ b → entries.getD (j - 1) 255 = 255) → skipped) ∧
           ∀ m, EntryChosen entries b m →
             ((s.segment m).defined = true → begun { y with segment := s.segment m }) ∧
             ((s.segment m).defined = false → skipped)) ∧
       (g.kind = .jump → follows y (.begin g.arg)) ∧
       (g.kind = .call →
         (x.stack.length < 4 →
           follows
             { y with
               stack :=
                 { step := i + 1, position := 0, passes := 0, phase := 0, bursts := 0, announcement := false
                   fallback := false } :: x.stack }
             (.begin g.arg)) ∧
         (4 ≤ x.stack.length →
           t = ((s.setContext k y).post .playout .playoutFault (some c) none none 2).control k (.begin (i + 1)))) ∧
       (g.kind = .ret →
         (x.stack = [] → t = ((s.setContext k y).post .playout .playoutFault (some c) none none 3).control k (.begin 0)) ∧
         ∀ r rest, x.stack = r :: rest →
           follows { y with stack := rest, timer := if rest = [] then p.period else x.timer } (.returned r)) ∧
       (g.kind = .stop → ContextEnded s t k .call .programEnd x.program) ∧
       (∀ n, g.kind = .other n → bad))) ∧
  (∀ (s : State) (k : Nat) (r : ReturnRecord),
     let x := s.context k
     let g := (s.program x.program).steps.getD r.step {}
     let y : Context :=
       { x with
         activity := .step r.step, step := g, position := r.position, passes := r.passes, phase := r.phase, bursts := r.bursts
         source := .segment }
     let z : Context := { y with segment := s.segment g.arg }
     let t := s.control k (.resume r)
     let begun := fun (z : Context) => t = s.setContext k z
     let follows := fun (z : Context) (a : Control) => t = (s.setContext k z).control k a
     let next : Control := .begin (r.step + 1)
     let bad := ContextEnded s t k .playout .playoutFault 1
     let defined := (s.segment g.arg).defined = true
     let n := (Config.loweredZero s.freeIndex).toNat
     let freed := { s with freeIndex := s.freeIndex + 1 }
     (16 ≤ r.step → bad) ∧
     (r.step < 16 →
       (g.kind = .play →
         (¬ defined → follows y next) ∧
         (defined → r.position < (s.segment g.arg).length → begun z) ∧
         (defined → (s.segment g.arg).length ≤ r.position →
           let again := { z with position := (s.segment g.arg).loopStart }
           (g.count = 0 → begun again) ∧
           (g.count ≠ 0 →
             (1 < r.passes → begun { again with passes := r.passes - 1 }) ∧ (r.passes = 1 → follows z next) ∧
             (r.passes = 0 →
               (n = 0 → t = (freed.setContext k z).control k next) ∧
               (n ≠ 0 → t = freed.setContext k { again with passes := n }))))) ∧
       (g.kind = .quiet →
         (r.position < g.count * 800 → begun y) ∧ (g.count * 800 ≤ r.position → follows y next)) ∧
       (g.kind = .tone →
         (g.period = 0 → bad) ∧
         (g.period ≠ 0 →
           (¬ defined → follows y next) ∧
           (defined → r.phase < g.period → begun z) ∧
           (defined → g.period ≤ r.phase →
             let again := { z with phase := 0, position := 0 }
             (g.count = 0 → begun again) ∧
             (g.count ≠ 0 →
               (1 < r.bursts → begun { again with bursts := r.bursts - 1 }) ∧ (r.bursts = 1 → follows z next) ∧
               (r.bursts = 0 →
                 (n = 0 → t = (freed.setContext k z).control k next) ∧
                 (n ≠ 0 → t = freed.setContext k { again with bursts := n })))))) ∧
       (g.kind = .feed →
         (4 ≤ g.feed → bad) ∧
         (g.feed < 4 →
           ((s.feed g.feed).state = .live → begun { y with source := .ring, pointer := (s.feed g.feed).joinPlace, position := 0 }) ∧
           ((s.feed g.feed).state ≠ .live →
             (defined →
               let place := if r.fallback then r.position else 0
               begun
                 { z with position := if place < (s.segment g.arg).length then place else (s.segment g.arg).loopStart }) ∧
             (¬ defined → begun { y with source := .silence, position := 0 })))) ∧
       (g.kind ≠ .play → g.kind ≠ .quiet → g.kind ≠ .tone → g.kind ≠ .feed → t = s.control k (.begin r.step))) ∧
     let keeps : Prop := g.kind = .play ∨ g.kind = .quiet ∨ g.kind = .tone ∨ g.kind = .feed
     (keeps → 16 ≤ x.beginnings + 1 → ContextEnded s (s.control k (.returned r)) k .playout .playoutFault 1) ∧
     (keeps → x.beginnings + 1 < 16 →
       s.control k (.returned r) = (s.setContext k { x with beginnings := x.beginnings + 1 }).control k (.resume r)) ∧
     (¬ keeps → s.control k (.returned r) = s.control k (.resume r)))

/-- What a burst's end finds (R128, R129, R140): a DRAINING context becomes FREE, a redirected one goes on, and a reader
whose feed has changed state takes its other source; data and error are discarded alike. Else an arrival's samples join the
buffer, and the activity goes on at the end of a pass, a segment, a period or an announcement (R116 to R118, R123, R142); an
error response posts PLAYOUT_FAULT with FETCH_ERROR, and the activity ends, whatever its passes. A count of 0 lowered gives
the model's free value (log 11); that an error's notice precedes what begins is the model's choice (log 15), and that the
fallback's descriptor is read at the switch, and that a reader whose feed was lost and cleared again meanwhile goes on as it
was, its readings (logs 38, 46). -/
def Obligations.BurstsEndByArrivalOrError : Prop :=
  ∀ (s : State) (b : FetchBurst) (first second : Word), s.path.resetAsserted = false → s.playout.fetch = some b →
    let k := b.context
    let x := s.context k
    let f := s.feed x.step.feed
    let fallback := s.segment x.step.arg
    let cs : List Component := [.contexts, .fetch]
    let data :=
      (((List.range 4).map fun i => first.extractLsb' (8 * i) 8) ++
        (List.range 4).map fun i => second.extractLsb' (8 * i) 8)
    let samples := (data.drop b.skip).take b.count
    let after : Context := { x with inFlight := false, redirected := false }
    let placed : Context :=
      { after with
        state := .playing, buffer := x.buffer ++ samples, beginnings := 0, position := x.position + samples.length }
    let settled := x.step.kind = .feed → (f.state = .live ↔ x.source = .ring)
    let resumed := fun (z : Context) (rest : List ReturnRecord) =>
      { z with stack := rest, timer := if rest = [] then (s.program x.program).period else x.timer }
    (∀ a, a = Instr.burstArrival first second ∨ a = Instr.fetchError →
      let leaves := fun y => GoesOn a cs s k s.events y .done
      (∃ t, exec a s = .next t ∧ t.playout.fetch = none) ∧
      (x.state = .draining → leaves { Context.cold with ticksTaken := x.ticksTaken }) ∧
      (x.state ≠ .draining → x.redirected = true → x.activity = .announcement → leaves after) ∧
      (∀ i, x.state ≠ .draining → x.activity = .step i →
        (x.redirected = true → settled → leaves after) ∧
        (x.step.kind = .feed → x.inFlight = true →
          (f.state = .live → x.source ≠ .ring → leaves { after with source := .ring, pointer := f.joinPlace, position := 0 }) ∧
          (f.state ≠ .live → x.source = .ring →
            (fallback.defined = true →
              leaves
                { after with
                  source := .segment, segment := fallback
                  position := if 0 < fallback.length then 0 else fallback.loopStart }) ∧
            (fallback.defined = false → leaves { after with source := .silence, position := 0 }))))) ∧
    (x.state ≠ .draining → x.redirected = false →
      let goesOn := GoesOn (.burstArrival first second) cs s k s.events
      let freely := GoesFreely (.burstArrival first second) cs s k
      (∀ i, x.activity = .step i →
        (x.step.kind = .play ∨ x.step.kind = .sayWait ∨ x.step.kind = .sayPosition →
          x.position + samples.length < x.segment.length → goesOn placed .done) ∧
        (x.step.kind = .play → x.segment.length ≤ x.position + samples.length →
          let again := { placed with position := x.segment.loopStart }
          (x.step.count = 0 → goesOn again .done) ∧
          (x.step.count ≠ 0 →
            (1 < x.passes → goesOn { again with passes := x.passes - 1 } .done) ∧
            (x.passes = 1 → goesOn placed (.begin (i + 1))) ∧
            (x.passes = 0 → freely placed (fun n => { again with passes := n }) (.begin (i + 1))))) ∧
        (x.step.kind = .sayWait ∨ x.step.kind = .sayPosition → x.segment.length ≤ x.position + samples.length →
          goesOn placed (.begin (i + 1))) ∧
        (x.step.kind = .tone → x.phase < x.step.on →
          let sounded := { placed with phase := x.phase + samples.length }
          let again := { placed with phase := 0, position := 0 }
          (x.phase + samples.length < x.step.period → goesOn sounded .done) ∧
          (x.step.period ≤ x.phase + samples.length →
            (x.step.count = 0 → goesOn again .done) ∧
            (x.step.count ≠ 0 →
              (1 < x.bursts → goesOn { again with bursts := x.bursts - 1 } .done) ∧
              (x.bursts = 1 → goesOn sounded (.begin (i + 1))) ∧
              (x.bursts = 0 → freely sounded (fun n => { again with bursts := n }) (.begin (i + 1)))))) ∧
        (x.step.kind = .feed → f.state = .live → x.source = .ring →
          let p := x.pointer + BitVec.ofNat 32 samples.length
          goesOn
            { placed with position := x.position, pointer := if p = f.latched.ringEnd then f.latched.ringStart else p } .done) ∧
        (x.step.kind = .feed → f.state ≠ .live → x.source = .segment →
          goesOn
            { placed with
              position :=
                if x.segment.length ≤ x.position + samples.length then x.segment.loopStart
                else x.position + samples.length }
            .done)) ∧
      (x.activity = .announcement →
        (x.position + samples.length < x.segment.length → goesOn placed .done) ∧
        ∀ r rest, x.segment.length ≤ x.position + samples.length → x.stack = r :: rest →
          goesOn (resumed placed rest) (.resume r))) ∧
    (x.state ≠ .draining → x.redirected = false →
      let goesOn := GoesOn .fetchError (cs ++ posting) s k (s.post .playout .playoutFault (some x.call) none none 4).events
      (∀ i, x.activity = .step i → settled → goesOn after (.begin (i + 1))) ∧
      ∀ r rest, x.activity = .announcement → x.stack = r :: rest → goesOn (resumed after rest) (.resume r))

/-- A generated group (R117, R118, R119, R124, R140): at a fill of 8 or less, the smaller of 8 and the samples left of
silence code join the buffer, for a QUIET step, the silent part of a TONE period, or a FEED step without a fallback; a FEED
step whose feed is LIVE joins its ring instead, and places none. -/
def Obligations.GeneratedGroupsAreSilence : Prop :=
  ∀ (s : State) (k : Nat), k < 512 → s.path.resetAsserted = false →
    let x := s.context k
    (x.state = .starting ∨ x.state = .playing) → x.buffer.length ≤ 8 → ∀ i, x.activity = .step i →
    let goesOn := GoesOn (.generatedGroup k) [.contexts] s k s.events
    let leaves := fun y => goesOn y .done
    let silent := fun (n : Nat) =>
      { x with state := .playing, buffer := x.buffer ++ List.replicate n s.part.config.silence, beginnings := 0 }
    (x.step.kind = .quiet → x.position < x.step.count * 800 →
      let n := min 8 (x.step.count * 800 - x.position)
      (x.position + n < x.step.count * 800 → leaves { silent n with position := x.position + n }) ∧
      (x.position + n = x.step.count * 800 → goesOn { silent n with position := x.position + n } (.begin (i + 1)))) ∧
    (x.step.kind = .tone → x.step.on ≤ x.phase → x.phase < x.step.period →
      let n := min 8 (x.step.period - x.phase)
      (x.phase + n < x.step.period → leaves { silent n with phase := x.phase + n }) ∧
      (x.phase + n = x.step.period → x.step.count = 0 ∨ 1 < x.bursts →
        leaves
          { silent n with phase := 0, position := 0, bursts := if x.step.count = 0 then x.bursts else x.bursts - 1 }) ∧
      (x.phase + n = x.step.period → x.step.count ≠ 0 → x.bursts = 1 →
        goesOn { silent n with phase := x.phase + n } (.begin (i + 1))) ∧
      (x.phase + n = x.step.period → x.step.count ≠ 0 → x.bursts = 0 →
        GoesFreely (.generatedGroup k) [.contexts] s k { silent n with phase := x.phase + n }
          (fun m => { silent n with phase := 0, position := 0, bursts := m }) (.begin (i + 1)))) ∧
    (x.step.kind = .feed → x.source = .silence →
      ((s.feed x.step.feed).state ≠ .live → leaves (silent 8)) ∧
      ((s.feed x.step.feed).state = .live → x.inFlight = false →
        leaves { x with source := .ring, pointer := (s.feed x.step.feed).joinPlace, position := 0 }))

/-- The interjection timer (R122): a tick the context has not taken (log 4) lowers the timer of a PLAYING context with an
empty stack and a timer above 0; the one that brings it to 0 pushes the current activity and begins the header's
interjection step (R115). A fetch in flight is marked redirected (log 14), and a FEED step cut on silence is saved as on its
fallback (log 37). -/
def Obligations.TimersInterject : Prop :=
  ∀ (s : State) (k : Nat), k < 512 → s.path.resetAsserted = false → (s.context k).ticksTaken ≠ s.tick →
    let x := s.context k
    let goesOn := fun i => GoesOn i [.contexts] s k s.events
    let leaves := fun i y => goesOn i y .done
    (x.state ≠ .playing ∨ x.stack ≠ [] ∨ x.timer = 0 →
      leaves (.interjectionTick k) { x with ticksTaken := x.ticksTaken + 1 }) ∧
    (x.state = .playing → x.stack = [] → 1 < x.timer →
      leaves (.interjectionTick k) { x with ticksTaken := x.ticksTaken + 1, timer := x.timer - 1 }) ∧
    (∀ i j, i = .interjectionTick k ∨ i = .interjection k → x.state = .playing → x.stack = [] → x.timer = 1 →
      x.activity = .step j →
      goesOn i
        { x with
          ticksTaken := x.ticksTaken + 1, timer := 0
          stack :=
            [{ step := j, position := x.position, passes := x.passes, phase := x.phase, bursts := x.bursts
               announcement := false, fallback := decide (x.step.kind = .feed) && decide (x.source ≠ .ring) }]
          redirected := x.redirected || x.inFlight }
        (.begin (s.program x.program).interjectionStep))

/-! ### The Feed Monitor's ticks (08 R137, R138, R140) -/

/-- A tick a feed has not taken (R137, R138; log 4 says which tick that is, log 5 that the rows are cases of one event): an
OFF or MISSING feed and one waiting for its first write pass it over; an ARMING one restarts its arming when the writer has
paused, counts the tick otherwise, and becomes LIVE at the latched settle; a LIVE one becomes MISSING past its timeout. That
the fallback's descriptor is read at the switch (log 38), and that a reader with a fetch in flight or a fill above 8 may
miss a loss that is cleared (log 46), are the model's readings. FEED_CLEAR (R139), with the readers of a cleared feed
(R140); one still on the ring, which has not read the loss, keeps its pointer (the model's reading, log 46). -/
def Obligations.FeedsArmAreLostAndCleared : Prop :=
  (∀ (s : State) (i : Nat), i < 4 → s.path.resetAsserted = false → (s.feed i).ticksTaken ≠ s.tick →
     let f := s.feed i
     let paused : Prop := f.latched.timeout < (s.tick - f.lastWrite).toNat
     let leaves := fun (c : Instr) (g : Feed) =>
       ∃ t, exec c s = .next t ∧ t.feed i = { g with ticksTaken := f.ticksTaken + 1 } ∧ FeedsBut i s t ∧
         Changes [.feeds, .passCount] s t
     let changes := fun (c : Instr) (g : Feed) (kind : EventKind) (detail : Nat) (readers : State → Prop) =>
       ∃ t, exec c s = .next t ∧ t.feed i = { g with ticksTaken := f.ticksTaken + 1 } ∧ readers t ∧
         t.events = (s.post .supervision kind none none (some i) detail).events ∧ FeedsBut i s t ∧
         Changes ([.feeds, .contexts, .passCount] ++ posting) s t
     (f.state = .off ∨ f.state = .missing ∨ f.state = .arming ∧ f.settling = false → leaves (.feedArmingTick i) f) ∧
     (f.state = .arming → f.settling = true → paused → ∀ c, c = .feedArmingTick i ∨ c = .armingRestart i →
       leaves c { f with settling := false, settleCount := 0 }) ∧
     (f.state = .arming → f.settling = true → ¬ paused → f.settleCount + 1 < f.latched.settle →
       leaves (.feedArmingTick i) { f with settleCount := f.settleCount + 1 }) ∧
     (f.state = .arming → f.settling = true → ¬ paused → f.latched.settle ≤ f.settleCount + 1 → Canonical s →
       ∀ c, c = .feedArmingTick i ∨ c = .feedArmed i →
         changes c { f with state := .live, settling := false, settleCount := 0 } .feedLive 1 (ReadersRejoin i s)) ∧
     (f.state = .live → ¬ paused → leaves (.feedMissing i) f) ∧
     (f.state = .live → paused → Canonical s →
       changes (.feedMissing i) { f with state := .missing } .feedMissing 0 (ReadersFallBack i s))) ∧
  (∀ (s : State) (e : IntakeEntry), Taken s e .part 7 →
     let i := e.argument
     (3 < i → ∃ t, exec .feedClear s = .next t ∧ OnlyAnswered s t e (e.answer .badField)) ∧
     (i ≤ 3 → (s.feed i).state = .off ∨ (s.feed i).state = .arming →
       ∃ t, exec .feedClear s = .next t ∧ OnlyAnswered s t e (e.answer .wrongState)) ∧
     (i ≤ 3 → (s.feed i).state = .live → ∃ t, exec .feedClear s = .next t ∧ OnlyAnswered s t e (e.answer .ok)) ∧
     (i ≤ 3 → (s.feed i).state = .missing → 1 < (s.tick - (s.feed i).lastWrite).toNat →
       ∃ t, exec .feedClear s = .next t ∧ OnlyAnswered s t e (e.answer .stillMissing)) ∧
     (i ≤ 3 → (s.feed i).state = .missing → (s.tick - (s.feed i).lastWrite).toNat ≤ 1 → Canonical s →
       ∃ t, exec .feedClear s = .next t ∧
         t.feed i = { s.feed i with state := .live } ∧ ReadersRejoin i s t ∧
         t.events = (s.post .supervision .feedLive none none (some i) 2).events ∧
         t.part.result = e.answer .ok ∧ t.intake = s.intake.tail ∧ FeedsBut i s t ∧
         Changes ([.intake, .feeds, .contexts, .partResult, .passCount] ++ posting) s t))

/-! ### Loading reads (09 R152 to R156) -/

/-- The grant of a loading read (R153, R155): one is to be made, none is outstanding, no fetch can be served, and the slot
is the part's own. The burst asks for the next words of the record, at most as many as the operand says (its size is the
model's operand, log 21), and the read goes on record by record. The writes to its words that are accepted and have not
reached memory are noted in it, so that memory and staging end equal (R153; log 29). Data of an abandoned read still to come
does not hold the grant back (log 42). -/
def Obligations.LoadingReadsGoRecordByRecord : Prop :=
  ∀ (s : State) (w : LoadWord) (n : Nat), Canonical s → s.path.resetAsserted = false → s.part.state = .loading →
    s.part.burst = none → s.part.cursor = some w → 1 ≤ n → n ≤ 4 →
    (s.playout.fetch ≠ none ∨ ∀ k, s.requests (s.context k) = false) → (s.path.forward = [] ∨ 8 ≤ s.path.passCount) →
    let anchor := s.path.straps.toNat * 0x10000000 + 0x0FFF0000
    let grants := fun (run : Nat) (address : Nat) (later : Option LoadWord) =>
      let beats := min n run
      let older := s.path.forward.filterMap fun x =>
        (match x with
          | .write b =>
            let k := (b.address - BitVec.ofNat 32 address).toNat / 4
            if k < beats then some (w.word + k, b) else none
          | .read _ => none : Option (Nat × WriteBeat))
      ∃ t, exec (.loadingReadGrant n) s = .next t ∧
        t.part =
          { s.part with
            burst := some { first := w, beats := beats, hostWrote := older }
            cursor := if beats < run then some { w with word := w.word + beats } else later } ∧
        t.path.port = .load (BitVec.ofNat 32 address) beats ∧ t.path.passCount = 0 ∧
        Changes [.loading, .port, .passCount] s t
    (w.table = .config → w.Owned → grants (64 - w.word) (anchor + 4 * w.word) none) ∧
    (w.table = .queue → w.Owned → w.word < 8 →
      grants (8 - w.word) (anchor + 0x2000 + 128 * w.index + 4 * w.word) (some { w with word := 9 })) ∧
    (w.table = .queue → w.Owned → 8 < w.word →
      grants (16 - w.word) (anchor + 0x2000 + 128 * w.index + 4 * w.word)
        (if w.index + 1 < 64 then some { table := .queue, index := w.index + 1, word := 0 }
          else some { table := .agent, index := 0, word := 0 })) ∧
    (w.table = .agent → w.Owned →
      grants (5 - w.word) (s.part.config.agentBase.toNat + 64 * w.index + 4 * w.word)
        (if w.index + 1 < 1024 then some { table := .agent, index := w.index + 1, word := 0 }
          else some { table := .call, index := 0, word := 0 })) ∧
    (w.table = .call → w.Owned →
      grants (4 - w.word) (s.part.config.callBase.toNat + 64 * w.index + 4 * w.word)
        (if w.index + 1 < 2048 then some { table := .call, index := w.index + 1, word := 0 } else none))

/-- The data of a loading read goes into staging, under the lanes the host wrote meanwhile (R152, R153; log 29). The last of
the call records completes the LOADING: the live state dropped, the library latched, the enabled feeds ARMING, the part
ACTIVE. Data of an abandoned read is discarded (R154; the count of such reads is the model's, log 22). The model's own are
the burst's size (log 21) and, at the completion, a FREE context's values and a feed's tick mark (logs 28, 4). -/
def Obligations.LoadingDataFillsStaging : Prop :=
  ∀ (s : State) (b : LoadBurst) (data : List Word), s.path.resetAsserted = false →
    (s.part.discard ≠ 0 → ∀ c, c = .loadingReadDone data ∨ c = .configReadDone data ∨ c = .loadFault →
      ∃ t, exec c s = .next t ∧ t.part = { s.part with discard := s.part.discard - 1 } ∧ Changes [.loading, .passCount] s t) ∧
    (s.part.discard = 0 → s.part.burst = some b → data.length = b.beats → b.Within →
      let last := b.first.table = .call ∧ b.first.index = 2047 ∧ b.first.word + b.beats = 4
      (¬ last → ¬ (b.first.table = .config ∧ b.first.word + b.beats = 64) →
        ∃ t, exec (.loadingReadDone data) s = .next t ∧ WordsLoaded b data s t ∧ t.part = { s.part with burst := none } ∧
          Changes [.staging, .loading, .passCount] s t) ∧
      (last → Canonical s →
        ∃ t, exec (.loadingReadDone data) s = .next t ∧ WordsLoaded b data s t ∧ LiveDropped s t ∧ LibraryLatched s t ∧
          (∀ i < 4,
            let c := s.part.config.feeds.getD i {}
            t.feed i =
              if c.enable = true then
                { latched := c, state := .arming, head := c.ringStart, lastWrite := s.tick, settleCount := 0
                  settling := false, ticksTaken := caughtUp (s.feed i).ticksTaken s.tick }
              else { s.feed i with latched := c, state := .off, lastWrite := 0, settleCount := 0, settling := false }) ∧
          t.part = { s.part with state := .active, phase := .none, cursor := none, burst := none } ∧
          Changes ([.staging, .partState, .loading, .library, .passCount] ++ liveState) s t))

/-- The end of a RESTART's configuration read latches, validates and answers (R152, R154); an error response to a loading
read fails the LOADING with LOAD_FAULT (R154, R156). That the read may be made in several bursts is the model's (log 21), as
are the values of a FREE context (log 28), the laying of the host's lanes (log 29), the delay of a feed that is not enabled
where R135's bounds cross (log 40), and that a failed burst's earlier beats reach no staging (log 47). -/
def Obligations.ConfigurationReadsEndOrFail : Prop :=
  ∀ (s : State) (b : LoadBurst), s.path.resetAsserted = false → s.part.discard = 0 → s.part.burst = some b →
    (∀ data token, data.length = b.beats → b.Within → b.first.table = .config → b.first.word + b.beats = 64 →
      s.part.restartToken = some token →
      ∃ t, exec (.configReadDone data) s = .next t ∧ WordsLoaded b data s t ∧
        let c := configOf t.staging.configWords
        (validate s.path.straps c = .none →
          t.part =
            { s.part with
              state := .loading, error := .none, config := c, phase := .records
              cursor := some { table := .queue, index := 0, word := 0 }, burst := none, restartToken := none
              result := { code := 3, token := token, result := .ok } } ∧
          Changes [.staging, .partState, .configError, .config, .partResult, .loading, .passCount] s t) ∧
        (validate s.path.straps c ≠ .none → Canonical s →
          t.part =
            { s.part with
              state := .pass, error := validate s.path.straps c, config := c, phase := .none, cursor := none
              burst := none, restartToken := none, result := { code := 3, token := token, result := .configError } } ∧
          LiveDropped s t ∧ FeedsOff s t ∧
          Changes ([.staging, .partState, .configError, .config, .partResult, .loading, .passCount] ++ liveState) s t)) ∧
    (Canonical s →
      ∃ t, exec .loadFault s = .next t ∧
        t.part =
          { s.part with
            state := .pass, error := .loadFault, phase := .none, cursor := none, burst := none, restartToken := none
            result :=
              match s.part.restartToken with
              | none => s.part.result
              | some token => { code := 3, token := token, result := .configError } } ∧
        LiveDropped s t ∧ FeedsOff s t ∧
        Changes ([.partState, .configError, .partResult, .loading, .passCount] ++ liveState) s t)

/-! ### Events, stops, and what every step keeps -/

/-- Posting an event, in the four steps of R159, the OFFER's reserved entry (R69), and the interrupt line (R164). -/
def Obligations.PostingSummarisesAndQueues : Prop :=
  ∀ (s : State) (cls : EventClass) (kind : EventKind) (call agent target : Option Nat) (detail : Nat),
    s.events.sequence ≤ 65535 →
    let v := s.events.summaries
    let summaries : Summaries :=
      { dispatch := v.dispatch || decide (cls = .dispatch), call := v.call || decide (cls = .call)
        agent := v.agent || decide (cls = .agent), queue := v.queue || decide (cls = .queue)
        playout := v.playout || decide (cls = .playout), supervision := v.supervision || decide (cls = .supervision) }
    let n := if s.events.sequence = 65535 then 1 else s.events.sequence + 1
    let r : EventRecord :=
      { sequence := n, cls := cls, kind := kind, call := call, agent := agent, target := target, detail := detail
        tick := s.time.tick }
    let bit := fun i => s.part.config.enables.getLsbD i = true
    let enabled :=
      cls = .dispatch ∨ cls = .call ∧ bit 1 ∨ cls = .agent ∧ bit 2 ∨ cls = .queue ∧ bit 3 ∨ cls = .playout ∧ bit 4 ∨
        cls = .supervision ∧ bit 5
    let room :=
      if cls = .dispatch then s.events.dispatch.length + (if s.engine.reserved = true then 1 else 0) < 128
      else s.events.notices.length < 256
    let t := s.post cls kind call agent target detail
    (¬ enabled → t.events = { s.events with summaries := summaries }) ∧
    (enabled → ¬ room → t.events = { s.events with summaries := summaries, lost := true }) ∧
    (enabled → room → cls = .dispatch →
      t.events = { s.events with summaries := summaries, sequence := n, dispatch := s.events.dispatch ++ [r] }) ∧
    (enabled → room → cls ≠ .dispatch →
      t.events = { s.events with summaries := summaries, sequence := n, notices := s.events.notices ++ [r] }) ∧
    Changes posting s t ∧
    (∀ c a q, cls = .dispatch → kind = .offer → call = some c → agent = some a → target = some q →
      (s.postOffer c a q detail).events =
        { s.events with summaries := summaries, sequence := n, dispatch := s.events.dispatch ++ [r] }) ∧
    (s.irq = true ↔ s.path.resetAsserted = false ∧ (s.events.dispatch ≠ [] ∨ s.events.notices ≠ []))

/-- Every well-formed command answers a next state in every state. The one stop is that of a command that names a record the
part does not have: 1,024 agents (R46), 64 queues (R26), 512 contexts (R108), 4 feeds (R135). The stop is the model's (log
30). -/
def Obligations.OnlyAbsentRecordsStop : Prop :=
  ∀ (i : Instr) (s : State),
    (WellFormed i = true → ∃ t, exec i s = .next t) ∧
    (∀ n, exec i s = .fault (.noSuchRecord n) ↔
      1024 ≤ n ∧ (i = .agentTick n ∨ i = .wrapCountdownEnd n) ∨ 64 ≤ n ∧ i = .ewtRepublish n ∨
        512 ≤ n ∧ (i = .generatedGroup n ∨ i = .interjectionTick n ∨ i = .interjection n) ∨
        4 ≤ n ∧ (i = .feedArmingTick n ∨ i = .armingRestart n ∨ i = .feedArmed n ∨ i = .feedMissing n)) ∧
    ∀ r, exec i s ≠ .refused r

/-- The invariants hold after reset. -/
def Obligations.ResetMeetsTheInvariants : Prop :=
  Canonical State.reset ∧ WithinCapacity State.reset ∧ WorkListDistinct State.reset ∧ ClockInRange State.reset ∧
    LoadingInRange State.reset ∧ SkillsDistinct State.reset ∧ PassCountRests State.reset

/-- Every step keeps the tables in their canonical form: equal tables are equal data. -/
def Obligations.StepsKeepTheTablesCanonical : Prop :=
  ∀ s t, Canonical s → step s = .next t → Canonical t

/-- Every step keeps the capacities: 32 intake entries (R148), 256 notices and 128 dispatch events with the reservation
counted (R159, R160), the reservation standing exactly with a proposal (R69), sequence numbers of 16 bits (R159); and a
trigger stands in the work list once (R66). Every step keeps the Time Base's ranges (R131, R132), the loading reads within
the host-owned words (R153), the active skill lists without duplicates (R51), and the count of pass-through beats at 0 while
the part's own side has no servable request (R127, R155). -/
def Obligations.StepsKeepTheCapacitiesAndRanges : Prop :=
  (∀ s t, step s = .next t → (WithinCapacity s → WithinCapacity t) ∧ (WorkListDistinct s → WorkListDistinct t)) ∧
  (∀ s t, step s = .next t →
     (ClockInRange s → ClockInRange t) ∧ (LoadingInRange s → LoadingInRange t) ∧ (SkillsDistinct s → SkillsDistinct t) ∧
     (PassCountRests s → PassCountRests t))

/-! ### The words the part answers by itself (10 R165, 11 R166 to R168) -/

/-- The part-owned words of a call, an agent and a queue record and of the status block, field by field from the record's
live state, with the codes and results of R168 as numbers: "none" is all ones, spare bytes are 0; a QUEUED call's position
is its place in its queue, from 1 (R4, R38); the free calls and contexts and the requests waiting are counted (R165). -/
def Obligations.PartOwnedWordsShowLiveState : Prop :=
  ∀ (s : State) (c a q : Nat),
    let bytes := fun b0 b1 b2 b3 : Nat => BitVec.ofNat 32 (b0 + 256 * b1 + 65536 * b2 + 16777216 * b3)
    let halves := fun low high : Nat => BitVec.ofNat 32 (low + 65536 * high)
    let code := fun (r : CommandResult) =>
      match r.result with
      | .ok => 0 | .okClamped => 1 | .okPending => 2 | .okNoPlayout => 3
      | .wrongState => 16 | .tooLate => 17 | .queueClosed => 18 | .queueFull => 19 | .badQueue => 20 | .badField => 21
      | .duplicateSkill => 22 | .marked => 23 | .stackFull => 24 | .noPlayout => 25 | .stale => 26 | .stillMissing => 27
      | .torn => 28 | .unknown => 29 | .notActive => 30 | .configError => 31
    let result := fun (r : CommandResult) => bytes r.code.toNat r.token.toNat (code r) 0
    let x := s.call c
    let g := s.agent a
    let u := s.queue q
    (∃ state end_ kind place,
      s.callWord c 5 = bytes state (x.currentQueue.getD 255) x.hops x.attempts ∧
      s.callWord c 6 = halves (x.agent.getD 65535) (x.context.getD 65535) ∧
      s.callWord c 7 = halves place x.underruns ∧ s.callWord c 8 = bytes end_ kind x.pendingCount 0 ∧
      s.callWord c 9 = x.firstEntry ∧ s.callWord c 10 = x.queueEntry ∧ s.callWord c 11 = x.answerTick ∧
      s.callWord c 12 = BitVec.ofNat 32 x.seniority.toNat ∧
      s.callWord c 13 = BitVec.ofNat 32 (x.seniority.toNat / 4294967296) ∧ s.callWord c 15 = result x.result ∧
      state = (match x.state with | .free => 0 | .queued => 1 | .offered => 2 | .connected => 3 | .agentHold => 4) ∧
      end_ = (match x.lastEnd with | .none => 0 | .answered => 1 | .expired => 2 | .noAnswer => 3 | .withdrawn => 4) ∧
      (∀ q, x.state = .queued → x.currentQueue = some q → place = (s.queue q).waiting.idxOf c + 1) ∧
      (x.state ≠ .queued ∨ x.currentQueue = none → place = 0) ∧
      (s.shownDeadline c = none → kind = 0 ∧ s.callWord c 14 = 0) ∧
      ∀ d, s.shownDeadline c = some d →
        kind = (match d.kind with | .offerExpiry => 1 | .overflowDue => 2 | .maxWaitDue => 3) ∧ s.callWord c 14 = d.due) ∧
    (∃ state,
      s.agentWord a 7 =
        bytes state
          (g.flags.autoReady.toNat + 2 * g.flags.pendNotReady.toNat + 4 * g.flags.pendLogout.toNat +
            8 * g.flags.rnaMark.toNat)
          (g.lastQueue.getD 255) g.pendingCount ∧
      s.agentWord a 8 = halves (g.currentCall.getD 65535) g.wrapRemaining ∧ s.agentWord a 9 = g.stateEntry ∧
      s.agentWord a 10 = g.talk ∧ s.agentWord a 11 = g.wrap ∧ s.agentWord a 12 = g.availableTime ∧
      s.agentWord a 13 = g.notReadyTime ∧ s.agentWord a 14 = g.callsHandled ∧ s.agentWord a 15 = result g.result ∧
      state =
        match g.state with
        | .loggedOut => 0 | .notReady => 1 | .available => 2 | .offered => 3 | .busy => 4 | .wrapUp => 5) ∧
    (∃ state alarm,
      s.queueWord q 16 = bytes state u.paused.toNat alarm u.pendingCount ∧
      s.queueWord q 17 = halves u.occupancy u.waiting.length ∧ s.queueWord q 18 = halves u.staffed u.available ∧
      s.queueWord q 19 = BitVec.ofNat 32 u.handle ∧ s.queueWord q 20 = halves u.ewt 0 ∧ s.queueWord q 21 = u.entered ∧
      s.queueWord q 22 = u.answered ∧ s.queueWord q 23 = u.answeredInSl ∧ s.queueWord q 24 = u.abandoned ∧
      s.queueWord q 25 = u.overflowedOut ∧ (u.waiting = [] → s.queueWord q 26 = s.tick) ∧
      (u.waiting ≠ [] → ∃ d ∈ u.waiting, s.queueWord q 26 = (s.call d).firstEntry) ∧
      (∀ d ∈ u.waiting, (s.tick - (s.call d).firstEntry).toNat ≤ (s.tick - s.queueWord q 26).toNat) ∧
      s.queueWord q 27 = result u.result ∧ (∀ w, 28 ≤ w → s.queueWord q w = 0) ∧
      state = (match u.state with | .idle => 0 | .open => 1 | .closed => 2) ∧
      alarm = match u.alarm with | .normal => 0 | .high => 1) ∧
    (∃ part err clock feeds,
      s.statusWord 0 = bytes part err clock feeds ∧
      s.statusWord 1 =
        bytes s.part.result.code.toNat s.part.result.token.toNat (code s.part.result)
          (s.events.summaries.dispatch.toNat + 2 * s.events.summaries.call.toNat + 4 * s.events.summaries.agent.toNat +
            8 * s.events.summaries.queue.toNat + 16 * s.events.summaries.playout.toNat +
            32 * s.events.summaries.supervision.toNat + 64 * s.events.lost.toNat) ∧
      s.statusWord 2 = halves s.events.dispatch.length s.events.notices.length ∧ s.statusWord 5 = s.tick ∧
      s.statusWord 6 = (s.feed 0).head ∧ s.statusWord 7 = (s.feed 1).head ∧ s.statusWord 8 = (s.feed 2).head ∧
      s.statusWord 9 = (s.feed 3).head ∧ (∀ w, 10 ≤ w → s.statusWord w = 0) ∧
      s.statusWord 3 =
        halves s.intake.length ((List.range 512).filter fun k => (s.context k).state == .free).length ∧
      s.statusWord 4 =
        halves ((List.range 2048).filter fun c => (s.call c).state == .free).length
          ((List.range 512).filter fun k => s.requests (s.context k)).length ∧
      part = (match s.part.state with | .pass => 0 | .loading => 1 | .active => 2) ∧
      err =
        (match s.part.error with
          | .none => 0 | .windowAlign => 1 | .windowOverlap => 2 | .feedRing => 3 | .tagClash => 4 | .loadFault => 5) ∧
      clock = (match s.time.state with | .starting => 0 | .external => 1 | .substitute => 2) ∧
      feeds =
        let code := fun f => match (s.feed f).state with | .off => 0 | .arming => 1 | .live => 2 | .missing => 3
        code 0 + 4 * code 1 + 16 * code 2 + 64 * code 3)
end

