-- ==== Sys2Proof/Laws/Table.lean ====
section
/-! SUPPORT. The record tables: a read after a write, and the canonical form kept by every table operation. -/

namespace Sys2Proof.Machine.Table

variable {α : Type}

theorem read_erase (d : α) (t : Table α) (n m : Nat) : read d (erase t n) m = if m = n then d else read d t m := by
  induction t with
  | nil => simp [erase, read]
  | cons e t ih =>
    unfold erase at ih ⊢
    by_cases h : e.1 = n
    · simp only [List.filter_cons, h, bne_self_eq_false, Bool.false_eq_true, if_false, ih, read]
      by_cases hm : m = n
      · simp [hm]
      · simp [hm, Ne.symm hm]
    · have hb : (e.1 != n) = true := by simp [h]
      simp only [List.filter_cons, hb, if_true, read, ih]
      by_cases hm : m = n
      · simp [hm, h]
      · simp [hm]

theorem read_insert (d : α) (n : Nat) (v : α) (t : Table α) (m : Nat) (h : ∀ e ∈ t, e.1 ≠ n) :
    read d (insert n v t) m = if m = n then v else read d t m := by
  induction t with
  | nil => simp only [insert, read, eq_comm]
  | cons e t ih =>
    have he := h e (by simp)
    have ht := ih (fun x hx => h x (by simp [hx]))
    simp only [insert]
    split
    · simp only [read, eq_comm (a := n)]
    · simp only [read, ht]
      by_cases hm : m = n
      · simp [hm, he]
      · simp [hm]

theorem mem_erase {t : Table α} {n : Nat} {e : Nat × α} (h : e ∈ erase t n) : e ∈ t ∧ e.1 ≠ n := by
  simpa [erase] using h

/-- A read after a write. -/
theorem read_write [DecidableEq α] (d : α) (t : Table α) (n : Nat) (v : α) (m : Nat) :
    read d (write d t n v) m = if m = n then v else read d t m := by
  unfold write
  split
  · next h => rw [read_erase, h]
  · rw [read_insert _ _ _ _ _ (fun e he => (mem_erase he).2), read_erase]
    by_cases hm : m = n <;> simp [hm]

theorem erase_erase (t : Table α) (n : Nat) : erase (erase t n) n = erase t n := by
  unfold erase; rw [List.filter_filter]; simp

theorem erase_insert (n : Nat) (v : α) (t : Table α) : erase (insert n v t) n = erase t n := by
  unfold erase
  induction t with
  | nil => simp [insert]
  | cons e t ih =>
    simp only [insert]
    split
    · simp
    · simp only [List.filter_cons, ih]

/-- Of two writes at one index the second stands. -/
theorem write_write [DecidableEq α] (d : α) (t : Table α) (n : Nat) (v w : α) :
    write d (write d t n v) n w = write d t n w := by
  have : erase (write d t n v) n = erase t n := by
    unfold write
    split
    · exact erase_erase ..
    · rw [erase_insert, erase_erase]
  show (if w = d then erase (write d t n v) n else insert n w (erase (write d t n v) n)) = _
  rw [this]
  rfl

/-! ### The canonical form -/

/-- The canonical form, as a proposition. -/
theorem wf_cons [DecidableEq α] (d : α) (e : Nat × α) (t : Table α) :
    wf d (e :: t) = true ↔ e.2 ≠ d ∧ (∀ x ∈ t, e.1 < x.1) ∧ wf d t = true := by
  simp [wf, and_assoc]

theorem mem_insert {n : Nat} {v : α} {t : Table α} {e : Nat × α} (h : e ∈ insert n v t) : e = (n, v) ∨ e ∈ t := by
  induction t with
  | nil => simpa [insert] using h
  | cons x t ih =>
    simp only [insert] at h
    split at h
    · simpa using h
    · rcases List.mem_cons.1 h with h | h
      · exact Or.inr (by simp [h])
      · exact (ih h).imp id (fun h => by simp [h])

theorem wf_filter [DecidableEq α] (d : α) (p : Nat × α → Bool) {t : Table α} (h : wf d t = true) :
    wf d (t.filter p) = true := by
  induction t with
  | nil => rfl
  | cons e t ih =>
    obtain ⟨hd, hlt, hw⟩ := (wf_cons d e t).1 h
    simp only [List.filter_cons]
    split
    · exact (wf_cons d e _).2 ⟨hd, fun x hx => hlt x (List.mem_filter.1 hx).1, ih hw⟩
    · exact ih hw

theorem wf_insert [DecidableEq α] (d : α) (n : Nat) (v : α) {t : Table α} (hv : v ≠ d) (hn : ∀ e ∈ t, e.1 ≠ n)
    (h : wf d t = true) : wf d (insert n v t) = true := by
  induction t with
  | nil => simp [insert, wf, hv]
  | cons e t ih =>
    obtain ⟨hd, hlt, hw⟩ := (wf_cons d e t).1 h
    simp only [insert]
    split
    · next hlt' =>
      refine (wf_cons d _ _).2 ⟨hv, fun x hx => ?_, h⟩
      rcases List.mem_cons.1 hx with hx | hx
      · exact hx ▸ hlt'
      · exact Nat.lt_trans hlt' (hlt x hx)
    · next hge =>
      refine (wf_cons d _ _).2 ⟨hd, fun x hx => ?_, ih (fun x hx => hn x (by simp [hx])) hw⟩
      rcases mem_insert hx with hx | hx
      · have := hn e (by simp); simp only [hx]; omega
      · exact hlt x hx

/-- A write keeps the canonical form. -/
theorem wf_write [DecidableEq α] (d : α) {t : Table α} (n : Nat) (v : α) (h : wf d t = true) :
    wf d (write d t n v) = true := by
  unfold write
  split
  · exact wf_filter d _ h
  · next hv => exact wf_insert d n v hv (fun e he => (mem_erase he).2) (wf_filter d _ h)

theorem wf_filterMap [DecidableEq α] {β : Type} (d : α) (f : β → Nat) (g : β → α) (l : List β)
    (hl : l.Pairwise fun x y => f x < f y) :
    wf d (l.filterMap fun x => if g x = d then none else some (f x, g x)) = true := by
  induction l with
  | nil => rfl
  | cons x l ih =>
    obtain ⟨hx, hl⟩ := List.pairwise_cons.1 hl
    simp only [List.filterMap_cons]
    by_cases h : g x = d
    · simp [h, ih hl]
    · simp only [h, if_false]
      refine (wf_cons d _ _).2 ⟨h, fun y hy => ?_, ih hl⟩
      obtain ⟨z, hz, hy⟩ := List.mem_filterMap.1 hy
      split at hy
      · cases hy
      · cases hy; exact hx z hz

theorem wf_pairwise [DecidableEq α] (d : α) {t : Table α} (h : wf d t = true) : t.Pairwise fun x y => x.1 < y.1 := by
  induction t with
  | nil => exact List.Pairwise.nil
  | cons e t ih => exact List.pairwise_cons.2 ⟨((wf_cons d e t).1 h).2.1, ih ((wf_cons d e t).1 h).2.2⟩

/-- Changing every record keeps the canonical form. -/
theorem wf_mapAll [DecidableEq α] (d : α) (f : α → α) {t : Table α} (h : wf d t = true) :
    wf d (mapAll d f t) = true :=
  wf_filterMap d (β := Nat × α) (fun e => e.1) (fun e => f e.2) t (wf_pairwise d h)

/-- A built table has the canonical form. -/
theorem wf_build [DecidableEq α] (d : α) (size : Nat) (f : Nat → α) : wf d (build d size f) = true :=
  wf_filterMap d id f _ (by simpa using List.pairwise_lt_range)

/-- A read of a table every record of which was changed by an `f` that keeps the cold record. -/
theorem read_mapAll [DecidableEq α] (d : α) (f : α → α) (hf : f d = d) {t : Table α} (h : wf d t = true) (n : Nat) :
    read d (mapAll d f t) n = f (read d t n) := by
  induction t with
  | nil => simp [mapAll, read, hf]
  | cons e t ih =>
    obtain ⟨_, hlt, hw⟩ := (wf_cons d e t).1 h
    have ih := ih hw
    unfold mapAll at ih ⊢
    simp only [List.filterMap_cons]
    by_cases hn : e.1 = n
    · by_cases hfe : f e.2 = d
      · have hno : ∀ u : Table α, (∀ x ∈ u, e.1 < x.1) → read d u n = d := by
          intro u hu
          induction u with
          | nil => rfl
          | cons x u ihu =>
            have hx := hu x (by simp)
            simp only [read]
            rw [if_neg (by omega)]
            exact ihu (fun y hy => hu y (by simp [hy]))
        simp only [hfe, if_true, ih, read, hn, hno t hlt, hf]
      · simp [hfe, read, hn]
    · by_cases hfe : f e.2 = d
      · simp [hfe, read, hn, ih]
      · simp [hfe, read, hn, ih]

/-- A read of a built table. -/
theorem read_build [DecidableEq α] (d : α) (size : Nat) (f : Nat → α) (n : Nat) :
    read d (build d size f) n = if n < size then f n else d := by
  have aux : ∀ l : List Nat, read d (l.filterMap fun k => if f k = d then none else some (k, f k)) n
      = if n ∈ l then f n else d := by
    intro l
    induction l with
    | nil => simp [read]
    | cons k l ih =>
      simp only [List.filterMap_cons]
      by_cases hk : f k = d
      · simp only [hk, if_true, ih, List.mem_cons]
        by_cases hn : n = k
        · subst hn; by_cases hl : n ∈ l <;> simp [hl, hk]
        · simp [hn]
      · simp only [hk, if_false, read, ih, List.mem_cons]
        by_cases hn : k = n
        · simp [hn]
        · simp [hn, Ne.symm hn]
  unfold build
  rw [aux]
  simp

/-- An entry that is not the default is listed. -/
theorem mem_of_read (d : α) {t : Table α} {n : Nat} (h : read d t n ≠ d) : (n, read d t n) ∈ t := by
  induction t with
  | nil => exact absurd rfl h
  | cons e t ih =>
    unfold read at h ⊢
    split
    · next hn => rw [← hn]; exact List.mem_cons_self ..
    · next hn => rw [if_neg hn] at h; exact List.mem_cons_of_mem _ (ih h)

/-- An index that is not listed reads as the cold record. -/
theorem read_absent (d : α) {t : Table α} {n : Nat} (h : ∀ e ∈ t, e.1 ≠ n) : read d t n = d := by
  induction t with
  | nil => rfl
  | cons e t ih =>
    unfold read
    rw [if_neg (h e (by simp))]
    exact ih fun x hx => h x (by simp [hx])

/-- A listed record is the one its index reads as, in a canonical table. -/
theorem read_mem [DecidableEq α] (d : α) {t : Table α} (h : wf d t = true) {e : Nat × α} (he : e ∈ t) :
    read d t e.1 = e.2 := by
  induction t with
  | nil => cases he
  | cons x t ih =>
    rw [wf_cons] at h
    unfold read
    rcases List.mem_cons.1 he with rfl | he
    · simp
    · rw [if_neg (by have := h.2.1 e he; omega)]
      exact ih h.2.2 he

@[simp] theorem read_nil (d : α) (n : Nat) : read d [] n = d := rfl

end Sys2Proof.Machine.Table
end

