-- ==== Sys2Proof/Laws/State.lean ====
section
/-! SUPPORT. What each plain update of the state leaves: one lemma per field per update. -/

namespace Sys2Proof.Machine

namespace State

variable (s : State)

/-! ### setCall -/

@[simp] theorem pending_setCall (i : Nat) (r : Call) : (s.setCall i r).pending = s.pending := rfl
@[simp] theorem freeIndex_setCall (i : Nat) (r : Call) : (s.setCall i r).freeIndex = s.freeIndex := rfl
@[simp] theorem path_setCall (i : Nat) (r : Call) : (s.setCall i r).path = s.path := rfl
@[simp] theorem staging_setCall (i : Nat) (r : Call) : (s.setCall i r).staging = s.staging := rfl
@[simp] theorem intake_setCall (i : Nat) (r : Call) : (s.setCall i r).intake = s.intake := rfl
@[simp] theorem part_setCall (i : Nat) (r : Call) : (s.setCall i r).part = s.part := rfl
@[simp] theorem seniority_setCall (i : Nat) (r : Call) : (s.setCall i r).seniority = s.seniority := rfl
@[simp] theorem deadlines_setCall (i : Nat) (r : Call) : (s.setCall i r).deadlines = s.deadlines := rfl
@[simp] theorem queues_setCall (i : Nat) (r : Call) : (s.setCall i r).queues = s.queues := rfl
@[simp] theorem samples_setCall (i : Nat) (r : Call) : (s.setCall i r).samples = s.samples := rfl
@[simp] theorem agents_setCall (i : Nat) (r : Call) : (s.setCall i r).agents = s.agents := rfl
@[simp] theorem engine_setCall (i : Nat) (r : Call) : (s.setCall i r).engine = s.engine := rfl
@[simp] theorem playout_setCall (i : Nat) (r : Call) : (s.setCall i r).playout = s.playout := rfl
@[simp] theorem feeds_setCall (i : Nat) (r : Call) : (s.setCall i r).feeds = s.feeds := rfl
@[simp] theorem time_setCall (i : Nat) (r : Call) : (s.setCall i r).time = s.time := rfl
@[simp] theorem events_setCall (i : Nat) (r : Call) : (s.setCall i r).events = s.events := rfl
@[simp] theorem tick_setCall (i : Nat) (r : Call) : (s.setCall i r).tick = s.tick := rfl
@[simp] theorem queue_setCall (i : Nat) (r : Call) (n : Nat) : (s.setCall i r).queue n = s.queue n := rfl
@[simp] theorem agent_setCall (i : Nat) (r : Call) (n : Nat) : (s.setCall i r).agent n = s.agent n := rfl
@[simp] theorem feed_setCall (i : Nat) (r : Call) (n : Nat) : (s.setCall i r).feed n = s.feed n := rfl
@[simp] theorem context_setCall (i : Nat) (r : Call) (n : Nat) : (s.setCall i r).context n = s.context n := rfl
@[simp] theorem binding_setCall (i : Nat) (r : Call) (n : Nat) : (s.setCall i r).binding n = s.binding n := rfl
@[simp] theorem segment_setCall (i : Nat) (r : Call) (n : Nat) : (s.setCall i r).segment n = s.segment n := rfl
@[simp] theorem program_setCall (i : Nat) (r : Call) (n : Nat) : (s.setCall i r).program n = s.program n := rfl
@[simp] theorem call_setCall (i : Nat) (r : Call) (n : Nat) :
    (s.setCall i r).call n = if n = i then r else s.call n := Table.read_write ..

/-! ### setQueue -/

@[simp] theorem pending_setQueue (i : Nat) (r : Queue) : (s.setQueue i r).pending = s.pending := rfl
@[simp] theorem freeIndex_setQueue (i : Nat) (r : Queue) : (s.setQueue i r).freeIndex = s.freeIndex := rfl
@[simp] theorem path_setQueue (i : Nat) (r : Queue) : (s.setQueue i r).path = s.path := rfl
@[simp] theorem staging_setQueue (i : Nat) (r : Queue) : (s.setQueue i r).staging = s.staging := rfl
@[simp] theorem intake_setQueue (i : Nat) (r : Queue) : (s.setQueue i r).intake = s.intake := rfl
@[simp] theorem part_setQueue (i : Nat) (r : Queue) : (s.setQueue i r).part = s.part := rfl
@[simp] theorem calls_setQueue (i : Nat) (r : Queue) : (s.setQueue i r).calls = s.calls := rfl
@[simp] theorem seniority_setQueue (i : Nat) (r : Queue) : (s.setQueue i r).seniority = s.seniority := rfl
@[simp] theorem deadlines_setQueue (i : Nat) (r : Queue) : (s.setQueue i r).deadlines = s.deadlines := rfl
@[simp] theorem samples_setQueue (i : Nat) (r : Queue) : (s.setQueue i r).samples = s.samples := rfl
@[simp] theorem agents_setQueue (i : Nat) (r : Queue) : (s.setQueue i r).agents = s.agents := rfl
@[simp] theorem engine_setQueue (i : Nat) (r : Queue) : (s.setQueue i r).engine = s.engine := rfl
@[simp] theorem playout_setQueue (i : Nat) (r : Queue) : (s.setQueue i r).playout = s.playout := rfl
@[simp] theorem feeds_setQueue (i : Nat) (r : Queue) : (s.setQueue i r).feeds = s.feeds := rfl
@[simp] theorem time_setQueue (i : Nat) (r : Queue) : (s.setQueue i r).time = s.time := rfl
@[simp] theorem events_setQueue (i : Nat) (r : Queue) : (s.setQueue i r).events = s.events := rfl
@[simp] theorem tick_setQueue (i : Nat) (r : Queue) : (s.setQueue i r).tick = s.tick := rfl
@[simp] theorem call_setQueue (i : Nat) (r : Queue) (n : Nat) : (s.setQueue i r).call n = s.call n := rfl
@[simp] theorem agent_setQueue (i : Nat) (r : Queue) (n : Nat) : (s.setQueue i r).agent n = s.agent n := rfl
@[simp] theorem feed_setQueue (i : Nat) (r : Queue) (n : Nat) : (s.setQueue i r).feed n = s.feed n := rfl
@[simp] theorem context_setQueue (i : Nat) (r : Queue) (n : Nat) : (s.setQueue i r).context n = s.context n := rfl
@[simp] theorem binding_setQueue (i : Nat) (r : Queue) (n : Nat) : (s.setQueue i r).binding n = s.binding n := rfl
@[simp] theorem segment_setQueue (i : Nat) (r : Queue) (n : Nat) : (s.setQueue i r).segment n = s.segment n := rfl
@[simp] theorem program_setQueue (i : Nat) (r : Queue) (n : Nat) : (s.setQueue i r).program n = s.program n := rfl
@[simp] theorem queue_setQueue (i : Nat) (r : Queue) (n : Nat) :
    (s.setQueue i r).queue n = if n = i then r else s.queue n := Table.read_write ..

/-! ### setAgent -/

@[simp] theorem pending_setAgent (i : Nat) (r : Agent) : (s.setAgent i r).pending = s.pending := rfl
@[simp] theorem freeIndex_setAgent (i : Nat) (r : Agent) : (s.setAgent i r).freeIndex = s.freeIndex := rfl
@[simp] theorem path_setAgent (i : Nat) (r : Agent) : (s.setAgent i r).path = s.path := rfl
@[simp] theorem staging_setAgent (i : Nat) (r : Agent) : (s.setAgent i r).staging = s.staging := rfl
@[simp] theorem intake_setAgent (i : Nat) (r : Agent) : (s.setAgent i r).intake = s.intake := rfl
@[simp] theorem part_setAgent (i : Nat) (r : Agent) : (s.setAgent i r).part = s.part := rfl
@[simp] theorem calls_setAgent (i : Nat) (r : Agent) : (s.setAgent i r).calls = s.calls := rfl
@[simp] theorem seniority_setAgent (i : Nat) (r : Agent) : (s.setAgent i r).seniority = s.seniority := rfl
@[simp] theorem deadlines_setAgent (i : Nat) (r : Agent) : (s.setAgent i r).deadlines = s.deadlines := rfl
@[simp] theorem queues_setAgent (i : Nat) (r : Agent) : (s.setAgent i r).queues = s.queues := rfl
@[simp] theorem samples_setAgent (i : Nat) (r : Agent) : (s.setAgent i r).samples = s.samples := rfl
@[simp] theorem engine_setAgent (i : Nat) (r : Agent) : (s.setAgent i r).engine = s.engine := rfl
@[simp] theorem playout_setAgent (i : Nat) (r : Agent) : (s.setAgent i r).playout = s.playout := rfl
@[simp] theorem feeds_setAgent (i : Nat) (r : Agent) : (s.setAgent i r).feeds = s.feeds := rfl
@[simp] theorem time_setAgent (i : Nat) (r : Agent) : (s.setAgent i r).time = s.time := rfl
@[simp] theorem events_setAgent (i : Nat) (r : Agent) : (s.setAgent i r).events = s.events := rfl
@[simp] theorem tick_setAgent (i : Nat) (r : Agent) : (s.setAgent i r).tick = s.tick := rfl
@[simp] theorem call_setAgent (i : Nat) (r : Agent) (n : Nat) : (s.setAgent i r).call n = s.call n := rfl
@[simp] theorem queue_setAgent (i : Nat) (r : Agent) (n : Nat) : (s.setAgent i r).queue n = s.queue n := rfl
@[simp] theorem feed_setAgent (i : Nat) (r : Agent) (n : Nat) : (s.setAgent i r).feed n = s.feed n := rfl
@[simp] theorem context_setAgent (i : Nat) (r : Agent) (n : Nat) : (s.setAgent i r).context n = s.context n := rfl
@[simp] theorem binding_setAgent (i : Nat) (r : Agent) (n : Nat) : (s.setAgent i r).binding n = s.binding n := rfl
@[simp] theorem segment_setAgent (i : Nat) (r : Agent) (n : Nat) : (s.setAgent i r).segment n = s.segment n := rfl
@[simp] theorem program_setAgent (i : Nat) (r : Agent) (n : Nat) : (s.setAgent i r).program n = s.program n := rfl
@[simp] theorem agent_setAgent (i : Nat) (r : Agent) (n : Nat) :
    (s.setAgent i r).agent n = if n = i then r else s.agent n := Table.read_write ..

/-! ### setFeed -/

@[simp] theorem pending_setFeed (i : Nat) (r : Feed) : (s.setFeed i r).pending = s.pending := rfl
@[simp] theorem freeIndex_setFeed (i : Nat) (r : Feed) : (s.setFeed i r).freeIndex = s.freeIndex := rfl
@[simp] theorem path_setFeed (i : Nat) (r : Feed) : (s.setFeed i r).path = s.path := rfl
@[simp] theorem staging_setFeed (i : Nat) (r : Feed) : (s.setFeed i r).staging = s.staging := rfl
@[simp] theorem intake_setFeed (i : Nat) (r : Feed) : (s.setFeed i r).intake = s.intake := rfl
@[simp] theorem part_setFeed (i : Nat) (r : Feed) : (s.setFeed i r).part = s.part := rfl
@[simp] theorem calls_setFeed (i : Nat) (r : Feed) : (s.setFeed i r).calls = s.calls := rfl
@[simp] theorem seniority_setFeed (i : Nat) (r : Feed) : (s.setFeed i r).seniority = s.seniority := rfl
@[simp] theorem deadlines_setFeed (i : Nat) (r : Feed) : (s.setFeed i r).deadlines = s.deadlines := rfl
@[simp] theorem queues_setFeed (i : Nat) (r : Feed) : (s.setFeed i r).queues = s.queues := rfl
@[simp] theorem samples_setFeed (i : Nat) (r : Feed) : (s.setFeed i r).samples = s.samples := rfl
@[simp] theorem agents_setFeed (i : Nat) (r : Feed) : (s.setFeed i r).agents = s.agents := rfl
@[simp] theorem engine_setFeed (i : Nat) (r : Feed) : (s.setFeed i r).engine = s.engine := rfl
@[simp] theorem playout_setFeed (i : Nat) (r : Feed) : (s.setFeed i r).playout = s.playout := rfl
@[simp] theorem time_setFeed (i : Nat) (r : Feed) : (s.setFeed i r).time = s.time := rfl
@[simp] theorem events_setFeed (i : Nat) (r : Feed) : (s.setFeed i r).events = s.events := rfl
@[simp] theorem tick_setFeed (i : Nat) (r : Feed) : (s.setFeed i r).tick = s.tick := rfl
@[simp] theorem call_setFeed (i : Nat) (r : Feed) (n : Nat) : (s.setFeed i r).call n = s.call n := rfl
@[simp] theorem queue_setFeed (i : Nat) (r : Feed) (n : Nat) : (s.setFeed i r).queue n = s.queue n := rfl
@[simp] theorem agent_setFeed (i : Nat) (r : Feed) (n : Nat) : (s.setFeed i r).agent n = s.agent n := rfl
@[simp] theorem context_setFeed (i : Nat) (r : Feed) (n : Nat) : (s.setFeed i r).context n = s.context n := rfl
@[simp] theorem binding_setFeed (i : Nat) (r : Feed) (n : Nat) : (s.setFeed i r).binding n = s.binding n := rfl
@[simp] theorem segment_setFeed (i : Nat) (r : Feed) (n : Nat) : (s.setFeed i r).segment n = s.segment n := rfl
@[simp] theorem program_setFeed (i : Nat) (r : Feed) (n : Nat) : (s.setFeed i r).program n = s.program n := rfl
@[simp] theorem feed_setFeed (i : Nat) (r : Feed) (n : Nat) :
    (s.setFeed i r).feed n = if n = i then r else s.feed n := Table.read_write ..

/-! ### setContext -/

@[simp] theorem pending_setContext (i : Nat) (r : Context) : (s.setContext i r).pending = s.pending := rfl
@[simp] theorem freeIndex_setContext (i : Nat) (r : Context) : (s.setContext i r).freeIndex = s.freeIndex := rfl
@[simp] theorem path_setContext (i : Nat) (r : Context) : (s.setContext i r).path = s.path := rfl
@[simp] theorem staging_setContext (i : Nat) (r : Context) : (s.setContext i r).staging = s.staging := rfl
@[simp] theorem intake_setContext (i : Nat) (r : Context) : (s.setContext i r).intake = s.intake := rfl
@[simp] theorem part_setContext (i : Nat) (r : Context) : (s.setContext i r).part = s.part := rfl
@[simp] theorem calls_setContext (i : Nat) (r : Context) : (s.setContext i r).calls = s.calls := rfl
@[simp] theorem seniority_setContext (i : Nat) (r : Context) : (s.setContext i r).seniority = s.seniority := rfl
@[simp] theorem deadlines_setContext (i : Nat) (r : Context) : (s.setContext i r).deadlines = s.deadlines := rfl
@[simp] theorem queues_setContext (i : Nat) (r : Context) : (s.setContext i r).queues = s.queues := rfl
@[simp] theorem samples_setContext (i : Nat) (r : Context) : (s.setContext i r).samples = s.samples := rfl
@[simp] theorem agents_setContext (i : Nat) (r : Context) : (s.setContext i r).agents = s.agents := rfl
@[simp] theorem engine_setContext (i : Nat) (r : Context) : (s.setContext i r).engine = s.engine := rfl
@[simp] theorem feeds_setContext (i : Nat) (r : Context) : (s.setContext i r).feeds = s.feeds := rfl
@[simp] theorem time_setContext (i : Nat) (r : Context) : (s.setContext i r).time = s.time := rfl
@[simp] theorem events_setContext (i : Nat) (r : Context) : (s.setContext i r).events = s.events := rfl
@[simp] theorem tick_setContext (i : Nat) (r : Context) : (s.setContext i r).tick = s.tick := rfl
@[simp] theorem call_setContext (i : Nat) (r : Context) (n : Nat) : (s.setContext i r).call n = s.call n := rfl
@[simp] theorem queue_setContext (i : Nat) (r : Context) (n : Nat) : (s.setContext i r).queue n = s.queue n := rfl
@[simp] theorem agent_setContext (i : Nat) (r : Context) (n : Nat) : (s.setContext i r).agent n = s.agent n := rfl
@[simp] theorem feed_setContext (i : Nat) (r : Context) (n : Nat) : (s.setContext i r).feed n = s.feed n := rfl
@[simp] theorem binding_setContext (i : Nat) (r : Context) (n : Nat) : (s.setContext i r).binding n = s.binding n := rfl
@[simp] theorem segment_setContext (i : Nat) (r : Context) (n : Nat) : (s.setContext i r).segment n = s.segment n := rfl
@[simp] theorem program_setContext (i : Nat) (r : Context) (n : Nat) : (s.setContext i r).program n = s.program n := rfl
@[simp] theorem context_setContext (i : Nat) (r : Context) (n : Nat) :
    (s.setContext i r).context n = if n = i then r else s.context n := Table.read_write ..

/-- Of two writes of one context the second stands. -/
theorem setContext_setContext (i : Nat) (a b : Context) : (s.setContext i a).setContext i b = s.setContext i b := by
  unfold setContext
  rw [Table.write_write]

/-! ### setBinding -/

@[simp] theorem pending_setBinding (i : Nat) (b : Option Nat) : (s.setBinding i b).pending = s.pending := rfl
@[simp] theorem freeIndex_setBinding (i : Nat) (b : Option Nat) : (s.setBinding i b).freeIndex = s.freeIndex := rfl
@[simp] theorem path_setBinding (i : Nat) (b : Option Nat) : (s.setBinding i b).path = s.path := rfl
@[simp] theorem staging_setBinding (i : Nat) (b : Option Nat) : (s.setBinding i b).staging = s.staging := rfl
@[simp] theorem intake_setBinding (i : Nat) (b : Option Nat) : (s.setBinding i b).intake = s.intake := rfl
@[simp] theorem part_setBinding (i : Nat) (b : Option Nat) : (s.setBinding i b).part = s.part := rfl
@[simp] theorem calls_setBinding (i : Nat) (b : Option Nat) : (s.setBinding i b).calls = s.calls := rfl
@[simp] theorem seniority_setBinding (i : Nat) (b : Option Nat) : (s.setBinding i b).seniority = s.seniority := rfl
@[simp] theorem deadlines_setBinding (i : Nat) (b : Option Nat) : (s.setBinding i b).deadlines = s.deadlines := rfl
@[simp] theorem queues_setBinding (i : Nat) (b : Option Nat) : (s.setBinding i b).queues = s.queues := rfl
@[simp] theorem samples_setBinding (i : Nat) (b : Option Nat) : (s.setBinding i b).samples = s.samples := rfl
@[simp] theorem agents_setBinding (i : Nat) (b : Option Nat) : (s.setBinding i b).agents = s.agents := rfl
@[simp] theorem engine_setBinding (i : Nat) (b : Option Nat) : (s.setBinding i b).engine = s.engine := rfl
@[simp] theorem feeds_setBinding (i : Nat) (b : Option Nat) : (s.setBinding i b).feeds = s.feeds := rfl
@[simp] theorem time_setBinding (i : Nat) (b : Option Nat) : (s.setBinding i b).time = s.time := rfl
@[simp] theorem events_setBinding (i : Nat) (b : Option Nat) : (s.setBinding i b).events = s.events := rfl
@[simp] theorem tick_setBinding (i : Nat) (b : Option Nat) : (s.setBinding i b).tick = s.tick := rfl
@[simp] theorem call_setBinding (i : Nat) (b : Option Nat) (n : Nat) : (s.setBinding i b).call n = s.call n := rfl
@[simp] theorem queue_setBinding (i : Nat) (b : Option Nat) (n : Nat) : (s.setBinding i b).queue n = s.queue n := rfl
@[simp] theorem agent_setBinding (i : Nat) (b : Option Nat) (n : Nat) : (s.setBinding i b).agent n = s.agent n := rfl
@[simp] theorem feed_setBinding (i : Nat) (b : Option Nat) (n : Nat) : (s.setBinding i b).feed n = s.feed n := rfl
@[simp] theorem context_setBinding (i : Nat) (b : Option Nat) (n : Nat) : (s.setBinding i b).context n = s.context n := rfl
@[simp] theorem segment_setBinding (i : Nat) (b : Option Nat) (n : Nat) : (s.setBinding i b).segment n = s.segment n := rfl
@[simp] theorem program_setBinding (i : Nat) (b : Option Nat) (n : Nat) : (s.setBinding i b).program n = s.program n := rfl
@[simp] theorem binding_setBinding (i : Nat) (b : Option Nat) (n : Nat) :
    (s.setBinding i b).binding n = if n = i then b else s.binding n := Table.read_write ..

/-! ### setTime -/

@[simp] theorem pending_setTime (t : TimeBase) : (s.setTime t).pending = s.pending := rfl
@[simp] theorem freeIndex_setTime (t : TimeBase) : (s.setTime t).freeIndex = s.freeIndex := rfl
@[simp] theorem path_setTime (t : TimeBase) : (s.setTime t).path = s.path := rfl
@[simp] theorem staging_setTime (t : TimeBase) : (s.setTime t).staging = s.staging := rfl
@[simp] theorem intake_setTime (t : TimeBase) : (s.setTime t).intake = s.intake := rfl
@[simp] theorem part_setTime (t : TimeBase) : (s.setTime t).part = s.part := rfl
@[simp] theorem calls_setTime (t : TimeBase) : (s.setTime t).calls = s.calls := rfl
@[simp] theorem seniority_setTime (t : TimeBase) : (s.setTime t).seniority = s.seniority := rfl
@[simp] theorem deadlines_setTime (t : TimeBase) : (s.setTime t).deadlines = s.deadlines := rfl
@[simp] theorem queues_setTime (t : TimeBase) : (s.setTime t).queues = s.queues := rfl
@[simp] theorem samples_setTime (t : TimeBase) : (s.setTime t).samples = s.samples := rfl
@[simp] theorem agents_setTime (t : TimeBase) : (s.setTime t).agents = s.agents := rfl
@[simp] theorem engine_setTime (t : TimeBase) : (s.setTime t).engine = s.engine := rfl
@[simp] theorem playout_setTime (t : TimeBase) : (s.setTime t).playout = s.playout := rfl
@[simp] theorem feeds_setTime (t : TimeBase) : (s.setTime t).feeds = s.feeds := rfl
@[simp] theorem events_setTime (t : TimeBase) : (s.setTime t).events = s.events := rfl
@[simp] theorem call_setTime (t : TimeBase) (n : Nat) : (s.setTime t).call n = s.call n := rfl
@[simp] theorem queue_setTime (t : TimeBase) (n : Nat) : (s.setTime t).queue n = s.queue n := rfl
@[simp] theorem agent_setTime (t : TimeBase) (n : Nat) : (s.setTime t).agent n = s.agent n := rfl
@[simp] theorem feed_setTime (t : TimeBase) (n : Nat) : (s.setTime t).feed n = s.feed n := rfl
@[simp] theorem context_setTime (t : TimeBase) (n : Nat) : (s.setTime t).context n = s.context n := rfl
@[simp] theorem binding_setTime (t : TimeBase) (n : Nat) : (s.setTime t).binding n = s.binding n := rfl
@[simp] theorem segment_setTime (t : TimeBase) (n : Nat) : (s.setTime t).segment n = s.segment n := rfl
@[simp] theorem program_setTime (t : TimeBase) (n : Nat) : (s.setTime t).program n = s.program n := rfl

/-! ### setPartResult -/

@[simp] theorem pending_setPartResult (r : CommandResult) : (s.setPartResult r).pending = s.pending := rfl
@[simp] theorem freeIndex_setPartResult (r : CommandResult) : (s.setPartResult r).freeIndex = s.freeIndex := rfl
@[simp] theorem path_setPartResult (r : CommandResult) : (s.setPartResult r).path = s.path := rfl
@[simp] theorem staging_setPartResult (r : CommandResult) : (s.setPartResult r).staging = s.staging := rfl
@[simp] theorem intake_setPartResult (r : CommandResult) : (s.setPartResult r).intake = s.intake := rfl
@[simp] theorem calls_setPartResult (r : CommandResult) : (s.setPartResult r).calls = s.calls := rfl
@[simp] theorem seniority_setPartResult (r : CommandResult) : (s.setPartResult r).seniority = s.seniority := rfl
@[simp] theorem deadlines_setPartResult (r : CommandResult) : (s.setPartResult r).deadlines = s.deadlines := rfl
@[simp] theorem queues_setPartResult (r : CommandResult) : (s.setPartResult r).queues = s.queues := rfl
@[simp] theorem samples_setPartResult (r : CommandResult) : (s.setPartResult r).samples = s.samples := rfl
@[simp] theorem agents_setPartResult (r : CommandResult) : (s.setPartResult r).agents = s.agents := rfl
@[simp] theorem engine_setPartResult (r : CommandResult) : (s.setPartResult r).engine = s.engine := rfl
@[simp] theorem playout_setPartResult (r : CommandResult) : (s.setPartResult r).playout = s.playout := rfl
@[simp] theorem feeds_setPartResult (r : CommandResult) : (s.setPartResult r).feeds = s.feeds := rfl
@[simp] theorem time_setPartResult (r : CommandResult) : (s.setPartResult r).time = s.time := rfl
@[simp] theorem events_setPartResult (r : CommandResult) : (s.setPartResult r).events = s.events := rfl
@[simp] theorem tick_setPartResult (r : CommandResult) : (s.setPartResult r).tick = s.tick := rfl
@[simp] theorem call_setPartResult (r : CommandResult) (n : Nat) : (s.setPartResult r).call n = s.call n := rfl
@[simp] theorem queue_setPartResult (r : CommandResult) (n : Nat) : (s.setPartResult r).queue n = s.queue n := rfl
@[simp] theorem agent_setPartResult (r : CommandResult) (n : Nat) : (s.setPartResult r).agent n = s.agent n := rfl
@[simp] theorem feed_setPartResult (r : CommandResult) (n : Nat) : (s.setPartResult r).feed n = s.feed n := rfl
@[simp] theorem context_setPartResult (r : CommandResult) (n : Nat) : (s.setPartResult r).context n = s.context n := rfl
@[simp] theorem binding_setPartResult (r : CommandResult) (n : Nat) : (s.setPartResult r).binding n = s.binding n := rfl
@[simp] theorem segment_setPartResult (r : CommandResult) (n : Nat) : (s.setPartResult r).segment n = s.segment n := rfl
@[simp] theorem program_setPartResult (r : CommandResult) (n : Nat) : (s.setPartResult r).program n = s.program n := rfl

/-! ### endProposal -/

@[simp] theorem pending_endProposal : (s.endProposal).pending = s.pending := rfl
@[simp] theorem freeIndex_endProposal : (s.endProposal).freeIndex = s.freeIndex := rfl
@[simp] theorem path_endProposal : (s.endProposal).path = s.path := rfl
@[simp] theorem staging_endProposal : (s.endProposal).staging = s.staging := rfl
@[simp] theorem intake_endProposal : (s.endProposal).intake = s.intake := rfl
@[simp] theorem part_endProposal : (s.endProposal).part = s.part := rfl
@[simp] theorem calls_endProposal : (s.endProposal).calls = s.calls := rfl
@[simp] theorem seniority_endProposal : (s.endProposal).seniority = s.seniority := rfl
@[simp] theorem deadlines_endProposal : (s.endProposal).deadlines = s.deadlines := rfl
@[simp] theorem queues_endProposal : (s.endProposal).queues = s.queues := rfl
@[simp] theorem samples_endProposal : (s.endProposal).samples = s.samples := rfl
@[simp] theorem agents_endProposal : (s.endProposal).agents = s.agents := rfl
@[simp] theorem playout_endProposal : (s.endProposal).playout = s.playout := rfl
@[simp] theorem feeds_endProposal : (s.endProposal).feeds = s.feeds := rfl
@[simp] theorem time_endProposal : (s.endProposal).time = s.time := rfl
@[simp] theorem events_endProposal : (s.endProposal).events = s.events := rfl
@[simp] theorem tick_endProposal : (s.endProposal).tick = s.tick := rfl
@[simp] theorem call_endProposal (n : Nat) : (s.endProposal).call n = s.call n := rfl
@[simp] theorem queue_endProposal (n : Nat) : (s.endProposal).queue n = s.queue n := rfl
@[simp] theorem agent_endProposal (n : Nat) : (s.endProposal).agent n = s.agent n := rfl
@[simp] theorem feed_endProposal (n : Nat) : (s.endProposal).feed n = s.feed n := rfl
@[simp] theorem context_endProposal (n : Nat) : (s.endProposal).context n = s.context n := rfl
@[simp] theorem binding_endProposal (n : Nat) : (s.endProposal).binding n = s.binding n := rfl
@[simp] theorem segment_endProposal (n : Nat) : (s.endProposal).segment n = s.segment n := rfl
@[simp] theorem program_endProposal (n : Nat) : (s.endProposal).program n = s.program n := rfl

/-! ### popTrigger -/

@[simp] theorem pending_popTrigger : (s.popTrigger).pending = s.pending := rfl
@[simp] theorem freeIndex_popTrigger : (s.popTrigger).freeIndex = s.freeIndex := rfl
@[simp] theorem path_popTrigger : (s.popTrigger).path = s.path := rfl
@[simp] theorem staging_popTrigger : (s.popTrigger).staging = s.staging := rfl
@[simp] theorem intake_popTrigger : (s.popTrigger).intake = s.intake := rfl
@[simp] theorem part_popTrigger : (s.popTrigger).part = s.part := rfl
@[simp] theorem calls_popTrigger : (s.popTrigger).calls = s.calls := rfl
@[simp] theorem seniority_popTrigger : (s.popTrigger).seniority = s.seniority := rfl
@[simp] theorem deadlines_popTrigger : (s.popTrigger).deadlines = s.deadlines := rfl
@[simp] theorem queues_popTrigger : (s.popTrigger).queues = s.queues := rfl
@[simp] theorem samples_popTrigger : (s.popTrigger).samples = s.samples := rfl
@[simp] theorem agents_popTrigger : (s.popTrigger).agents = s.agents := rfl
@[simp] theorem playout_popTrigger : (s.popTrigger).playout = s.playout := rfl
@[simp] theorem feeds_popTrigger : (s.popTrigger).feeds = s.feeds := rfl
@[simp] theorem time_popTrigger : (s.popTrigger).time = s.time := rfl
@[simp] theorem events_popTrigger : (s.popTrigger).events = s.events := rfl
@[simp] theorem tick_popTrigger : (s.popTrigger).tick = s.tick := rfl
@[simp] theorem call_popTrigger (n : Nat) : (s.popTrigger).call n = s.call n := rfl
@[simp] theorem queue_popTrigger (n : Nat) : (s.popTrigger).queue n = s.queue n := rfl
@[simp] theorem agent_popTrigger (n : Nat) : (s.popTrigger).agent n = s.agent n := rfl
@[simp] theorem feed_popTrigger (n : Nat) : (s.popTrigger).feed n = s.feed n := rfl
@[simp] theorem context_popTrigger (n : Nat) : (s.popTrigger).context n = s.context n := rfl
@[simp] theorem binding_popTrigger (n : Nat) : (s.popTrigger).binding n = s.binding n := rfl
@[simp] theorem segment_popTrigger (n : Nat) : (s.popTrigger).segment n = s.segment n := rfl
@[simp] theorem program_popTrigger (n : Nat) : (s.popTrigger).program n = s.program n := rfl

/-! ### propose -/

@[simp] theorem pending_propose (p : Proposal) : (s.propose p).pending = s.pending := rfl
@[simp] theorem freeIndex_propose (p : Proposal) : (s.propose p).freeIndex = s.freeIndex := rfl
@[simp] theorem path_propose (p : Proposal) : (s.propose p).path = s.path := rfl
@[simp] theorem staging_propose (p : Proposal) : (s.propose p).staging = s.staging := rfl
@[simp] theorem intake_propose (p : Proposal) : (s.propose p).intake = s.intake := rfl
@[simp] theorem part_propose (p : Proposal) : (s.propose p).part = s.part := rfl
@[simp] theorem calls_propose (p : Proposal) : (s.propose p).calls = s.calls := rfl
@[simp] theorem seniority_propose (p : Proposal) : (s.propose p).seniority = s.seniority := rfl
@[simp] theorem deadlines_propose (p : Proposal) : (s.propose p).deadlines = s.deadlines := rfl
@[simp] theorem queues_propose (p : Proposal) : (s.propose p).queues = s.queues := rfl
@[simp] theorem samples_propose (p : Proposal) : (s.propose p).samples = s.samples := rfl
@[simp] theorem agents_propose (p : Proposal) : (s.propose p).agents = s.agents := rfl
@[simp] theorem playout_propose (p : Proposal) : (s.propose p).playout = s.playout := rfl
@[simp] theorem feeds_propose (p : Proposal) : (s.propose p).feeds = s.feeds := rfl
@[simp] theorem time_propose (p : Proposal) : (s.propose p).time = s.time := rfl
@[simp] theorem events_propose (p : Proposal) : (s.propose p).events = s.events := rfl
@[simp] theorem tick_propose (p : Proposal) : (s.propose p).tick = s.tick := rfl
@[simp] theorem call_propose (p : Proposal) (n : Nat) : (s.propose p).call n = s.call n := rfl
@[simp] theorem queue_propose (p : Proposal) (n : Nat) : (s.propose p).queue n = s.queue n := rfl
@[simp] theorem agent_propose (p : Proposal) (n : Nat) : (s.propose p).agent n = s.agent n := rfl
@[simp] theorem feed_propose (p : Proposal) (n : Nat) : (s.propose p).feed n = s.feed n := rfl
@[simp] theorem context_propose (p : Proposal) (n : Nat) : (s.propose p).context n = s.context n := rfl
@[simp] theorem binding_propose (p : Proposal) (n : Nat) : (s.propose p).binding n = s.binding n := rfl
@[simp] theorem segment_propose (p : Proposal) (n : Nat) : (s.propose p).segment n = s.segment n := rfl
@[simp] theorem program_propose (p : Proposal) (n : Nat) : (s.propose p).program n = s.program n := rfl

/-! ### dropOldest -/

@[simp] theorem pending_dropOldest : (s.dropOldest).pending = s.pending := rfl
@[simp] theorem freeIndex_dropOldest : (s.dropOldest).freeIndex = s.freeIndex := rfl
@[simp] theorem path_dropOldest : (s.dropOldest).path = s.path := rfl
@[simp] theorem staging_dropOldest : (s.dropOldest).staging = s.staging := rfl
@[simp] theorem part_dropOldest : (s.dropOldest).part = s.part := rfl
@[simp] theorem calls_dropOldest : (s.dropOldest).calls = s.calls := rfl
@[simp] theorem seniority_dropOldest : (s.dropOldest).seniority = s.seniority := rfl
@[simp] theorem deadlines_dropOldest : (s.dropOldest).deadlines = s.deadlines := rfl
@[simp] theorem queues_dropOldest : (s.dropOldest).queues = s.queues := rfl
@[simp] theorem samples_dropOldest : (s.dropOldest).samples = s.samples := rfl
@[simp] theorem agents_dropOldest : (s.dropOldest).agents = s.agents := rfl
@[simp] theorem engine_dropOldest : (s.dropOldest).engine = s.engine := rfl
@[simp] theorem playout_dropOldest : (s.dropOldest).playout = s.playout := rfl
@[simp] theorem feeds_dropOldest : (s.dropOldest).feeds = s.feeds := rfl
@[simp] theorem time_dropOldest : (s.dropOldest).time = s.time := rfl
@[simp] theorem events_dropOldest : (s.dropOldest).events = s.events := rfl
@[simp] theorem tick_dropOldest : (s.dropOldest).tick = s.tick := rfl
@[simp] theorem call_dropOldest (n : Nat) : (s.dropOldest).call n = s.call n := rfl
@[simp] theorem queue_dropOldest (n : Nat) : (s.dropOldest).queue n = s.queue n := rfl
@[simp] theorem agent_dropOldest (n : Nat) : (s.dropOldest).agent n = s.agent n := rfl
@[simp] theorem feed_dropOldest (n : Nat) : (s.dropOldest).feed n = s.feed n := rfl
@[simp] theorem context_dropOldest (n : Nat) : (s.dropOldest).context n = s.context n := rfl
@[simp] theorem binding_dropOldest (n : Nat) : (s.dropOldest).binding n = s.binding n := rfl
@[simp] theorem segment_dropOldest (n : Nat) : (s.dropOldest).segment n = s.segment n := rfl
@[simp] theorem program_dropOldest (n : Nat) : (s.dropOldest).program n = s.program n := rfl

/-! ### takeSeniority -/

@[simp] theorem pending_takeSeniority : (s.takeSeniority).pending = s.pending := rfl
@[simp] theorem freeIndex_takeSeniority : (s.takeSeniority).freeIndex = s.freeIndex := rfl
@[simp] theorem path_takeSeniority : (s.takeSeniority).path = s.path := rfl
@[simp] theorem staging_takeSeniority : (s.takeSeniority).staging = s.staging := rfl
@[simp] theorem intake_takeSeniority : (s.takeSeniority).intake = s.intake := rfl
@[simp] theorem part_takeSeniority : (s.takeSeniority).part = s.part := rfl
@[simp] theorem calls_takeSeniority : (s.takeSeniority).calls = s.calls := rfl
@[simp] theorem deadlines_takeSeniority : (s.takeSeniority).deadlines = s.deadlines := rfl
@[simp] theorem queues_takeSeniority : (s.takeSeniority).queues = s.queues := rfl
@[simp] theorem samples_takeSeniority : (s.takeSeniority).samples = s.samples := rfl
@[simp] theorem agents_takeSeniority : (s.takeSeniority).agents = s.agents := rfl
@[simp] theorem engine_takeSeniority : (s.takeSeniority).engine = s.engine := rfl
@[simp] theorem playout_takeSeniority : (s.takeSeniority).playout = s.playout := rfl
@[simp] theorem feeds_takeSeniority : (s.takeSeniority).feeds = s.feeds := rfl
@[simp] theorem time_takeSeniority : (s.takeSeniority).time = s.time := rfl
@[simp] theorem events_takeSeniority : (s.takeSeniority).events = s.events := rfl
@[simp] theorem tick_takeSeniority : (s.takeSeniority).tick = s.tick := rfl
@[simp] theorem call_takeSeniority (n : Nat) : (s.takeSeniority).call n = s.call n := rfl
@[simp] theorem queue_takeSeniority (n : Nat) : (s.takeSeniority).queue n = s.queue n := rfl
@[simp] theorem agent_takeSeniority (n : Nat) : (s.takeSeniority).agent n = s.agent n := rfl
@[simp] theorem feed_takeSeniority (n : Nat) : (s.takeSeniority).feed n = s.feed n := rfl
@[simp] theorem context_takeSeniority (n : Nat) : (s.takeSeniority).context n = s.context n := rfl
@[simp] theorem binding_takeSeniority (n : Nat) : (s.takeSeniority).binding n = s.binding n := rfl
@[simp] theorem segment_takeSeniority (n : Nat) : (s.takeSeniority).segment n = s.segment n := rfl
@[simp] theorem program_takeSeniority (n : Nat) : (s.takeSeniority).program n = s.program n := rfl

/-! ### dropDeadline -/

@[simp] theorem pending_dropDeadline (c : Nat) : (s.dropDeadline c).pending = s.pending := rfl
@[simp] theorem freeIndex_dropDeadline (c : Nat) : (s.dropDeadline c).freeIndex = s.freeIndex := rfl
@[simp] theorem path_dropDeadline (c : Nat) : (s.dropDeadline c).path = s.path := rfl
@[simp] theorem staging_dropDeadline (c : Nat) : (s.dropDeadline c).staging = s.staging := rfl
@[simp] theorem intake_dropDeadline (c : Nat) : (s.dropDeadline c).intake = s.intake := rfl
@[simp] theorem part_dropDeadline (c : Nat) : (s.dropDeadline c).part = s.part := rfl
@[simp] theorem calls_dropDeadline (c : Nat) : (s.dropDeadline c).calls = s.calls := rfl
@[simp] theorem seniority_dropDeadline (c : Nat) : (s.dropDeadline c).seniority = s.seniority := rfl
@[simp] theorem queues_dropDeadline (c : Nat) : (s.dropDeadline c).queues = s.queues := rfl
@[simp] theorem samples_dropDeadline (c : Nat) : (s.dropDeadline c).samples = s.samples := rfl
@[simp] theorem agents_dropDeadline (c : Nat) : (s.dropDeadline c).agents = s.agents := rfl
@[simp] theorem engine_dropDeadline (c : Nat) : (s.dropDeadline c).engine = s.engine := rfl
@[simp] theorem playout_dropDeadline (c : Nat) : (s.dropDeadline c).playout = s.playout := rfl
@[simp] theorem feeds_dropDeadline (c : Nat) : (s.dropDeadline c).feeds = s.feeds := rfl
@[simp] theorem time_dropDeadline (c : Nat) : (s.dropDeadline c).time = s.time := rfl
@[simp] theorem events_dropDeadline (c : Nat) : (s.dropDeadline c).events = s.events := rfl
@[simp] theorem tick_dropDeadline (c : Nat) : (s.dropDeadline c).tick = s.tick := rfl
@[simp] theorem call_dropDeadline (c : Nat) (n : Nat) : (s.dropDeadline c).call n = s.call n := rfl
@[simp] theorem queue_dropDeadline (c : Nat) (n : Nat) : (s.dropDeadline c).queue n = s.queue n := rfl
@[simp] theorem agent_dropDeadline (c : Nat) (n : Nat) : (s.dropDeadline c).agent n = s.agent n := rfl
@[simp] theorem feed_dropDeadline (c : Nat) (n : Nat) : (s.dropDeadline c).feed n = s.feed n := rfl
@[simp] theorem context_dropDeadline (c : Nat) (n : Nat) : (s.dropDeadline c).context n = s.context n := rfl
@[simp] theorem binding_dropDeadline (c : Nat) (n : Nat) : (s.dropDeadline c).binding n = s.binding n := rfl
@[simp] theorem segment_dropDeadline (c : Nat) (n : Nat) : (s.dropDeadline c).segment n = s.segment n := rfl
@[simp] theorem program_dropDeadline (c : Nat) (n : Nat) : (s.dropDeadline c).program n = s.program n := rfl

/-! ### answerRead -/

@[simp] theorem pending_answerRead (w : Word) : (s.answerRead w).pending = s.pending := rfl
@[simp] theorem freeIndex_answerRead (w : Word) : (s.answerRead w).freeIndex = s.freeIndex := rfl
@[simp] theorem staging_answerRead (w : Word) : (s.answerRead w).staging = s.staging := rfl
@[simp] theorem intake_answerRead (w : Word) : (s.answerRead w).intake = s.intake := rfl
@[simp] theorem part_answerRead (w : Word) : (s.answerRead w).part = s.part := rfl
@[simp] theorem calls_answerRead (w : Word) : (s.answerRead w).calls = s.calls := rfl
@[simp] theorem seniority_answerRead (w : Word) : (s.answerRead w).seniority = s.seniority := rfl
@[simp] theorem deadlines_answerRead (w : Word) : (s.answerRead w).deadlines = s.deadlines := rfl
@[simp] theorem queues_answerRead (w : Word) : (s.answerRead w).queues = s.queues := rfl
@[simp] theorem samples_answerRead (w : Word) : (s.answerRead w).samples = s.samples := rfl
@[simp] theorem agents_answerRead (w : Word) : (s.answerRead w).agents = s.agents := rfl
@[simp] theorem engine_answerRead (w : Word) : (s.answerRead w).engine = s.engine := rfl
@[simp] theorem playout_answerRead (w : Word) : (s.answerRead w).playout = s.playout := rfl
@[simp] theorem feeds_answerRead (w : Word) : (s.answerRead w).feeds = s.feeds := rfl
@[simp] theorem time_answerRead (w : Word) : (s.answerRead w).time = s.time := rfl
@[simp] theorem events_answerRead (w : Word) : (s.answerRead w).events = s.events := rfl
@[simp] theorem tick_answerRead (w : Word) : (s.answerRead w).tick = s.tick := rfl
@[simp] theorem call_answerRead (w : Word) (n : Nat) : (s.answerRead w).call n = s.call n := rfl
@[simp] theorem queue_answerRead (w : Word) (n : Nat) : (s.answerRead w).queue n = s.queue n := rfl
@[simp] theorem agent_answerRead (w : Word) (n : Nat) : (s.answerRead w).agent n = s.agent n := rfl
@[simp] theorem feed_answerRead (w : Word) (n : Nat) : (s.answerRead w).feed n = s.feed n := rfl
@[simp] theorem context_answerRead (w : Word) (n : Nat) : (s.answerRead w).context n = s.context n := rfl
@[simp] theorem binding_answerRead (w : Word) (n : Nat) : (s.answerRead w).binding n = s.binding n := rfl
@[simp] theorem segment_answerRead (w : Word) (n : Nat) : (s.answerRead w).segment n = s.segment n := rfl
@[simp] theorem program_answerRead (w : Word) (n : Nat) : (s.answerRead w).program n = s.program n := rfl

/-! ### forwardBeat -/

@[simp] theorem pending_forwardBeat (b : Beat) : (s.forwardBeat b).pending = s.pending := rfl
@[simp] theorem freeIndex_forwardBeat (b : Beat) : (s.forwardBeat b).freeIndex = s.freeIndex := rfl
@[simp] theorem staging_forwardBeat (b : Beat) : (s.forwardBeat b).staging = s.staging := rfl
@[simp] theorem intake_forwardBeat (b : Beat) : (s.forwardBeat b).intake = s.intake := rfl
@[simp] theorem part_forwardBeat (b : Beat) : (s.forwardBeat b).part = s.part := rfl
@[simp] theorem calls_forwardBeat (b : Beat) : (s.forwardBeat b).calls = s.calls := rfl
@[simp] theorem seniority_forwardBeat (b : Beat) : (s.forwardBeat b).seniority = s.seniority := rfl
@[simp] theorem deadlines_forwardBeat (b : Beat) : (s.forwardBeat b).deadlines = s.deadlines := rfl
@[simp] theorem queues_forwardBeat (b : Beat) : (s.forwardBeat b).queues = s.queues := rfl
@[simp] theorem samples_forwardBeat (b : Beat) : (s.forwardBeat b).samples = s.samples := rfl
@[simp] theorem agents_forwardBeat (b : Beat) : (s.forwardBeat b).agents = s.agents := rfl
@[simp] theorem engine_forwardBeat (b : Beat) : (s.forwardBeat b).engine = s.engine := rfl
@[simp] theorem playout_forwardBeat (b : Beat) : (s.forwardBeat b).playout = s.playout := rfl
@[simp] theorem feeds_forwardBeat (b : Beat) : (s.forwardBeat b).feeds = s.feeds := rfl
@[simp] theorem time_forwardBeat (b : Beat) : (s.forwardBeat b).time = s.time := rfl
@[simp] theorem events_forwardBeat (b : Beat) : (s.forwardBeat b).events = s.events := rfl
@[simp] theorem tick_forwardBeat (b : Beat) : (s.forwardBeat b).tick = s.tick := rfl
@[simp] theorem call_forwardBeat (b : Beat) (n : Nat) : (s.forwardBeat b).call n = s.call n := rfl
@[simp] theorem queue_forwardBeat (b : Beat) (n : Nat) : (s.forwardBeat b).queue n = s.queue n := rfl
@[simp] theorem agent_forwardBeat (b : Beat) (n : Nat) : (s.forwardBeat b).agent n = s.agent n := rfl
@[simp] theorem feed_forwardBeat (b : Beat) (n : Nat) : (s.forwardBeat b).feed n = s.feed n := rfl
@[simp] theorem context_forwardBeat (b : Beat) (n : Nat) : (s.forwardBeat b).context n = s.context n := rfl
@[simp] theorem binding_forwardBeat (b : Beat) (n : Nat) : (s.forwardBeat b).binding n = s.binding n := rfl
@[simp] theorem segment_forwardBeat (b : Beat) (n : Nat) : (s.forwardBeat b).segment n = s.segment n := rfl
@[simp] theorem program_forwardBeat (b : Beat) (n : Nat) : (s.forwardBeat b).program n = s.program n := rfl

/-! ### holdBeat -/

@[simp] theorem pending_holdBeat (b : Beat) : (s.holdBeat b).pending = s.pending := rfl
@[simp] theorem freeIndex_holdBeat (b : Beat) : (s.holdBeat b).freeIndex = s.freeIndex := rfl
@[simp] theorem staging_holdBeat (b : Beat) : (s.holdBeat b).staging = s.staging := rfl
@[simp] theorem intake_holdBeat (b : Beat) : (s.holdBeat b).intake = s.intake := rfl
@[simp] theorem part_holdBeat (b : Beat) : (s.holdBeat b).part = s.part := rfl
@[simp] theorem calls_holdBeat (b : Beat) : (s.holdBeat b).calls = s.calls := rfl
@[simp] theorem seniority_holdBeat (b : Beat) : (s.holdBeat b).seniority = s.seniority := rfl
@[simp] theorem deadlines_holdBeat (b : Beat) : (s.holdBeat b).deadlines = s.deadlines := rfl
@[simp] theorem queues_holdBeat (b : Beat) : (s.holdBeat b).queues = s.queues := rfl
@[simp] theorem samples_holdBeat (b : Beat) : (s.holdBeat b).samples = s.samples := rfl
@[simp] theorem agents_holdBeat (b : Beat) : (s.holdBeat b).agents = s.agents := rfl
@[simp] theorem engine_holdBeat (b : Beat) : (s.holdBeat b).engine = s.engine := rfl
@[simp] theorem playout_holdBeat (b : Beat) : (s.holdBeat b).playout = s.playout := rfl
@[simp] theorem feeds_holdBeat (b : Beat) : (s.holdBeat b).feeds = s.feeds := rfl
@[simp] theorem time_holdBeat (b : Beat) : (s.holdBeat b).time = s.time := rfl
@[simp] theorem events_holdBeat (b : Beat) : (s.holdBeat b).events = s.events := rfl
@[simp] theorem tick_holdBeat (b : Beat) : (s.holdBeat b).tick = s.tick := rfl
@[simp] theorem call_holdBeat (b : Beat) (n : Nat) : (s.holdBeat b).call n = s.call n := rfl
@[simp] theorem queue_holdBeat (b : Beat) (n : Nat) : (s.holdBeat b).queue n = s.queue n := rfl
@[simp] theorem agent_holdBeat (b : Beat) (n : Nat) : (s.holdBeat b).agent n = s.agent n := rfl
@[simp] theorem feed_holdBeat (b : Beat) (n : Nat) : (s.holdBeat b).feed n = s.feed n := rfl
@[simp] theorem context_holdBeat (b : Beat) (n : Nat) : (s.holdBeat b).context n = s.context n := rfl
@[simp] theorem binding_holdBeat (b : Beat) (n : Nat) : (s.holdBeat b).binding n = s.binding n := rfl
@[simp] theorem segment_holdBeat (b : Beat) (n : Nat) : (s.holdBeat b).segment n = s.segment n := rfl
@[simp] theorem program_holdBeat (b : Beat) (n : Nat) : (s.holdBeat b).program n = s.program n := rfl

/-! ### What changed -/

@[simp] theorem tick_setTime (t : TimeBase) : (s.setTime t).tick = t.tick := rfl
@[simp] theorem time_setTime (t : TimeBase) : (s.setTime t).time = t := rfl
@[simp] theorem part_setPartResult (r : CommandResult) : (s.setPartResult r).part = { s.part with result := r } := rfl
@[simp] theorem engine_endProposal : s.endProposal.engine = { s.engine with proposal := none, reserved := false } := rfl
@[simp] theorem engine_popTrigger : s.popTrigger.engine = { s.engine with workList := s.engine.workList.tail } := rfl
@[simp] theorem engine_propose (p : Proposal) :
    (s.propose p).engine = { s.engine with proposal := some p, reserved := true } := rfl
@[simp] theorem deadlines_dropDeadline (c : Nat) :
    (s.dropDeadline c).deadlines = s.deadlines.filter fun d => d.call != c := rfl
@[simp] theorem intake_dropOldest : s.dropOldest.intake = s.intake.tail := rfl
@[simp] theorem seniority_takeSeniority : s.takeSeniority.seniority = s.seniority + 1 := rfl
@[simp] theorem path_answerRead (w : Word) : (s.answerRead w).path = { s.path with answer := .data w } := rfl
@[simp] theorem path_forwardBeat (b : Beat) :
    (s.forwardBeat b).path = { s.path with forward := s.path.forward ++ [b] } := rfl
@[simp] theorem path_holdBeat (b : Beat) : (s.holdBeat b).path = { s.path with waiting := s.path.waiting ++ [b] } := rfl
@[simp] theorem fetch_setContext (i : Nat) (r : Context) : (s.setContext i r).playout.fetch = s.playout.fetch := rfl
@[simp] theorem bindings_setContext (i : Nat) (r : Context) :
    (s.setContext i r).playout.bindings = s.playout.bindings := rfl
@[simp] theorem segments_setContext (i : Nat) (r : Context) :
    (s.setContext i r).playout.segments = s.playout.segments := rfl
@[simp] theorem programs_setContext (i : Nat) (r : Context) :
    (s.setContext i r).playout.programs = s.playout.programs := rfl
@[simp] theorem fetch_setBinding (i : Nat) (b : Option Nat) : (s.setBinding i b).playout.fetch = s.playout.fetch := rfl
@[simp] theorem contexts_setBinding (i : Nat) (b : Option Nat) :
    (s.setBinding i b).playout.contexts = s.playout.contexts := rfl
@[simp] theorem segments_setBinding (i : Nat) (b : Option Nat) :
    (s.setBinding i b).playout.segments = s.playout.segments := rfl
@[simp] theorem programs_setBinding (i : Nat) (b : Option Nat) :
    (s.setBinding i b).playout.programs = s.playout.programs := rfl

/-! ### settle: only the arbiter's count -/

theorem settle_eq : s.settle = { s with path := { s.path with passCount := s.settle.path.passCount } } := by
  unfold settle; split <;> rfl

@[simp] theorem pending_settle : s.settle.pending = s.pending := by unfold settle; split <;> rfl
@[simp] theorem freeIndex_settle : s.settle.freeIndex = s.freeIndex := by unfold settle; split <;> rfl
@[simp] theorem staging_settle : s.settle.staging = s.staging := by unfold settle; split <;> rfl
@[simp] theorem intake_settle : s.settle.intake = s.intake := by unfold settle; split <;> rfl
@[simp] theorem part_settle : s.settle.part = s.part := by unfold settle; split <;> rfl
@[simp] theorem calls_settle : s.settle.calls = s.calls := by unfold settle; split <;> rfl
@[simp] theorem seniority_settle : s.settle.seniority = s.seniority := by unfold settle; split <;> rfl
@[simp] theorem deadlines_settle : s.settle.deadlines = s.deadlines := by unfold settle; split <;> rfl
@[simp] theorem queues_settle : s.settle.queues = s.queues := by unfold settle; split <;> rfl
@[simp] theorem samples_settle : s.settle.samples = s.samples := by unfold settle; split <;> rfl
@[simp] theorem agents_settle : s.settle.agents = s.agents := by unfold settle; split <;> rfl
@[simp] theorem engine_settle : s.settle.engine = s.engine := by unfold settle; split <;> rfl
@[simp] theorem playout_settle : s.settle.playout = s.playout := by unfold settle; split <;> rfl
@[simp] theorem feeds_settle : s.settle.feeds = s.feeds := by unfold settle; split <;> rfl
@[simp] theorem time_settle : s.settle.time = s.time := by unfold settle; split <;> rfl
@[simp] theorem events_settle : s.settle.events = s.events := by unfold settle; split <;> rfl
@[simp] theorem resetAsserted_settle : s.settle.path.resetAsserted = s.path.resetAsserted := by unfold settle; split <;> rfl
@[simp] theorem straps_settle : s.settle.path.straps = s.path.straps := by unfold settle; split <;> rfl
@[simp] theorem waiting_settle : s.settle.path.waiting = s.path.waiting := by unfold settle; split <;> rfl
@[simp] theorem forward_settle : s.settle.path.forward = s.path.forward := by unfold settle; split <;> rfl
@[simp] theorem answer_settle : s.settle.path.answer = s.path.answer := by unfold settle; split <;> rfl
@[simp] theorem port_settle : s.settle.path.port = s.path.port := by unfold settle; split <;> rfl
@[simp] theorem tick_settle : s.settle.tick = s.tick := by unfold settle; split <;> rfl
@[simp] theorem irq_settle : s.settle.irq = s.irq := by unfold settle; split <;> rfl
@[simp] theorem call_settle (n : Nat) : s.settle.call n = s.call n := by unfold settle; split <;> rfl
@[simp] theorem queue_settle (n : Nat) : s.settle.queue n = s.queue n := by unfold settle; split <;> rfl
@[simp] theorem agent_settle (n : Nat) : s.settle.agent n = s.agent n := by unfold settle; split <;> rfl
@[simp] theorem feed_settle (n : Nat) : s.settle.feed n = s.feed n := by unfold settle; split <;> rfl
@[simp] theorem context_settle (n : Nat) : s.settle.context n = s.context n := by unfold settle; split <;> rfl
@[simp] theorem binding_settle (n : Nat) : s.settle.binding n = s.binding n := by unfold settle; split <;> rfl
@[simp] theorem segment_settle (n : Nat) : s.settle.segment n = s.segment n := by unfold settle; split <;> rfl
@[simp] theorem program_settle (n : Nat) : s.settle.program n = s.program n := by unfold settle; split <;> rfl

end State

end Sys2Proof.Machine
end

