-- ==== Sys2Proof/Laws/Frames.lean ====
section
/-! SUPPORT. What each shared operation may change: its components, and its records. -/

namespace Sys2Proof.Machine

/-! ### The relation -/

theorem Changes.refl (cs : List Component) (s : State) : Changes cs s s := by
  constructor; intro k _; cases k <;> simp [Component.agree]

theorem Component.agree_trans {k : Component} {s t u : State} (h : k.agree s t) (g : k.agree t u) : k.agree s u := by
  cases k <;> simp only [Component.agree] at * <;>
    first
    | exact g.trans h
    | exact ⟨g.1.trans h.1, g.2.trans h.2⟩
    | exact ⟨g.1.trans h.1, g.2.1.trans h.2.1, g.2.2.1.trans h.2.2.1, g.2.2.2.1.trans h.2.2.2.1,
        g.2.2.2.2.trans h.2.2.2.2⟩

theorem Changes.trans {cs : List Component} {s t u : State} (h : Changes cs s t) (g : Changes cs t u) :
    Changes cs s u :=
  ⟨fun k hk => Component.agree_trans (h.keeps k hk) (g.keeps k hk)⟩

theorem Changes.mono {cs ds : List Component} {s t : State} (h : Changes cs s t) (hs : cs ⊆ ds) : Changes ds s t :=
  ⟨fun k hk => h.keeps k (fun hc => hk (hs hc))⟩

/-- A step of a chain: the change just made, then what follows. -/
theorem Changes.step {cs ds : List Component} {s t u : State} (h : Changes cs s t) (hs : cs ⊆ ds)
    (g : Changes ds t u) : Changes ds s u :=
  (h.mono hs).trans g

theorem Changes.append {cs ds : List Component} {s t u : State} (h : Changes cs s t) (g : Changes ds t u) :
    Changes (cs ++ ds) s u :=
  (h.mono (List.subset_append_left ..)).trans (g.mono (List.subset_append_right ..))

/-! ### Plain updates -/

theorem changes_setCall (s : State) (c : Nat) (r : Call) : Changes [.calls] s (s.setCall c r) := by
  constructor; intro k hk; cases k <;> simp_all [Component.agree]
theorem changes_setQueue (s : State) (q : Nat) (r : Queue) : Changes [.queues] s (s.setQueue q r) := by
  constructor; intro k hk; cases k <;> simp_all [Component.agree]
theorem changes_setAgent (s : State) (a : Nat) (r : Agent) : Changes [.agents] s (s.setAgent a r) := by
  constructor; intro k hk; cases k <;> simp_all [Component.agree]
theorem changes_setFeed (s : State) (f : Nat) (r : Feed) : Changes [.feeds] s (s.setFeed f r) := by
  constructor; intro k hk; cases k <;> simp_all [Component.agree]
theorem changes_setContext (s : State) (k : Nat) (r : Context) : Changes [.contexts] s (s.setContext k r) := by
  constructor; intro k hk; cases k <;> simp_all [Component.agree]
theorem changes_setBinding (s : State) (ch : Nat) (b : Option Nat) : Changes [.bindings] s (s.setBinding ch b) := by
  constructor; intro k hk; cases k <;> simp_all [Component.agree]
theorem changes_setTime (s : State) (t : TimeBase) : Changes [.time] s (s.setTime t) := by
  constructor; intro k hk; cases k <;> simp_all [Component.agree]
theorem changes_setPartResult (s : State) (r : CommandResult) : Changes [.partResult] s (s.setPartResult r) := by
  constructor; intro k hk; cases k <;> simp_all [Component.agree]
theorem changes_endProposal (s : State) : Changes [.proposal] s s.endProposal := by
  constructor; intro k hk; cases k <;> simp_all [Component.agree]
theorem changes_popTrigger (s : State) : Changes [.workList] s s.popTrigger := by
  constructor; intro k hk; cases k <;> simp_all [Component.agree]
theorem changes_propose (s : State) (p : Proposal) : Changes [.proposal] s (s.propose p) := by
  constructor; intro k hk; cases k <;> simp_all [Component.agree]
theorem changes_dropDeadline (s : State) (c : Nat) : Changes [.deadlines] s (s.dropDeadline c) := by
  constructor; intro k hk; cases k <;> simp_all [Component.agree]
theorem changes_answerRead (s : State) (w : Word) : Changes [.answer] s (s.answerRead w) := by
  constructor; intro k hk; cases k <;> simp_all [Component.agree]
theorem changes_forwardBeat (s : State) (b : Beat) : Changes [.forward] s (s.forwardBeat b) := by
  constructor; intro k hk; cases k <;> simp_all [Component.agree]
theorem changes_holdBeat (s : State) (b : Beat) : Changes [.waiting] s (s.holdBeat b) := by
  constructor; intro k hk; cases k <;> simp_all [Component.agree]

theorem changes_settle (s : State) : Changes [.passCount] s s.settle := by
  constructor; intro k hk; cases k <;> simp_all [Component.agree]

/-! ### Shared operations -/

theorem changes_post (s : State) (cls kind call agent target detail) :
    Changes posting s (s.post cls kind call agent target detail) := by
  constructor; intro k hk
  unfold State.post
  simp only []
  split
  · cases k <;> simp_all [Component.agree, posting]
  · split
    · cases k <;> simp_all [Component.agree, posting]
    · unfold EventUnit.append; cases cls <;> cases k <;> simp_all [Component.agree, posting]

theorem changes_postOffer (s : State) (call agent queue detail) :
    Changes posting s (s.postOffer call agent queue detail) := by
  constructor; intro k hk
  unfold State.postOffer EventUnit.append
  cases k <;> simp_all [Component.agree, posting]

theorem changes_addTrigger (s : State) (t : Trigger) : Changes [.workList] s (s.addTrigger t) := by
  constructor; intro k hk
  unfold State.addTrigger
  split <;> cases k <;> simp_all [Component.agree]

theorem changes_refreshDeadline (s : State) (c : Nat) : Changes [.deadlines] s (s.refreshDeadline c) := by
  constructor; intro k hk
  unfold State.refreshDeadline
  split <;> cases k <;> simp_all [Component.agree]

theorem changes_recountAll (skills : List Skill) (was now : AgentState) (s : State) :
    Changes [.queues] s (s.recountAll skills was now) := by
  unfold State.recountAll
  induction skills generalizing s with
  | nil => exact Changes.refl ..
  | cons k ks ih => exact (changes_setQueue ..).trans (ih _)

theorem changes_moveAgent (s : State) (a : Nat) (now : AgentState) :
    Changes [.agents, .queues] s (s.moveAgent a now) :=
  (changes_setAgent ..).step (by simp) ((changes_recountAll ..).mono (by simp))

theorem changes_enterWaiting (s : State) (q c : Nat) : Changes [.queues] s (s.enterWaiting q c) := changes_setQueue ..

theorem changes_leaveWaiting (s : State) (q c : Nat) : Changes [.queues] s (s.leaveWaiting q c) := changes_setQueue ..

theorem changes_handSample (s : State) (q : Option Nat) (n : Nat) : Changes [.samples] s (s.handSample q n) := by
  constructor; intro k hk
  unfold State.handSample
  split <;> cases k <;> simp_all [Component.agree]

/-! ### Chains: a further operation inside the components a frame already lists -/

section
variable {cs : List Component} {s t : State} (h : Changes cs s t)
include h

theorem Changes.into {ds : List Component} {u : State} (g : Changes ds t u) (hs : ∀ k ∈ ds, k ∈ cs) : Changes cs s u :=
  h.trans (g.mono hs)

@[simp] theorem frame_setCall (c r) (hc : .calls ∈ cs) : Changes cs s (t.setCall c r) :=
  h.into (changes_setCall ..) (by simpa using hc)
@[simp] theorem frame_setQueue (q r) (hc : .queues ∈ cs) : Changes cs s (t.setQueue q r) :=
  h.into (changes_setQueue ..) (by simpa using hc)
@[simp] theorem frame_setAgent (a r) (hc : .agents ∈ cs) : Changes cs s (t.setAgent a r) :=
  h.into (changes_setAgent ..) (by simpa using hc)
@[simp] theorem frame_setFeed (f r) (hc : .feeds ∈ cs) : Changes cs s (t.setFeed f r) :=
  h.into (changes_setFeed ..) (by simpa using hc)
@[simp] theorem frame_setContext (k r) (hc : .contexts ∈ cs) : Changes cs s (t.setContext k r) :=
  h.into (changes_setContext ..) (by simpa using hc)
@[simp] theorem frame_setBinding (b r) (hc : .bindings ∈ cs) : Changes cs s (t.setBinding b r) :=
  h.into (changes_setBinding ..) (by simpa using hc)
@[simp] theorem frame_setTime (b) (hc : .time ∈ cs) : Changes cs s (t.setTime b) :=
  h.into (changes_setTime ..) (by simpa using hc)
@[simp] theorem frame_setPartResult (r) (hc : .partResult ∈ cs) : Changes cs s (t.setPartResult r) :=
  h.into (changes_setPartResult ..) (by simpa using hc)
@[simp] theorem frame_endProposal (hc : .proposal ∈ cs) : Changes cs s t.endProposal :=
  h.into (changes_endProposal ..) (by simpa using hc)
@[simp] theorem frame_popTrigger (hc : .workList ∈ cs) : Changes cs s t.popTrigger :=
  h.into (changes_popTrigger ..) (by simpa using hc)
@[simp] theorem frame_propose (p) (hc : .proposal ∈ cs) : Changes cs s (t.propose p) :=
  h.into (changes_propose ..) (by simpa using hc)
@[simp] theorem frame_dropDeadline (c) (hc : .deadlines ∈ cs) : Changes cs s (t.dropDeadline c) :=
  h.into (changes_dropDeadline ..) (by simpa using hc)
@[simp] theorem frame_refreshDeadline (c) (hc : .deadlines ∈ cs) : Changes cs s (t.refreshDeadline c) :=
  h.into (changes_refreshDeadline ..) (by simpa using hc)
@[simp] theorem frame_addTrigger (g) (hc : .workList ∈ cs) : Changes cs s (t.addTrigger g) :=
  h.into (changes_addTrigger ..) (by simpa using hc)
@[simp] theorem frame_recountAll (l was now) (hc : .queues ∈ cs) : Changes cs s (t.recountAll l was now) :=
  h.into (changes_recountAll ..) (by simpa using hc)
@[simp] theorem frame_moveAgent (a now) (ha : .agents ∈ cs) (hc : .queues ∈ cs) : Changes cs s (t.moveAgent a now) :=
  h.into (changes_moveAgent ..) (by simpa using ⟨ha, hc⟩)
@[simp] theorem frame_enterWaiting (q c) (hc : .queues ∈ cs) : Changes cs s (t.enterWaiting q c) :=
  h.into (changes_enterWaiting ..) (by simpa using hc)
@[simp] theorem frame_leaveWaiting (q c) (hc : .queues ∈ cs) : Changes cs s (t.leaveWaiting q c) :=
  h.into (changes_leaveWaiting ..) (by simpa using hc)
@[simp] theorem frame_handSample (q n) (hc : .samples ∈ cs) : Changes cs s (t.handSample q n) :=
  h.into (changes_handSample ..) (by simpa using hc)
@[simp] theorem frame_post (cls kind call agent target detail) (p1 : .dispatch ∈ cs) (p2 : .notices ∈ cs) (p3 : .sequence ∈ cs) (p4 : .summaries ∈ cs) (p5 : .lost ∈ cs) :
    Changes cs s (t.post cls kind call agent target detail) :=
  h.into (changes_post ..) (by simp [posting, p1, p2, p3, p4, p5])
@[simp] theorem frame_postOffer (call agent queue detail) (p1 : .dispatch ∈ cs) (p2 : .notices ∈ cs) (p3 : .sequence ∈ cs) (p4 : .summaries ∈ cs) (p5 : .lost ∈ cs) :
    Changes cs s (t.postOffer call agent queue detail) :=
  h.into (changes_postOffer ..) (by simp [posting, p1, p2, p3, p4, p5])
@[simp] theorem frame_answerRead (w) (hc : .answer ∈ cs) : Changes cs s (t.answerRead w) :=
  h.into (changes_answerRead ..) (by simpa using hc)
@[simp] theorem frame_forwardBeat (b) (hc : .forward ∈ cs) : Changes cs s (t.forwardBeat b) :=
  h.into (changes_forwardBeat ..) (by simpa using hc)
@[simp] theorem frame_holdBeat (b) (hc : .waiting ∈ cs) : Changes cs s (t.holdBeat b) :=
  h.into (changes_holdBeat ..) (by simpa using hc)
@[simp] theorem frame_settle (hc : .passCount ∈ cs) : Changes cs s t.settle :=
  h.into (changes_settle ..) (by simpa using hc)

@[simp] theorem frame_dropOldest (hc : .intake ∈ cs) : Changes cs s t.dropOldest :=
  h.into (ds := [.intake]) ⟨fun k hk => by cases k <;> simp_all [Component.agree]⟩ (by simpa using hc)
@[simp] theorem frame_takeSeniority (hc : .seniority ∈ cs) : Changes cs s t.takeSeniority :=
  h.into (ds := [.seniority]) ⟨fun k hk => by cases k <;> simp_all [Component.agree]⟩ (by simpa using hc)
theorem frame_samples (l : List Sample) (hc : .samples ∈ cs) : Changes cs s { t with samples := l } :=
  h.into (ds := [.samples]) ⟨fun k hk => by cases k <;> simp_all [Component.agree]⟩ (by simpa using hc)
theorem frame_freeIndex (n : Nat) (hc : .freeIndex ∈ cs) : Changes cs s { t with freeIndex := n } :=
  h.into (ds := [.freeIndex]) ⟨fun k hk => by cases k <;> simp_all [Component.agree]⟩ (by simpa using hc)

end

end Sys2Proof.Machine
end

