-- ==== Sys2Proof/Laws/Ops.lean ====
section
/-! SUPPORT. What the shared operations leave as it was, field by field, and what each does to the records it names. -/

namespace Sys2Proof.Machine

namespace State

variable (s : State)

/-! ### post -/

@[simp] theorem pending_post (cls : EventClass) (kind : EventKind) (call agent target : Option Nat) (detail : Nat) : (s.post cls kind call agent target detail).pending = s.pending := by
  unfold post; dsimp only; repeat' split
  all_goals rfl
@[simp] theorem freeIndex_post (cls : EventClass) (kind : EventKind) (call agent target : Option Nat) (detail : Nat) : (s.post cls kind call agent target detail).freeIndex = s.freeIndex := by
  unfold post; dsimp only; repeat' split
  all_goals rfl
@[simp] theorem path_post (cls : EventClass) (kind : EventKind) (call agent target : Option Nat) (detail : Nat) : (s.post cls kind call agent target detail).path = s.path := by
  unfold post; dsimp only; repeat' split
  all_goals rfl
@[simp] theorem staging_post (cls : EventClass) (kind : EventKind) (call agent target : Option Nat) (detail : Nat) : (s.post cls kind call agent target detail).staging = s.staging := by
  unfold post; dsimp only; repeat' split
  all_goals rfl
@[simp] theorem intake_post (cls : EventClass) (kind : EventKind) (call agent target : Option Nat) (detail : Nat) : (s.post cls kind call agent target detail).intake = s.intake := by
  unfold post; dsimp only; repeat' split
  all_goals rfl
@[simp] theorem part_post (cls : EventClass) (kind : EventKind) (call agent target : Option Nat) (detail : Nat) : (s.post cls kind call agent target detail).part = s.part := by
  unfold post; dsimp only; repeat' split
  all_goals rfl
@[simp] theorem calls_post (cls : EventClass) (kind : EventKind) (call agent target : Option Nat) (detail : Nat) : (s.post cls kind call agent target detail).calls = s.calls := by
  unfold post; dsimp only; repeat' split
  all_goals rfl
@[simp] theorem seniority_post (cls : EventClass) (kind : EventKind) (call agent target : Option Nat) (detail : Nat) : (s.post cls kind call agent target detail).seniority = s.seniority := by
  unfold post; dsimp only; repeat' split
  all_goals rfl
@[simp] theorem deadlines_post (cls : EventClass) (kind : EventKind) (call agent target : Option Nat) (detail : Nat) : (s.post cls kind call agent target detail).deadlines = s.deadlines := by
  unfold post; dsimp only; repeat' split
  all_goals rfl
@[simp] theorem queues_post (cls : EventClass) (kind : EventKind) (call agent target : Option Nat) (detail : Nat) : (s.post cls kind call agent target detail).queues = s.queues := by
  unfold post; dsimp only; repeat' split
  all_goals rfl
@[simp] theorem samples_post (cls : EventClass) (kind : EventKind) (call agent target : Option Nat) (detail : Nat) : (s.post cls kind call agent target detail).samples = s.samples := by
  unfold post; dsimp only; repeat' split
  all_goals rfl
@[simp] theorem agents_post (cls : EventClass) (kind : EventKind) (call agent target : Option Nat) (detail : Nat) : (s.post cls kind call agent target detail).agents = s.agents := by
  unfold post; dsimp only; repeat' split
  all_goals rfl
@[simp] theorem engine_post (cls : EventClass) (kind : EventKind) (call agent target : Option Nat) (detail : Nat) : (s.post cls kind call agent target detail).engine = s.engine := by
  unfold post; dsimp only; repeat' split
  all_goals rfl
@[simp] theorem playout_post (cls : EventClass) (kind : EventKind) (call agent target : Option Nat) (detail : Nat) : (s.post cls kind call agent target detail).playout = s.playout := by
  unfold post; dsimp only; repeat' split
  all_goals rfl
@[simp] theorem feeds_post (cls : EventClass) (kind : EventKind) (call agent target : Option Nat) (detail : Nat) : (s.post cls kind call agent target detail).feeds = s.feeds := by
  unfold post; dsimp only; repeat' split
  all_goals rfl
@[simp] theorem time_post (cls : EventClass) (kind : EventKind) (call agent target : Option Nat) (detail : Nat) : (s.post cls kind call agent target detail).time = s.time := by
  unfold post; dsimp only; repeat' split
  all_goals rfl
@[simp] theorem tick_post (cls : EventClass) (kind : EventKind) (call agent target : Option Nat) (detail : Nat) : (s.post cls kind call agent target detail).tick = s.tick := by simp [tick]
@[simp] theorem call_post (cls : EventClass) (kind : EventKind) (call agent target : Option Nat) (detail : Nat) (i : Nat) : (s.post cls kind call agent target detail).call i = s.call i := by simp [State.call]
@[simp] theorem queue_post (cls : EventClass) (kind : EventKind) (call agent target : Option Nat) (detail : Nat) (i : Nat) : (s.post cls kind call agent target detail).queue i = s.queue i := by simp [State.queue]
@[simp] theorem agent_post (cls : EventClass) (kind : EventKind) (call agent target : Option Nat) (detail : Nat) (i : Nat) : (s.post cls kind call agent target detail).agent i = s.agent i := by simp [State.agent]
@[simp] theorem feed_post (cls : EventClass) (kind : EventKind) (call agent target : Option Nat) (detail : Nat) (i : Nat) : (s.post cls kind call agent target detail).feed i = s.feed i := by simp [State.feed]
@[simp] theorem context_post (cls : EventClass) (kind : EventKind) (call agent target : Option Nat) (detail : Nat) (i : Nat) : (s.post cls kind call agent target detail).context i = s.context i := by simp [State.context]
@[simp] theorem binding_post (cls : EventClass) (kind : EventKind) (call agent target : Option Nat) (detail : Nat) (i : Nat) : (s.post cls kind call agent target detail).binding i = s.binding i := by simp [State.binding]
@[simp] theorem segment_post (cls : EventClass) (kind : EventKind) (call agent target : Option Nat) (detail : Nat) (i : Nat) : (s.post cls kind call agent target detail).segment i = s.segment i := by simp [State.segment]
@[simp] theorem program_post (cls : EventClass) (kind : EventKind) (call agent target : Option Nat) (detail : Nat) (i : Nat) : (s.post cls kind call agent target detail).program i = s.program i := by simp [State.program]

/-! ### postOffer -/

@[simp] theorem pending_postOffer (call agent queue detail : Nat) : (s.postOffer call agent queue detail).pending = s.pending := rfl
@[simp] theorem freeIndex_postOffer (call agent queue detail : Nat) : (s.postOffer call agent queue detail).freeIndex = s.freeIndex := rfl
@[simp] theorem path_postOffer (call agent queue detail : Nat) : (s.postOffer call agent queue detail).path = s.path := rfl
@[simp] theorem staging_postOffer (call agent queue detail : Nat) : (s.postOffer call agent queue detail).staging = s.staging := rfl
@[simp] theorem intake_postOffer (call agent queue detail : Nat) : (s.postOffer call agent queue detail).intake = s.intake := rfl
@[simp] theorem part_postOffer (call agent queue detail : Nat) : (s.postOffer call agent queue detail).part = s.part := rfl
@[simp] theorem calls_postOffer (call agent queue detail : Nat) : (s.postOffer call agent queue detail).calls = s.calls := rfl
@[simp] theorem seniority_postOffer (call agent queue detail : Nat) : (s.postOffer call agent queue detail).seniority = s.seniority := rfl
@[simp] theorem deadlines_postOffer (call agent queue detail : Nat) : (s.postOffer call agent queue detail).deadlines = s.deadlines := rfl
@[simp] theorem queues_postOffer (call agent queue detail : Nat) : (s.postOffer call agent queue detail).queues = s.queues := rfl
@[simp] theorem samples_postOffer (call agent queue detail : Nat) : (s.postOffer call agent queue detail).samples = s.samples := rfl
@[simp] theorem agents_postOffer (call agent queue detail : Nat) : (s.postOffer call agent queue detail).agents = s.agents := rfl
@[simp] theorem engine_postOffer (call agent queue detail : Nat) : (s.postOffer call agent queue detail).engine = s.engine := rfl
@[simp] theorem playout_postOffer (call agent queue detail : Nat) : (s.postOffer call agent queue detail).playout = s.playout := rfl
@[simp] theorem feeds_postOffer (call agent queue detail : Nat) : (s.postOffer call agent queue detail).feeds = s.feeds := rfl
@[simp] theorem time_postOffer (call agent queue detail : Nat) : (s.postOffer call agent queue detail).time = s.time := rfl
@[simp] theorem tick_postOffer (call agent queue detail : Nat) : (s.postOffer call agent queue detail).tick = s.tick := rfl
@[simp] theorem call_postOffer (call agent queue detail : Nat) (i : Nat) : (s.postOffer call agent queue detail).call i = s.call i := rfl
@[simp] theorem queue_postOffer (call agent queue detail : Nat) (i : Nat) : (s.postOffer call agent queue detail).queue i = s.queue i := rfl
@[simp] theorem agent_postOffer (call agent queue detail : Nat) (i : Nat) : (s.postOffer call agent queue detail).agent i = s.agent i := rfl
@[simp] theorem feed_postOffer (call agent queue detail : Nat) (i : Nat) : (s.postOffer call agent queue detail).feed i = s.feed i := rfl
@[simp] theorem context_postOffer (call agent queue detail : Nat) (i : Nat) : (s.postOffer call agent queue detail).context i = s.context i := rfl
@[simp] theorem binding_postOffer (call agent queue detail : Nat) (i : Nat) : (s.postOffer call agent queue detail).binding i = s.binding i := rfl
@[simp] theorem segment_postOffer (call agent queue detail : Nat) (i : Nat) : (s.postOffer call agent queue detail).segment i = s.segment i := rfl
@[simp] theorem program_postOffer (call agent queue detail : Nat) (i : Nat) : (s.postOffer call agent queue detail).program i = s.program i := rfl

/-! ### addTrigger -/

@[simp] theorem pending_addTrigger (t : Trigger) : (s.addTrigger t).pending = s.pending := by
  unfold addTrigger; split <;> rfl
@[simp] theorem freeIndex_addTrigger (t : Trigger) : (s.addTrigger t).freeIndex = s.freeIndex := by
  unfold addTrigger; split <;> rfl
@[simp] theorem path_addTrigger (t : Trigger) : (s.addTrigger t).path = s.path := by
  unfold addTrigger; split <;> rfl
@[simp] theorem staging_addTrigger (t : Trigger) : (s.addTrigger t).staging = s.staging := by
  unfold addTrigger; split <;> rfl
@[simp] theorem intake_addTrigger (t : Trigger) : (s.addTrigger t).intake = s.intake := by
  unfold addTrigger; split <;> rfl
@[simp] theorem part_addTrigger (t : Trigger) : (s.addTrigger t).part = s.part := by
  unfold addTrigger; split <;> rfl
@[simp] theorem calls_addTrigger (t : Trigger) : (s.addTrigger t).calls = s.calls := by
  unfold addTrigger; split <;> rfl
@[simp] theorem seniority_addTrigger (t : Trigger) : (s.addTrigger t).seniority = s.seniority := by
  unfold addTrigger; split <;> rfl
@[simp] theorem deadlines_addTrigger (t : Trigger) : (s.addTrigger t).deadlines = s.deadlines := by
  unfold addTrigger; split <;> rfl
@[simp] theorem queues_addTrigger (t : Trigger) : (s.addTrigger t).queues = s.queues := by
  unfold addTrigger; split <;> rfl
@[simp] theorem samples_addTrigger (t : Trigger) : (s.addTrigger t).samples = s.samples := by
  unfold addTrigger; split <;> rfl
@[simp] theorem agents_addTrigger (t : Trigger) : (s.addTrigger t).agents = s.agents := by
  unfold addTrigger; split <;> rfl
@[simp] theorem playout_addTrigger (t : Trigger) : (s.addTrigger t).playout = s.playout := by
  unfold addTrigger; split <;> rfl
@[simp] theorem feeds_addTrigger (t : Trigger) : (s.addTrigger t).feeds = s.feeds := by
  unfold addTrigger; split <;> rfl
@[simp] theorem time_addTrigger (t : Trigger) : (s.addTrigger t).time = s.time := by
  unfold addTrigger; split <;> rfl
@[simp] theorem events_addTrigger (t : Trigger) : (s.addTrigger t).events = s.events := by
  unfold addTrigger; split <;> rfl
@[simp] theorem tick_addTrigger (t : Trigger) : (s.addTrigger t).tick = s.tick := by simp [tick]
@[simp] theorem call_addTrigger (t : Trigger) (i : Nat) : (s.addTrigger t).call i = s.call i := by simp [State.call]
@[simp] theorem queue_addTrigger (t : Trigger) (i : Nat) : (s.addTrigger t).queue i = s.queue i := by simp [State.queue]
@[simp] theorem agent_addTrigger (t : Trigger) (i : Nat) : (s.addTrigger t).agent i = s.agent i := by simp [State.agent]
@[simp] theorem feed_addTrigger (t : Trigger) (i : Nat) : (s.addTrigger t).feed i = s.feed i := by simp [State.feed]
@[simp] theorem context_addTrigger (t : Trigger) (i : Nat) : (s.addTrigger t).context i = s.context i := by simp [State.context]
@[simp] theorem binding_addTrigger (t : Trigger) (i : Nat) : (s.addTrigger t).binding i = s.binding i := by simp [State.binding]
@[simp] theorem segment_addTrigger (t : Trigger) (i : Nat) : (s.addTrigger t).segment i = s.segment i := by simp [State.segment]
@[simp] theorem program_addTrigger (t : Trigger) (i : Nat) : (s.addTrigger t).program i = s.program i := by simp [State.program]

/-! ### refreshDeadline -/

@[simp] theorem pending_refreshDeadline (c : Nat) : (s.refreshDeadline c).pending = s.pending := by
  unfold refreshDeadline; split <;> rfl
@[simp] theorem freeIndex_refreshDeadline (c : Nat) : (s.refreshDeadline c).freeIndex = s.freeIndex := by
  unfold refreshDeadline; split <;> rfl
@[simp] theorem path_refreshDeadline (c : Nat) : (s.refreshDeadline c).path = s.path := by
  unfold refreshDeadline; split <;> rfl
@[simp] theorem staging_refreshDeadline (c : Nat) : (s.refreshDeadline c).staging = s.staging := by
  unfold refreshDeadline; split <;> rfl
@[simp] theorem intake_refreshDeadline (c : Nat) : (s.refreshDeadline c).intake = s.intake := by
  unfold refreshDeadline; split <;> rfl
@[simp] theorem part_refreshDeadline (c : Nat) : (s.refreshDeadline c).part = s.part := by
  unfold refreshDeadline; split <;> rfl
@[simp] theorem calls_refreshDeadline (c : Nat) : (s.refreshDeadline c).calls = s.calls := by
  unfold refreshDeadline; split <;> rfl
@[simp] theorem seniority_refreshDeadline (c : Nat) : (s.refreshDeadline c).seniority = s.seniority := by
  unfold refreshDeadline; split <;> rfl
@[simp] theorem queues_refreshDeadline (c : Nat) : (s.refreshDeadline c).queues = s.queues := by
  unfold refreshDeadline; split <;> rfl
@[simp] theorem samples_refreshDeadline (c : Nat) : (s.refreshDeadline c).samples = s.samples := by
  unfold refreshDeadline; split <;> rfl
@[simp] theorem agents_refreshDeadline (c : Nat) : (s.refreshDeadline c).agents = s.agents := by
  unfold refreshDeadline; split <;> rfl
@[simp] theorem engine_refreshDeadline (c : Nat) : (s.refreshDeadline c).engine = s.engine := by
  unfold refreshDeadline; split <;> rfl
@[simp] theorem playout_refreshDeadline (c : Nat) : (s.refreshDeadline c).playout = s.playout := by
  unfold refreshDeadline; split <;> rfl
@[simp] theorem feeds_refreshDeadline (c : Nat) : (s.refreshDeadline c).feeds = s.feeds := by
  unfold refreshDeadline; split <;> rfl
@[simp] theorem time_refreshDeadline (c : Nat) : (s.refreshDeadline c).time = s.time := by
  unfold refreshDeadline; split <;> rfl
@[simp] theorem events_refreshDeadline (c : Nat) : (s.refreshDeadline c).events = s.events := by
  unfold refreshDeadline; split <;> rfl
@[simp] theorem tick_refreshDeadline (c : Nat) : (s.refreshDeadline c).tick = s.tick := by simp [tick]
@[simp] theorem call_refreshDeadline (c : Nat) (i : Nat) : (s.refreshDeadline c).call i = s.call i := by simp [State.call]
@[simp] theorem queue_refreshDeadline (c : Nat) (i : Nat) : (s.refreshDeadline c).queue i = s.queue i := by simp [State.queue]
@[simp] theorem agent_refreshDeadline (c : Nat) (i : Nat) : (s.refreshDeadline c).agent i = s.agent i := by simp [State.agent]
@[simp] theorem feed_refreshDeadline (c : Nat) (i : Nat) : (s.refreshDeadline c).feed i = s.feed i := by simp [State.feed]
@[simp] theorem context_refreshDeadline (c : Nat) (i : Nat) : (s.refreshDeadline c).context i = s.context i := by simp [State.context]
@[simp] theorem binding_refreshDeadline (c : Nat) (i : Nat) : (s.refreshDeadline c).binding i = s.binding i := by simp [State.binding]
@[simp] theorem segment_refreshDeadline (c : Nat) (i : Nat) : (s.refreshDeadline c).segment i = s.segment i := by simp [State.segment]
@[simp] theorem program_refreshDeadline (c : Nat) (i : Nat) : (s.refreshDeadline c).program i = s.program i := by simp [State.program]

/-! ### handSample -/

@[simp] theorem pending_handSample (q : Option Nat) (n : Nat) : (s.handSample q n).pending = s.pending := by
  unfold handSample; split <;> rfl
@[simp] theorem freeIndex_handSample (q : Option Nat) (n : Nat) : (s.handSample q n).freeIndex = s.freeIndex := by
  unfold handSample; split <;> rfl
@[simp] theorem path_handSample (q : Option Nat) (n : Nat) : (s.handSample q n).path = s.path := by
  unfold handSample; split <;> rfl
@[simp] theorem staging_handSample (q : Option Nat) (n : Nat) : (s.handSample q n).staging = s.staging := by
  unfold handSample; split <;> rfl
@[simp] theorem intake_handSample (q : Option Nat) (n : Nat) : (s.handSample q n).intake = s.intake := by
  unfold handSample; split <;> rfl
@[simp] theorem part_handSample (q : Option Nat) (n : Nat) : (s.handSample q n).part = s.part := by
  unfold handSample; split <;> rfl
@[simp] theorem calls_handSample (q : Option Nat) (n : Nat) : (s.handSample q n).calls = s.calls := by
  unfold handSample; split <;> rfl
@[simp] theorem seniority_handSample (q : Option Nat) (n : Nat) : (s.handSample q n).seniority = s.seniority := by
  unfold handSample; split <;> rfl
@[simp] theorem deadlines_handSample (q : Option Nat) (n : Nat) : (s.handSample q n).deadlines = s.deadlines := by
  unfold handSample; split <;> rfl
@[simp] theorem queues_handSample (q : Option Nat) (n : Nat) : (s.handSample q n).queues = s.queues := by
  unfold handSample; split <;> rfl
@[simp] theorem agents_handSample (q : Option Nat) (n : Nat) : (s.handSample q n).agents = s.agents := by
  unfold handSample; split <;> rfl
@[simp] theorem engine_handSample (q : Option Nat) (n : Nat) : (s.handSample q n).engine = s.engine := by
  unfold handSample; split <;> rfl
@[simp] theorem playout_handSample (q : Option Nat) (n : Nat) : (s.handSample q n).playout = s.playout := by
  unfold handSample; split <;> rfl
@[simp] theorem feeds_handSample (q : Option Nat) (n : Nat) : (s.handSample q n).feeds = s.feeds := by
  unfold handSample; split <;> rfl
@[simp] theorem time_handSample (q : Option Nat) (n : Nat) : (s.handSample q n).time = s.time := by
  unfold handSample; split <;> rfl
@[simp] theorem events_handSample (q : Option Nat) (n : Nat) : (s.handSample q n).events = s.events := by
  unfold handSample; split <;> rfl
@[simp] theorem tick_handSample (q : Option Nat) (n : Nat) : (s.handSample q n).tick = s.tick := by simp [tick]
@[simp] theorem call_handSample (q : Option Nat) (n : Nat) (i : Nat) : (s.handSample q n).call i = s.call i := by simp [State.call]
@[simp] theorem queue_handSample (q : Option Nat) (n : Nat) (i : Nat) : (s.handSample q n).queue i = s.queue i := by simp [State.queue]
@[simp] theorem agent_handSample (q : Option Nat) (n : Nat) (i : Nat) : (s.handSample q n).agent i = s.agent i := by simp [State.agent]
@[simp] theorem feed_handSample (q : Option Nat) (n : Nat) (i : Nat) : (s.handSample q n).feed i = s.feed i := by simp [State.feed]
@[simp] theorem context_handSample (q : Option Nat) (n : Nat) (i : Nat) : (s.handSample q n).context i = s.context i := by simp [State.context]
@[simp] theorem binding_handSample (q : Option Nat) (n : Nat) (i : Nat) : (s.handSample q n).binding i = s.binding i := by simp [State.binding]
@[simp] theorem segment_handSample (q : Option Nat) (n : Nat) (i : Nat) : (s.handSample q n).segment i = s.segment i := by simp [State.segment]
@[simp] theorem program_handSample (q : Option Nat) (n : Nat) (i : Nat) : (s.handSample q n).program i = s.program i := by simp [State.program]

/-! ### enterWaiting -/

@[simp] theorem pending_enterWaiting (q c : Nat) : (s.enterWaiting q c).pending = s.pending := rfl
@[simp] theorem freeIndex_enterWaiting (q c : Nat) : (s.enterWaiting q c).freeIndex = s.freeIndex := rfl
@[simp] theorem path_enterWaiting (q c : Nat) : (s.enterWaiting q c).path = s.path := rfl
@[simp] theorem staging_enterWaiting (q c : Nat) : (s.enterWaiting q c).staging = s.staging := rfl
@[simp] theorem intake_enterWaiting (q c : Nat) : (s.enterWaiting q c).intake = s.intake := rfl
@[simp] theorem part_enterWaiting (q c : Nat) : (s.enterWaiting q c).part = s.part := rfl
@[simp] theorem calls_enterWaiting (q c : Nat) : (s.enterWaiting q c).calls = s.calls := rfl
@[simp] theorem seniority_enterWaiting (q c : Nat) : (s.enterWaiting q c).seniority = s.seniority := rfl
@[simp] theorem deadlines_enterWaiting (q c : Nat) : (s.enterWaiting q c).deadlines = s.deadlines := rfl
@[simp] theorem samples_enterWaiting (q c : Nat) : (s.enterWaiting q c).samples = s.samples := rfl
@[simp] theorem agents_enterWaiting (q c : Nat) : (s.enterWaiting q c).agents = s.agents := rfl
@[simp] theorem engine_enterWaiting (q c : Nat) : (s.enterWaiting q c).engine = s.engine := rfl
@[simp] theorem playout_enterWaiting (q c : Nat) : (s.enterWaiting q c).playout = s.playout := rfl
@[simp] theorem feeds_enterWaiting (q c : Nat) : (s.enterWaiting q c).feeds = s.feeds := rfl
@[simp] theorem time_enterWaiting (q c : Nat) : (s.enterWaiting q c).time = s.time := rfl
@[simp] theorem events_enterWaiting (q c : Nat) : (s.enterWaiting q c).events = s.events := rfl
@[simp] theorem tick_enterWaiting (q c : Nat) : (s.enterWaiting q c).tick = s.tick := rfl
@[simp] theorem call_enterWaiting (q c : Nat) (i : Nat) : (s.enterWaiting q c).call i = s.call i := rfl
@[simp] theorem agent_enterWaiting (q c : Nat) (i : Nat) : (s.enterWaiting q c).agent i = s.agent i := rfl
@[simp] theorem feed_enterWaiting (q c : Nat) (i : Nat) : (s.enterWaiting q c).feed i = s.feed i := rfl
@[simp] theorem context_enterWaiting (q c : Nat) (i : Nat) : (s.enterWaiting q c).context i = s.context i := rfl
@[simp] theorem binding_enterWaiting (q c : Nat) (i : Nat) : (s.enterWaiting q c).binding i = s.binding i := rfl
@[simp] theorem segment_enterWaiting (q c : Nat) (i : Nat) : (s.enterWaiting q c).segment i = s.segment i := rfl
@[simp] theorem program_enterWaiting (q c : Nat) (i : Nat) : (s.enterWaiting q c).program i = s.program i := rfl

/-! ### leaveWaiting -/

@[simp] theorem pending_leaveWaiting (q c : Nat) : (s.leaveWaiting q c).pending = s.pending := rfl
@[simp] theorem freeIndex_leaveWaiting (q c : Nat) : (s.leaveWaiting q c).freeIndex = s.freeIndex := rfl
@[simp] theorem path_leaveWaiting (q c : Nat) : (s.leaveWaiting q c).path = s.path := rfl
@[simp] theorem staging_leaveWaiting (q c : Nat) : (s.leaveWaiting q c).staging = s.staging := rfl
@[simp] theorem intake_leaveWaiting (q c : Nat) : (s.leaveWaiting q c).intake = s.intake := rfl
@[simp] theorem part_leaveWaiting (q c : Nat) : (s.leaveWaiting q c).part = s.part := rfl
@[simp] theorem calls_leaveWaiting (q c : Nat) : (s.leaveWaiting q c).calls = s.calls := rfl
@[simp] theorem seniority_leaveWaiting (q c : Nat) : (s.leaveWaiting q c).seniority = s.seniority := rfl
@[simp] theorem deadlines_leaveWaiting (q c : Nat) : (s.leaveWaiting q c).deadlines = s.deadlines := rfl
@[simp] theorem samples_leaveWaiting (q c : Nat) : (s.leaveWaiting q c).samples = s.samples := rfl
@[simp] theorem agents_leaveWaiting (q c : Nat) : (s.leaveWaiting q c).agents = s.agents := rfl
@[simp] theorem engine_leaveWaiting (q c : Nat) : (s.leaveWaiting q c).engine = s.engine := rfl
@[simp] theorem playout_leaveWaiting (q c : Nat) : (s.leaveWaiting q c).playout = s.playout := rfl
@[simp] theorem feeds_leaveWaiting (q c : Nat) : (s.leaveWaiting q c).feeds = s.feeds := rfl
@[simp] theorem time_leaveWaiting (q c : Nat) : (s.leaveWaiting q c).time = s.time := rfl
@[simp] theorem events_leaveWaiting (q c : Nat) : (s.leaveWaiting q c).events = s.events := rfl
@[simp] theorem tick_leaveWaiting (q c : Nat) : (s.leaveWaiting q c).tick = s.tick := rfl
@[simp] theorem call_leaveWaiting (q c : Nat) (i : Nat) : (s.leaveWaiting q c).call i = s.call i := rfl
@[simp] theorem agent_leaveWaiting (q c : Nat) (i : Nat) : (s.leaveWaiting q c).agent i = s.agent i := rfl
@[simp] theorem feed_leaveWaiting (q c : Nat) (i : Nat) : (s.leaveWaiting q c).feed i = s.feed i := rfl
@[simp] theorem context_leaveWaiting (q c : Nat) (i : Nat) : (s.leaveWaiting q c).context i = s.context i := rfl
@[simp] theorem binding_leaveWaiting (q c : Nat) (i : Nat) : (s.leaveWaiting q c).binding i = s.binding i := rfl
@[simp] theorem segment_leaveWaiting (q c : Nat) (i : Nat) : (s.leaveWaiting q c).segment i = s.segment i := rfl
@[simp] theorem program_leaveWaiting (q c : Nat) (i : Nat) : (s.leaveWaiting q c).program i = s.program i := rfl

/-! ### recountAll -/

theorem recountAll_eq (l : List Skill) (was now : AgentState) :
    s.recountAll l was now = { s with queues := (s.recountAll l was now).queues } := by
  unfold recountAll
  induction l generalizing s with
  | nil => rfl
  | cons k ks ih => simp only [List.foldl_cons]; rw [ih]; rfl

@[simp] theorem pending_recountAll (l : List Skill) (was now : AgentState) : (s.recountAll l was now).pending = s.pending := by rw [recountAll_eq]
@[simp] theorem freeIndex_recountAll (l : List Skill) (was now : AgentState) : (s.recountAll l was now).freeIndex = s.freeIndex := by rw [recountAll_eq]
@[simp] theorem path_recountAll (l : List Skill) (was now : AgentState) : (s.recountAll l was now).path = s.path := by rw [recountAll_eq]
@[simp] theorem staging_recountAll (l : List Skill) (was now : AgentState) : (s.recountAll l was now).staging = s.staging := by rw [recountAll_eq]
@[simp] theorem intake_recountAll (l : List Skill) (was now : AgentState) : (s.recountAll l was now).intake = s.intake := by rw [recountAll_eq]
@[simp] theorem part_recountAll (l : List Skill) (was now : AgentState) : (s.recountAll l was now).part = s.part := by rw [recountAll_eq]
@[simp] theorem calls_recountAll (l : List Skill) (was now : AgentState) : (s.recountAll l was now).calls = s.calls := by rw [recountAll_eq]
@[simp] theorem seniority_recountAll (l : List Skill) (was now : AgentState) : (s.recountAll l was now).seniority = s.seniority := by rw [recountAll_eq]
@[simp] theorem deadlines_recountAll (l : List Skill) (was now : AgentState) : (s.recountAll l was now).deadlines = s.deadlines := by rw [recountAll_eq]
@[simp] theorem samples_recountAll (l : List Skill) (was now : AgentState) : (s.recountAll l was now).samples = s.samples := by rw [recountAll_eq]
@[simp] theorem agents_recountAll (l : List Skill) (was now : AgentState) : (s.recountAll l was now).agents = s.agents := by rw [recountAll_eq]
@[simp] theorem engine_recountAll (l : List Skill) (was now : AgentState) : (s.recountAll l was now).engine = s.engine := by rw [recountAll_eq]
@[simp] theorem playout_recountAll (l : List Skill) (was now : AgentState) : (s.recountAll l was now).playout = s.playout := by rw [recountAll_eq]
@[simp] theorem feeds_recountAll (l : List Skill) (was now : AgentState) : (s.recountAll l was now).feeds = s.feeds := by rw [recountAll_eq]
@[simp] theorem time_recountAll (l : List Skill) (was now : AgentState) : (s.recountAll l was now).time = s.time := by rw [recountAll_eq]
@[simp] theorem events_recountAll (l : List Skill) (was now : AgentState) : (s.recountAll l was now).events = s.events := by rw [recountAll_eq]
@[simp] theorem tick_recountAll (l : List Skill) (was now : AgentState) : (s.recountAll l was now).tick = s.tick := by simp [tick]
@[simp] theorem call_recountAll (l : List Skill) (was now : AgentState) (i : Nat) : (s.recountAll l was now).call i = s.call i := by simp [State.call]
@[simp] theorem agent_recountAll (l : List Skill) (was now : AgentState) (i : Nat) : (s.recountAll l was now).agent i = s.agent i := by simp [State.agent]
@[simp] theorem feed_recountAll (l : List Skill) (was now : AgentState) (i : Nat) : (s.recountAll l was now).feed i = s.feed i := by simp [State.feed]
@[simp] theorem context_recountAll (l : List Skill) (was now : AgentState) (i : Nat) : (s.recountAll l was now).context i = s.context i := by simp [State.context]
@[simp] theorem binding_recountAll (l : List Skill) (was now : AgentState) (i : Nat) : (s.recountAll l was now).binding i = s.binding i := by simp [State.binding]
@[simp] theorem segment_recountAll (l : List Skill) (was now : AgentState) (i : Nat) : (s.recountAll l was now).segment i = s.segment i := by simp [State.segment]
@[simp] theorem program_recountAll (l : List Skill) (was now : AgentState) (i : Nat) : (s.recountAll l was now).program i = s.program i := by simp [State.program]

/-! ### moveAgent -/

theorem moveAgent_eq (a : Nat) (now : AgentState) :
    s.moveAgent a now = { s with queues := (s.moveAgent a now).queues, agents := (s.moveAgent a now).agents } := by
  unfold moveAgent; dsimp only; rw [recountAll_eq]; rfl

@[simp] theorem pending_moveAgent (a : Nat) (now : AgentState) : (s.moveAgent a now).pending = s.pending := by rw [moveAgent_eq]
@[simp] theorem freeIndex_moveAgent (a : Nat) (now : AgentState) : (s.moveAgent a now).freeIndex = s.freeIndex := by rw [moveAgent_eq]
@[simp] theorem path_moveAgent (a : Nat) (now : AgentState) : (s.moveAgent a now).path = s.path := by rw [moveAgent_eq]
@[simp] theorem staging_moveAgent (a : Nat) (now : AgentState) : (s.moveAgent a now).staging = s.staging := by rw [moveAgent_eq]
@[simp] theorem intake_moveAgent (a : Nat) (now : AgentState) : (s.moveAgent a now).intake = s.intake := by rw [moveAgent_eq]
@[simp] theorem part_moveAgent (a : Nat) (now : AgentState) : (s.moveAgent a now).part = s.part := by rw [moveAgent_eq]
@[simp] theorem calls_moveAgent (a : Nat) (now : AgentState) : (s.moveAgent a now).calls = s.calls := by rw [moveAgent_eq]
@[simp] theorem seniority_moveAgent (a : Nat) (now : AgentState) : (s.moveAgent a now).seniority = s.seniority := by rw [moveAgent_eq]
@[simp] theorem deadlines_moveAgent (a : Nat) (now : AgentState) : (s.moveAgent a now).deadlines = s.deadlines := by rw [moveAgent_eq]
@[simp] theorem samples_moveAgent (a : Nat) (now : AgentState) : (s.moveAgent a now).samples = s.samples := by rw [moveAgent_eq]
@[simp] theorem engine_moveAgent (a : Nat) (now : AgentState) : (s.moveAgent a now).engine = s.engine := by rw [moveAgent_eq]
@[simp] theorem playout_moveAgent (a : Nat) (now : AgentState) : (s.moveAgent a now).playout = s.playout := by rw [moveAgent_eq]
@[simp] theorem feeds_moveAgent (a : Nat) (now : AgentState) : (s.moveAgent a now).feeds = s.feeds := by rw [moveAgent_eq]
@[simp] theorem time_moveAgent (a : Nat) (now : AgentState) : (s.moveAgent a now).time = s.time := by rw [moveAgent_eq]
@[simp] theorem events_moveAgent (a : Nat) (now : AgentState) : (s.moveAgent a now).events = s.events := by rw [moveAgent_eq]
@[simp] theorem tick_moveAgent (a : Nat) (now : AgentState) : (s.moveAgent a now).tick = s.tick := by simp [tick]
@[simp] theorem call_moveAgent (a : Nat) (now : AgentState) (i : Nat) : (s.moveAgent a now).call i = s.call i := by simp [State.call]
@[simp] theorem feed_moveAgent (a : Nat) (now : AgentState) (i : Nat) : (s.moveAgent a now).feed i = s.feed i := by simp [State.feed]
@[simp] theorem context_moveAgent (a : Nat) (now : AgentState) (i : Nat) : (s.moveAgent a now).context i = s.context i := by simp [State.context]
@[simp] theorem binding_moveAgent (a : Nat) (now : AgentState) (i : Nat) : (s.moveAgent a now).binding i = s.binding i := by simp [State.binding]
@[simp] theorem segment_moveAgent (a : Nat) (now : AgentState) (i : Nat) : (s.moveAgent a now).segment i = s.segment i := by simp [State.segment]
@[simp] theorem program_moveAgent (a : Nat) (now : AgentState) (i : Nat) : (s.moveAgent a now).program i = s.program i := by simp [State.program]

/-! ### What changed -/

@[simp] theorem agent_moveAgent (a : Nat) (now : AgentState) (b : Nat) :
    (s.moveAgent a now).agent b = if b = a then { s.agent a with state := now, stateEntry := s.tick } else s.agent b := by
  unfold moveAgent
  dsimp only
  rw [agent_recountAll, agent_setAgent]

/-- A recount leaves every field of a queue but its two head counts. -/
theorem queue_recountAll_eq (l : List Skill) (was now : AgentState) (q : Nat) :
    (s.recountAll l was now).queue q =
      { s.queue q with
        staffed := ((s.recountAll l was now).queue q).staffed, available := ((s.recountAll l was now).queue q).available } := by
  unfold recountAll
  induction l generalizing s with
  | nil => rfl
  | cons k ks ih =>
    simp only [List.foldl_cons]
    rw [ih, queue_setQueue]
    split
    · next h => subst h; rfl
    · rfl

/-- A queue that a list does not name is not recounted. -/
theorem queue_recountAll_other (l : List Skill) (was now : AgentState) (q : Nat) (h : ∀ k ∈ l, k.queue ≠ q) :
    (s.recountAll l was now).queue q = s.queue q := by
  unfold recountAll
  induction l generalizing s with
  | nil => rfl
  | cons k ks ih =>
    simp only [List.foldl_cons]
    rw [ih _ fun j hj => h j (List.mem_cons_of_mem _ hj), queue_setQueue]
    have := h k (List.mem_cons_self ..)
    simp [Ne.symm this]

/-- A list that names no queue twice recounts each of its queues once (R62). -/
theorem queue_recountAll (l : List Skill) (was now : AgentState) (hl : duplicateSkill l = false) (q : Nat) :
    (s.recountAll l was now).queue q =
      if l.any fun k => k.queue == q then (s.queue q).recount was now else s.queue q := by
  induction l generalizing s with
  | nil => rfl
  | cons k ks ih =>
    simp only [duplicateSkill, Bool.or_eq_false_iff] at hl
    have hs : s.recountAll (k :: ks) was now
        = (s.setQueue k.queue ((s.queue k.queue).recount was now)).recountAll ks was now := rfl
    rw [hs, ih _ hl.2, queue_setQueue]
    simp only [List.any_cons]
    by_cases h : q = k.queue
    · subst h
      have : (ks.any fun j => j.queue == k.queue) = false := hl.1
      simp [this]
    · have h' : (k.queue == q) = false := by simp [Ne.symm h]
      simp [h, h']

theorem queue_moveAgent (a : Nat) (now : AgentState) (hl : duplicateSkill (s.agent a).skills = false) (q : Nat) :
    (s.moveAgent a now).queue q =
      if (s.agent a).names q then (s.queue q).recount (s.agent a).state now else s.queue q := by
  unfold moveAgent
  dsimp only
  rw [queue_recountAll _ _ _ _ hl]
  rfl

@[simp] theorem workList_addTrigger (t : Trigger) :
    (s.addTrigger t).engine.workList = if t ∈ s.engine.workList then s.engine.workList else s.engine.workList ++ [t] := by
  unfold addTrigger; split <;> rfl
@[simp] theorem proposal_addTrigger (t : Trigger) : (s.addTrigger t).engine.proposal = s.engine.proposal := by
  unfold addTrigger; split <;> rfl
@[simp] theorem reserved_addTrigger (t : Trigger) : (s.addTrigger t).engine.reserved = s.engine.reserved := by
  unfold addTrigger; split <;> rfl

@[simp] theorem queue_enterWaiting (q c i : Nat) : (s.enterWaiting q c).queue i =
    if i = q then { s.queue q with waiting := s.insertByKeys c (s.queue q).waiting } else s.queue i :=
  queue_setQueue ..
@[simp] theorem queue_leaveWaiting (q c i : Nat) : (s.leaveWaiting q c).queue i =
    if i = q then { s.queue q with waiting := (s.queue q).waiting.filter (· != c) } else s.queue i :=
  queue_setQueue ..

/-! ### What an operation reads -/

/-- A posting depends on the events, the class enables, the reservation and the tick alone (R159). -/
theorem events_post_congr {s u : State} (he : u.events = s.events) (hp : u.part.config.enables = s.part.config.enables)
    (hr : u.engine.reserved = s.engine.reserved) (ht : u.tick = s.tick) (cls : EventClass) (kind : EventKind)
    (call agent target : Option Nat) (detail : Nat) :
    (u.post cls kind call agent target detail).events = (s.post cls kind call agent target detail).events := by
  unfold post eventRoom
  simp only [he, hp, hr, ht]
  repeat' split
  all_goals rfl

/-- A place in a waiting list depends on the priorities and seniority numbers alone (R36). -/
theorem insertByKeys_congr {s u : State} (h : ∀ d, (u.call d).priority = (s.call d).priority
    ∧ (u.call d).seniority = (s.call d).seniority) (c : Nat) (l : List Nat) : u.insertByKeys c l = s.insertByKeys c l := by
  induction l with
  | nil => rfl
  | cons d ds ih => unfold insertByKeys Call.ahead; simp only [(h c).1, (h c).2, (h d).1, (h d).2, ih]

/-- A call without an armed slot has no entry in the list (R23). -/
theorem deadlines_refreshDeadline_unarmed (c : Nat) (h : (s.call c).armed = []) :
    (s.refreshDeadline c).deadlines = s.deadlines.filter fun d => d.call != c := by
  have hn : s.deadlineOf c = none := by unfold deadlineOf; rw [h]; rfl
  unfold refreshDeadline
  split
  · next hf =>
    rw [hn, List.find?_eq_none] at hf
    exact (List.filter_eq_self.2 fun d hd => by simpa using hf d hd).symm
  · rw [hn]; simp

theorem deadlineOf_congr {s u : State} {c : Nat} (hc : (u.call c).armed = (s.call c).armed) (ht : u.tick = s.tick) :
    u.deadlineOf c = s.deadlineOf c := by
  unfold deadlineOf; rw [hc, ht]

/-! ### The deadline list (R23) -/

@[simp] theorem deadlineOf_refreshDeadline (c d : Nat) : (s.refreshDeadline c).deadlineOf d = s.deadlineOf d :=
  deadlineOf_congr (by simp) (by simp)

theorem call_of_deadlineOf {s : State} {c : Nat} {d : Deadline} (h : s.deadlineOf c = some d) : d.call = c := by
  unfold deadlineOf at h
  simp only [Option.map_eq_some_iff] at h
  obtain ⟨x, -, hx⟩ := h
  rw [← hx]

/-- After a refresh the call shows the entry its armed slots ask for. -/
theorem shownDeadline_refreshDeadline (c : Nat) : (s.refreshDeadline c).shownDeadline c = s.deadlineOf c := by
  unfold shownDeadline refreshDeadline
  split
  · assumption
  · have hn : (s.deadlines.filter fun d => d.call != c).find? (fun d => d.call == c) = none := by
      simp [List.find?_eq_none]
    simp only [List.find?_append, hn]
    cases h : s.deadlineOf c with
    | none => rfl
    | some d => simp [call_of_deadlineOf h]

/-- A refresh leaves the entries of the other calls. -/
theorem others_refreshDeadline (c : Nat) :
    ((s.refreshDeadline c).deadlines.filter fun d => d.call != c) = s.deadlines.filter fun d => d.call != c := by
  unfold refreshDeadline
  split
  · rfl
  · cases h : s.deadlineOf c with
    | none => simp
    | some d => simp [List.filter_append, call_of_deadlineOf h]

theorem samples_handSample (q n : Nat) :
    (s.handSample (some q) n).samples = s.samples ++ [{ queue := q, ticks := n }] := rfl

end State

end Sys2Proof.Machine
end

