-- ==== Sys2Proof/Laws/Control.lean ====
section
/-! SUPPORT. What the control of a context may change: the beginnings and resumptions of one event (07 R115 to R121). -/

namespace Sys2Proof.Machine

/-- Control of context `k` changes that context, the context field of its call, the binding of its channel, the events, and
the free values' counter; nothing else. -/
structure Controlled (k c ch : Nat) (s t : State) : Prop where
  rest : t = { s with
    freeIndex := t.freeIndex, calls := t.calls
    playout := { s.playout with contexts := t.playout.contexts, bindings := t.playout.bindings }
    events := { t.events with dispatch := s.events.dispatch, shown := s.events.shown } }
  contexts : ∀ j, j ≠ k → t.context j = s.context j
  calls : ∀ d, d ≠ c → t.call d = s.call d
  itsCall : t.call c = { s.call c with context := (t.call c).context }
  bindings : ∀ b, b ≠ ch → t.binding b = s.binding b

theorem Controlled.refl (k c ch : Nat) (s : State) : Controlled k c ch s s :=
  ⟨rfl, fun _ _ => rfl, fun _ _ => rfl, rfl, fun _ _ => rfl⟩

theorem Controlled.trans {k c ch : Nat} {s t u : State} (h : Controlled k c ch s t) (g : Controlled k c ch t u) :
    Controlled k c ch s u := by
  refine ⟨?_, fun j hj => (g.contexts j hj).trans (h.contexts j hj), fun d hd => (g.calls d hd).trans (h.calls d hd), ?_,
    fun b hb => (g.bindings b hb).trans (h.bindings b hb)⟩
  · have hg := g.rest; have hh := h.rest
    rw [hh] at hg
    exact hg
  · rw [g.itsCall, h.itsCall]

theorem controlled_setContext {k c ch : Nat} (s : State) (r : Context) : Controlled k c ch s (s.setContext k r) :=
  ⟨rfl, fun j hj => by simp [hj], fun _ _ => rfl, rfl, fun _ _ => rfl⟩

theorem controlled_freeIndex {k c ch : Nat} (s : State) (n : Nat) : Controlled k c ch s { s with freeIndex := n } :=
  ⟨rfl, fun _ _ => rfl, fun _ _ => rfl, rfl, fun _ _ => rfl⟩

theorem controlled_post {k c ch : Nat} (s : State) {cls kind call agent target detail} (hd : cls ≠ .dispatch) :
    Controlled k c ch s (s.post cls kind call agent target detail) := by
  refine ⟨?_, fun _ _ => by simp, fun _ _ => by simp, by simp, fun _ _ => by simp⟩
  unfold State.post
  dsimp only
  split
  · rfl
  · split
    · rfl
    · cases cls <;> first | exact absurd rfl hd | rfl

theorem controlled_endContext {k c ch : Nat} (s : State) (hc : (s.context k).call = c) (hch : (s.context k).channel = ch) :
    Controlled k c ch s (s.endContext k) := by
  unfold State.endContext State.stopContext
  refine ⟨rfl, fun j hj => by simp [hj], fun d hd => by simp [hc, hd], by simp [hc], fun b hb => by simp [hch, hb]⟩

theorem controlled_badStep {k c ch : Nat} (s : State) (hc : (s.context k).call = c) (hch : (s.context k).channel = ch) :
    Controlled k c ch s (s.badStep k) := by
  unfold State.badStep
  exact (controlled_endContext s hc hch).trans (controlled_post _ (by decide))

theorem controlled_lower {k c ch : Nat} (s : State) (n : Nat) : Controlled k c ch s (s.lower n).2 := by
  unfold State.lower; split
  · exact controlled_freeIndex ..
  · exact .refl ..

/-- The answer of an act of control: as `Controlled`, and the context is still its call's unless control is done. -/
def ControlAnswer (k c ch : Nat) (s : State) (r : State × Control) : Prop :=
  Controlled k c ch s r.1 ∧ (r.2 = .done ∨ (r.1.context k).call = c ∧ (r.1.context k).channel = ch)

section
variable {k c ch : Nat} {s : State} (hc : (s.context k).call = c) (hch : (s.context k).channel = ch)
include hc hch

omit hc hch in
theorem context_lower (n j : Nat) (s : State) : (s.lower n).2.context j = s.context j := by
  unfold State.lower; split <;> rfl

theorem answer_endPass : ControlAnswer k c ch s (s.endPass k) := by
  unfold State.endPass
  dsimp only
  split
  · exact ⟨controlled_setContext .., .inl rfl⟩
  · split
    · exact ⟨controlled_lower .., .inr (by simp [context_lower, hc, hch])⟩
    · exact ⟨(controlled_lower ..).trans (controlled_setContext ..), .inl rfl⟩

theorem answer_endPeriod : ControlAnswer k c ch s (s.endPeriod k) := by
  unfold State.endPeriod
  dsimp only
  split
  · exact ⟨controlled_setContext .., .inl rfl⟩
  · split
    · exact ⟨controlled_lower .., .inr (by simp [context_lower, hc, hch])⟩
    · exact ⟨(controlled_lower ..).trans (controlled_setContext ..), .inl rfl⟩

theorem answer_popReturn : ControlAnswer k c ch s (s.popReturn k) := by
  unfold State.popReturn
  dsimp only
  split
  · exact ⟨.refl .., .inl rfl⟩
  · exact ⟨controlled_setContext .., .inr (by simp [hc, hch])⟩

omit hc hch in
theorem answer_setContext {r : Context} {x : Control} (h1 : r.call = c) (h2 : r.channel = ch) :
    ControlAnswer k c ch s (s.setContext k r, x) :=
  ⟨controlled_setContext .., .inr (by simp [h1, h2])⟩

/-- Ends an answer by the state a record is written in. -/
theorem answer_set {r : Context} {x : Control} (h : r.call = (s.context k).call ∧ r.channel = (s.context k).channel) :
    ControlAnswer k c ch s (s.setContext k r, x) :=
  answer_setContext (h.1.trans hc) (h.2.trans hch)

theorem answer_bad : ControlAnswer k c ch s (s.badStep k, .done) := ⟨controlled_badStep _ hc hch, .inl rfl⟩

theorem answer_posted {r : Context} {x : Control} {cls kind call agent target detail} (hd : cls ≠ .dispatch)
    (h : r.call = (s.context k).call ∧ r.channel = (s.context k).channel) :
    ControlAnswer k c ch s ((s.setContext k r).post cls kind call agent target detail, x) :=
  ⟨(controlled_setContext ..).trans (controlled_post _ hd), .inr (by simp [h.1, h.2, hc, hch])⟩

theorem answer_beginStep (i : Nat) : ControlAnswer k c ch s (s.beginStep k i) := by
  have hf (x : Context) (g : Segment) (n : Nat) : (x.fallBack g n).call = x.call ∧ (x.fallBack g n).channel = x.channel := by
    unfold Context.fallBack; split <;> exact ⟨rfl, rfl⟩
  unfold State.beginStep
  dsimp only
  split
  · exact answer_bad hc hch
  · split
    · exact ⟨(controlled_endContext _ hc hch).trans (controlled_post _ (by decide)), .inl rfl⟩
    · split <;> exact answer_set hc hch ⟨rfl, rfl⟩
    · split
      · exact answer_bad hc hch
      · split
        · exact answer_set hc hch ⟨rfl, rfl⟩
        · exact answer_set hc hch (hf ..)
    · split
      · exact answer_set hc hch ⟨rfl, rfl⟩
      · split <;> exact answer_set hc hch ⟨rfl, rfl⟩
    · split
      · exact answer_set hc hch ⟨rfl, rfl⟩
      · split <;> exact answer_set hc hch ⟨rfl, rfl⟩
    · split <;> exact answer_set hc hch ⟨rfl, rfl⟩
    · split
      · exact answer_bad hc hch
      · split <;> exact answer_set hc hch ⟨rfl, rfl⟩
    · exact answer_set hc hch ⟨rfl, rfl⟩
    · split
      · exact answer_posted hc hch (by decide) ⟨rfl, rfl⟩
      · exact answer_set hc hch ⟨rfl, rfl⟩
    · split
      · exact answer_posted hc hch (by decide) ⟨rfl, rfl⟩
      · have h := answer_popReturn (k := k) (c := c) (ch := ch)
          (s := s.setContext k ((s.context k).beginStep i ((s.program (s.context k).program).steps.getD i {})))
          (by simp [Context.beginStep, hc]) (by simp [Context.beginStep, hch])
        refine ⟨(controlled_setContext ..).trans h.1, .inr ?_⟩
        unfold State.popReturn
        dsimp only
        split <;> simp [Context.beginStep, hc, hch]
    · exact answer_bad hc hch

theorem answer_resumeStep (r : ReturnRecord) : ControlAnswer k c ch s (s.resumeStep k r) := by
  have hf (x : Context) (g : Segment) (n : Nat) : (x.fallBack g n).call = x.call ∧ (x.fallBack g n).channel = x.channel := by
    unfold Context.fallBack; split <;> exact ⟨rfl, rfl⟩
  have hp (y : Context) (hy1 : y.call = (s.context k).call) (hy2 : y.channel = (s.context k).channel) :
      ControlAnswer k c ch s ((s.setContext k y).endPass k) ∧ ControlAnswer k c ch s ((s.setContext k y).endPeriod k) := by
    have h1 : ((s.setContext k y).context k).call = c := by simp [hy1, hc]
    have h2 : ((s.setContext k y).context k).channel = ch := by simp [hy2, hch]
    exact ⟨⟨(controlled_setContext ..).trans (answer_endPass h1 h2).1, (answer_endPass h1 h2).2⟩,
      ⟨(controlled_setContext ..).trans (answer_endPeriod h1 h2).1, (answer_endPeriod h1 h2).2⟩⟩
  unfold State.resumeStep
  dsimp only
  split
  · exact answer_bad hc hch
  · split
    · split
      · split
        · exact (hp { (s.context k).resumeAt r ((s.program (s.context k).program).steps.getD r.step {}) with segment := _ } rfl rfl).1
        · exact answer_set hc hch ⟨rfl, rfl⟩
      · exact answer_set hc hch ⟨rfl, rfl⟩
    · split <;> exact answer_set hc hch ⟨rfl, rfl⟩
    · split
      · exact answer_bad hc hch
      · split
        · split
          · exact (hp { (s.context k).resumeAt r ((s.program (s.context k).program).steps.getD r.step {}) with segment := _ } rfl rfl).2
          · exact answer_set hc hch ⟨rfl, rfl⟩
        · exact answer_set hc hch ⟨rfl, rfl⟩
    · split
      · exact answer_bad hc hch
      · split
        · exact answer_set hc hch ⟨rfl, rfl⟩
        · exact answer_set hc hch (hf ..)
    all_goals exact ⟨.refl .., .inr ⟨hc, hch⟩⟩

theorem answer_returnStep (r : ReturnRecord) : ControlAnswer k c ch s (s.returnStep k r) := by
  unfold State.returnStep
  dsimp only
  split
  · split
    · exact answer_bad hc hch
    · have h := answer_resumeStep (k := k) (c := c) (ch := ch)
        (s := s.setContext k { s.context k with beginnings := (s.context k).beginnings + 1 }) (by simp [hc]) (by simp [hch]) r
      exact ⟨(controlled_setContext ..).trans h.1, h.2⟩
  · exact answer_resumeStep hc hch r

end

/-- What control may change, whatever it does (R115). -/
theorem controlled_control {k c ch : Nat} (s : State) (x : Control) (hc : (s.context k).call = c)
    (hch : (s.context k).channel = ch) : Controlled k c ch s (s.control k x) := by
  unfold State.control
  generalize controlFuel = n
  induction n generalizing s x with
  | zero => exact .refl ..
  | succ n ih =>
    have go (r : State × Control) (h : ControlAnswer k c ch s r) : Controlled k c ch s (State.runControl n r.1 k r.2) := by
      obtain ⟨h1, h2⟩ := h
      cases h2 with
      | inl hd => rw [hd]; cases n <;> exact h1
      | inr hk => exact h1.trans (ih _ _ hk.1 hk.2)
    unfold State.runControl
    split
    · exact .refl ..
    · exact go _ (answer_beginStep hc hch _)
    · exact go _ (answer_resumeStep hc hch _)
    · exact go _ (answer_returnStep hc hch _)

namespace State

variable (s : State)

theorem control_eq (k : Nat) (c : Control) : s.control k c = { s with
    freeIndex := (s.control k c).freeIndex, calls := (s.control k c).calls
    playout := { s.playout with
      contexts := (s.control k c).playout.contexts, bindings := (s.control k c).playout.bindings }
    events := { (s.control k c).events with dispatch := s.events.dispatch, shown := s.events.shown } } :=
  (controlled_control s c rfl rfl).rest

@[simp] theorem pending_control (k : Nat) (c : Control) : (s.control k c).pending = s.pending := by rw [control_eq]
@[simp] theorem path_control (k : Nat) (c : Control) : (s.control k c).path = s.path := by rw [control_eq]
@[simp] theorem staging_control (k : Nat) (c : Control) : (s.control k c).staging = s.staging := by rw [control_eq]
@[simp] theorem intake_control (k : Nat) (c : Control) : (s.control k c).intake = s.intake := by rw [control_eq]
@[simp] theorem part_control (k : Nat) (c : Control) : (s.control k c).part = s.part := by rw [control_eq]
@[simp] theorem seniority_control (k : Nat) (c : Control) : (s.control k c).seniority = s.seniority := by rw [control_eq]
@[simp] theorem deadlines_control (k : Nat) (c : Control) : (s.control k c).deadlines = s.deadlines := by rw [control_eq]
@[simp] theorem queues_control (k : Nat) (c : Control) : (s.control k c).queues = s.queues := by rw [control_eq]
@[simp] theorem samples_control (k : Nat) (c : Control) : (s.control k c).samples = s.samples := by rw [control_eq]
@[simp] theorem agents_control (k : Nat) (c : Control) : (s.control k c).agents = s.agents := by rw [control_eq]
@[simp] theorem engine_control (k : Nat) (c : Control) : (s.control k c).engine = s.engine := by rw [control_eq]
@[simp] theorem feeds_control (k : Nat) (c : Control) : (s.control k c).feeds = s.feeds := by rw [control_eq]
@[simp] theorem time_control (k : Nat) (c : Control) : (s.control k c).time = s.time := by rw [control_eq]
@[simp] theorem tick_control (k : Nat) (c : Control) : (s.control k c).tick = s.tick := by simp [tick]
@[simp] theorem queue_control (k : Nat) (c : Control) (i : Nat) : (s.control k c).queue i = s.queue i := by simp [State.queue]
@[simp] theorem agent_control (k : Nat) (c : Control) (i : Nat) : (s.control k c).agent i = s.agent i := by simp [State.agent]
@[simp] theorem feed_control (k : Nat) (c : Control) (i : Nat) : (s.control k c).feed i = s.feed i := by simp [State.feed]
@[simp] theorem segment_control (k : Nat) (c : Control) (i : Nat) : (s.control k c).segment i = s.segment i := by
  rw [control_eq]; rfl
@[simp] theorem program_control (k : Nat) (c : Control) (i : Nat) : (s.control k c).program i = s.program i := by
  rw [control_eq]; rfl
@[simp] theorem fetch_control (k : Nat) (c : Control) : (s.control k c).playout.fetch = s.playout.fetch := by
  rw [control_eq]
@[simp] theorem dispatch_control (k : Nat) (c : Control) : (s.control k c).events.dispatch = s.events.dispatch := by
  rw [control_eq]
@[simp] theorem shown_control (k : Nat) (c : Control) : (s.control k c).events.shown = s.events.shown := by
  rw [control_eq]

/-! ### Single acts -/

@[simp] theorem control_done (k : Nat) : s.control k .done = s := rfl

/-- A beginning that reaches a step with samples to place ends the control (R115). -/
theorem control_begin (k i : Nat) (h : (s.beginStep k i).2 = .done) :
    s.control k (.begin i) = (s.beginStep k i).1 := by
  show State.runControl 39 (s.beginStep k i).1 k (s.beginStep k i).2 = _
  rw [h]; rfl

theorem control_resume (k : Nat) (r : ReturnRecord) (h : (s.resumeStep k r).2 = .done) :
    s.control k (.resume r) = (s.resumeStep k r).1 := by
  show State.runControl 39 (s.resumeStep k r).1 k (s.resumeStep k r).2 = _
  rw [h]; rfl

/-- The beginning of a PLAY step of a DEFINED segment (R116). -/
theorem beginStep_play (k i : Nat) (g : ProgramStep) (hi : i < 16) (hb : (s.context k).beginnings + 1 < 16)
    (hg : (s.program (s.context k).program).steps.getD i {} = g) (hp : g.kind = .play)
    (hd : (s.segment g.arg).defined = true) :
    s.beginStep k i =
      (s.setContext k
        { (s.context k).beginStep i g with segment := s.segment g.arg, passes := g.count }, .done) := by
  unfold State.beginStep
  rw [if_neg (by unfold Config.stepsPerProgram Config.maxBeginnings; omega)]
  simp only [hg, hp, hd, if_true]

/-! ### Chains of acts -/

/-- How many acts a chain of control can still take: sixteen beginnings without a sample (R115), and a resumption after
each. -/
def weight (k : Nat) : Control → Nat
  | .done => 0
  | .begin _ => 2 * (16 - (s.context k).beginnings) + 1
  | .resume _ => 2 * (16 - (s.context k).beginnings) + 2
  | .returned _ => 2 * (16 - (s.context k).beginnings) + 2

/-- A beginning counts itself, and fewer than sixteen go on. -/
theorem beginStep_counts (k i : Nat) : (s.beginStep k i).2 = .done ∨
    (s.context k).beginnings + 1 < 16 ∧
      ((s.beginStep k i).1.context k).beginnings = (s.context k).beginnings + 1 := by
  unfold beginStep
  dsimp only
  split
  · exact .inl rfl
  · rename_i h
    have hb : (s.context k).beginnings + 1 < 16 := by
      have : ¬ 16 ≤ (s.context k).beginnings + 1 := fun hh => h (Or.inr hh)
      omega
    have set (y : Context) (x : Control) (hy : y.beginnings = (s.context k).beginnings + 1) :
        x = .done ∨ (s.context k).beginnings + 1 < 16 ∧
          (((s.setContext k y, x) : State × Control).1.context k).beginnings = (s.context k).beginnings + 1 :=
      .inr ⟨hb, by simp [hy]⟩
    split
    · exact .inl rfl
    · split <;> exact set _ _ rfl
    · split
      · exact .inl rfl
      · split <;> exact .inl rfl
    · split
      · exact set _ _ rfl
      · split
        · exact .inl rfl
        · exact set _ _ rfl
    · split
      · exact set _ _ rfl
      · split
        · exact .inl rfl
        · exact set _ _ rfl
    · split
      · exact set _ _ rfl
      · exact .inl rfl
    · split
      · exact .inl rfl
      · split
        · exact .inl rfl
        · exact set _ _ rfl
    · exact set _ _ rfl
    · split
      · exact .inr ⟨hb, by simp [Context.beginStep]⟩
      · exact set _ _ rfl
    · split
      · exact .inr ⟨hb, by simp [Context.beginStep]⟩
      · refine .inr ⟨hb, ?_⟩
        unfold popReturn
        dsimp only
        split <;> simp [Context.beginStep]
    · exact .inl rfl

/-- A resumption by itself counts as none, and is followed by no other. -/
theorem resumeStep_counts (k : Nat) (r : ReturnRecord) : (s.resumeStep k r).2 = .done ∨
    (∃ i, (s.resumeStep k r).2 = .begin i) ∧
      ((s.resumeStep k r).1.context k).beginnings = (s.context k).beginnings := by
  have pass (u : State) : (u.endPass k).2 = .done ∨
      (∃ i, (u.endPass k).2 = .begin i) ∧ ((u.endPass k).1.context k).beginnings = (u.context k).beginnings := by
    unfold endPass lower
    dsimp only
    repeat' split
    all_goals first | exact .inl rfl | exact .inr ⟨⟨_, rfl⟩, rfl⟩
  have period (u : State) : (u.endPeriod k).2 = .done ∨
      (∃ i, (u.endPeriod k).2 = .begin i) ∧ ((u.endPeriod k).1.context k).beginnings = (u.context k).beginnings := by
    unfold endPeriod lower
    dsimp only
    repeat' split
    all_goals first | exact .inl rfl | exact .inr ⟨⟨_, rfl⟩, rfl⟩
  unfold resumeStep
  dsimp only
  split
  · exact .inl rfl
  · split
    · split
      · split
        · have := pass (s.setContext k { (s.context k).resumeAt r ((s.program (s.context k).program).steps.getD r.step {}) with
            segment := s.segment ((s.program (s.context k).program).steps.getD r.step {}).arg })
          simpa [Context.resumeAt] using this
        · exact .inl rfl
      · exact .inr ⟨⟨_, rfl⟩, by simp [Context.resumeAt]⟩
    · split
      · exact .inr ⟨⟨_, rfl⟩, by simp [Context.resumeAt]⟩
      · exact .inl rfl
    · split
      · exact .inl rfl
      · split
        · split
          · have := period (s.setContext k { (s.context k).resumeAt r ((s.program (s.context k).program).steps.getD r.step {}) with
              segment := s.segment ((s.program (s.context k).program).steps.getD r.step {}).arg })
            simpa [Context.resumeAt] using this
          · exact .inl rfl
        · exact .inr ⟨⟨_, rfl⟩, by simp [Context.resumeAt]⟩
    · split
      · exact .inl rfl
      · split <;> exact .inl rfl
    all_goals exact .inr ⟨⟨_, rfl⟩, rfl⟩

/-- A step that a RETURN names counts itself where it keeps its place, and no resumption follows it. -/
theorem returnStep_counts (k : Nat) (r : ReturnRecord) : (s.returnStep k r).2 = .done ∨
    (∃ i, (s.returnStep k r).2 = .begin i) ∧
      (s.context k).beginnings ≤ ((s.returnStep k r).1.context k).beginnings := by
  unfold returnStep
  dsimp only
  split
  · split
    · exact .inl rfl
    · rcases (s.setContext k { s.context k with beginnings := (s.context k).beginnings + 1 }).resumeStep_counts k r with
        h | ⟨hi, h⟩
      · exact .inl h
      · exact .inr ⟨hi, by rw [h]; simp⟩
  · rcases s.resumeStep_counts k r with h | ⟨hi, h⟩
    · exact .inl h
    · exact .inr ⟨hi, Nat.le_of_eq h.symm⟩

/-- Every act of control makes the chain shorter. -/
theorem weight_controlStep (k : Nat) (c : Control) (h : c ≠ .done) :
    (s.controlStep k c).1.weight k (s.controlStep k c).2 < s.weight k c := by
  cases c with
  | done => exact absurd rfl h
  | begin i =>
    show (s.beginStep k i).1.weight k (s.beginStep k i).2 < _
    rcases s.beginStep_counts k i with h | ⟨hb, h⟩
    · rw [h]; exact Nat.succ_pos _
    · cases (s.beginStep k i).2 <;> simp only [weight, h] <;> omega
  | resume r =>
    show (s.resumeStep k r).1.weight k (s.resumeStep k r).2 < _
    rcases s.resumeStep_counts k r with h | ⟨⟨i, hi⟩, h⟩
    · rw [h]; exact Nat.succ_pos _
    · rw [hi]; simp only [weight, h]; omega
  | returned r =>
    show (s.returnStep k r).1.weight k (s.returnStep k r).2 < _
    rcases s.returnStep_counts k r with h | ⟨⟨i, hi⟩, h⟩
    · rw [h]; exact Nat.succ_pos _
    · rw [hi]; simp only [weight]; omega

theorem runControl_succ (n k : Nat) (c : Control) (h : c ≠ .done) :
    runControl (n + 1) s k c = runControl n (s.controlStep k c).1 k (s.controlStep k c).2 := by
  cases c with
  | done => exact absurd rfl h
  | begin i => rfl
  | resume r => rfl
  | returned r => rfl

/-- The fuel does not matter where there is enough of it. -/
theorem runControl_enough (n m k : Nat) (c : Control) (hn : s.weight k c ≤ n) (hm : s.weight k c ≤ m) :
    runControl n s k c = runControl m s k c := by
  by_cases hc : c = .done
  · subst hc; cases n <;> cases m <;> rfl
  · induction n generalizing s m c with
    | zero => cases c <;> first | exact absurd rfl hc | exact absurd hn (by simp [weight])
    | succ n ih =>
      cases m with
      | zero => cases c <;> first | exact absurd rfl hc | exact absurd hm (by simp [weight])
      | succ m =>
        rw [runControl_succ _ _ _ _ hc, runControl_succ _ _ _ _ hc]
        have hw := s.weight_controlStep k c hc
        by_cases hd : (s.controlStep k c).2 = .done
        · rw [hd]; cases n <;> cases m <;> rfl
        · exact ih _ m _ (by omega) (by omega) hd

/-- Control is its acts, one after another, to the end of the chain (R115). -/
theorem control_next (k : Nat) (c : Control) (h : c ≠ .done) :
    s.control k c = (s.controlStep k c).1.control k (s.controlStep k c).2 := by
  unfold control controlFuel
  rw [runControl_succ _ _ _ _ h]
  have hw := s.weight_controlStep k c h
  have hs : s.weight k c ≤ 34 := by cases c <;> simp only [weight] <;> omega
  exact runControl_enough _ _ _ _ _ (by omega) (by omega)

theorem control_begins (k i : Nat) :
    s.control k (.begin i) = (s.beginStep k i).1.control k (s.beginStep k i).2 :=
  s.control_next k (.begin i) (by simp)

theorem control_resumes (k : Nat) (r : ReturnRecord) :
    s.control k (.resume r) = (s.resumeStep k r).1.control k (s.resumeStep k r).2 :=
  s.control_next k (.resume r) (by simp)

theorem control_returns (k : Nat) (r : ReturnRecord) :
    s.control k (.returned r) = (s.returnStep k r).1.control k (s.returnStep k r).2 :=
  s.control_next k (.returned r) (by simp)

/-! ### Ends (R112, R116, R117) -/

/-- What a stop of the Playout Engine's own leaves, with its notice (R12, R112). -/
theorem contextEnded_of {s u : State} (k : Nat) (cls : EventClass) (kind : EventKind) (detail : Nat)
    (hu : u = (s.endContext k).post cls kind (some (s.context k).call) none none detail) :
    ContextEnded s u k cls kind detail := by
  subst hu
  have e : s.endContext k = ((s.setBinding (s.context k).channel none).setContext k (s.context k).stopped).setCall
      (s.context k).call { s.call (s.context k).call with context := none } := by
    unfold endContext stopContext; simp
  rw [e]
  constructor
  · simp [Context.stopped]
  · intro j hj; simp [hj]
  · intro b; simp
  · simp
  · intro d hd; simp [hd]
  · apply events_post_congr <;> simp
  · simp (maxDischargeDepth := 40) [Changes.refl, posting]

/-- The end of a pass (R116) of a context as it stands written. -/
theorem endPass_setContext (k : Nat) (z : Context) :
    (z.step.count = 0 →
      (s.setContext k z).endPass k = (s.setContext k { z with position := z.segment.loopStart }, .done)) ∧
    (z.step.count ≠ 0 → 1 < z.passes → (s.setContext k z).endPass k =
      (s.setContext k { z with position := z.segment.loopStart, passes := z.passes - 1 }, .done)) ∧
    (z.step.count ≠ 0 → z.passes = 1 → (s.setContext k z).endPass k = (s.setContext k z, .begin (z.index + 1))) ∧
    (z.step.count ≠ 0 → z.passes = 0 →
      ((Config.loweredZero s.freeIndex).toNat = 0 → (s.setContext k z).endPass k =
        (({ s with freeIndex := s.freeIndex + 1 } : State).setContext k z, .begin (z.index + 1))) ∧
      ((Config.loweredZero s.freeIndex).toNat ≠ 0 → (s.setContext k z).endPass k =
        (({ s with freeIndex := s.freeIndex + 1 } : State).setContext k
          { z with position := z.segment.loopStart, passes := (Config.loweredZero s.freeIndex).toNat }, .done))) := by
  refine ⟨fun h => ?_, fun h h1 => ?_, fun h h1 => ?_, fun h h1 => ⟨fun h2 => ?_, fun h2 => ?_⟩⟩
  · unfold endPass; simp [h, setContext_setContext]
  · unfold endPass lower
    simp [h, show z.passes ≠ 0 by omega, show ¬ z.passes - 1 = 0 by omega, setContext_setContext]
  · unfold endPass lower; simp [h, h1]
  · unfold endPass lower; simp [h, h1, h2]; rfl
  · unfold endPass lower; simp [h, h1, h2]
    exact setContext_setContext ({ s with freeIndex := s.freeIndex + 1 } : State) k z _

/-- The end of a period (R117) of a context as it stands written. -/
theorem endPeriod_setContext (k : Nat) (z : Context) :
    (z.step.count = 0 →
      (s.setContext k z).endPeriod k = (s.setContext k { z with phase := 0, position := 0 }, .done)) ∧
    (z.step.count ≠ 0 → 1 < z.bursts → (s.setContext k z).endPeriod k =
      (s.setContext k { z with phase := 0, position := 0, bursts := z.bursts - 1 }, .done)) ∧
    (z.step.count ≠ 0 → z.bursts = 1 → (s.setContext k z).endPeriod k = (s.setContext k z, .begin (z.index + 1))) ∧
    (z.step.count ≠ 0 → z.bursts = 0 →
      ((Config.loweredZero s.freeIndex).toNat = 0 → (s.setContext k z).endPeriod k =
        (({ s with freeIndex := s.freeIndex + 1 } : State).setContext k z, .begin (z.index + 1))) ∧
      ((Config.loweredZero s.freeIndex).toNat ≠ 0 → (s.setContext k z).endPeriod k =
        (({ s with freeIndex := s.freeIndex + 1 } : State).setContext k
          { z with phase := 0, position := 0, bursts := (Config.loweredZero s.freeIndex).toNat }, .done))) := by
  refine ⟨fun h => ?_, fun h h1 => ?_, fun h h1 => ?_, fun h h1 => ⟨fun h2 => ?_, fun h2 => ?_⟩⟩
  · unfold endPeriod; simp [h, setContext_setContext]
  · unfold endPeriod lower
    simp [h, show z.bursts ≠ 0 by omega, show ¬ z.bursts - 1 = 0 by omega, setContext_setContext]
  · unfold endPeriod lower; simp [h, h1]
  · unfold endPeriod lower; simp [h, h1, h2]; rfl
  · unfold endPeriod lower; simp [h, h1, h2]
    exact setContext_setContext ({ s with freeIndex := s.freeIndex + 1 } : State) k z _

/-- The top record popped, of a context as it stands written (R121, R123). -/
theorem popReturn_setContext (k : Nat) (z : Context) (r : ReturnRecord) (rest : List ReturnRecord) (h : z.stack = r :: rest) :
    (s.setContext k z).popReturn k =
      (s.setContext k
        { z with stack := rest, timer := if rest = [] then (s.program z.program).period else z.timer }, .resume r) := by
  unfold popReturn
  simp [h, setContext_setContext, List.isEmpty_iff]

/-- The entry a SAY step chooses (R102, R103). -/
theorem entryWithFallback_none (es : List Nat) (b : Nat) (h : ∀ j, 1 ≤ j → j ≤ b → es.getD (j - 1) 255 = 255) :
    entryWithFallback es b = none := by
  induction b with
  | zero => rfl
  | succ n ih =>
    unfold entryWithFallback
    rw [if_pos (by simpa using h (n + 1) (by omega) (by omega))]
    exact ih fun j h1 h2 => h j h1 (by omega)

theorem entryWithFallback_some (es : List Nat) (b m : Nat) (h : EntryChosen es b m) : entryWithFallback es b = some m := by
  obtain ⟨j, h1, h2, h3, h4, h5⟩ := h
  induction b with
  | zero => omega
  | succ n ih =>
    unfold entryWithFallback
    by_cases hj : j = n + 1
    · subst hj
      simp only [Nat.add_sub_cancel] at h3
      rw [h3, if_neg h4]
    · rw [if_pos (by simpa using h5 (n + 1) (by omega) (by omega))]
      exact ih (by omega) fun i hi hi2 => h5 i hi (by omega)

end State

end Sys2Proof.Machine
end

