-- ==== Sys2Proof/Laws/Offers.lean ====
section
/-! SUPPORT. What wrap-up, a restore, a call made FREE and a stopped context leave, and what each does to its own records
(04 R77 to R81, 05, 07 R112). -/

namespace Sys2Proof.Machine

namespace State

variable (s : State)

/-! ### wrapEnd -/

@[simp] theorem pending_wrapEnd (a : Nat) (b : Bool) : (s.wrapEnd a b).pending = s.pending := by
  unfold wrapEnd; dsimp only; split <;> simp
@[simp] theorem freeIndex_wrapEnd (a : Nat) (b : Bool) : (s.wrapEnd a b).freeIndex = s.freeIndex := by
  unfold wrapEnd; dsimp only; split <;> simp
@[simp] theorem path_wrapEnd (a : Nat) (b : Bool) : (s.wrapEnd a b).path = s.path := by
  unfold wrapEnd; dsimp only; split <;> simp
@[simp] theorem staging_wrapEnd (a : Nat) (b : Bool) : (s.wrapEnd a b).staging = s.staging := by
  unfold wrapEnd; dsimp only; split <;> simp
@[simp] theorem intake_wrapEnd (a : Nat) (b : Bool) : (s.wrapEnd a b).intake = s.intake := by
  unfold wrapEnd; dsimp only; split <;> simp
@[simp] theorem part_wrapEnd (a : Nat) (b : Bool) : (s.wrapEnd a b).part = s.part := by
  unfold wrapEnd; dsimp only; split <;> simp
@[simp] theorem calls_wrapEnd (a : Nat) (b : Bool) : (s.wrapEnd a b).calls = s.calls := by
  unfold wrapEnd; dsimp only; split <;> simp
@[simp] theorem seniority_wrapEnd (a : Nat) (b : Bool) : (s.wrapEnd a b).seniority = s.seniority := by
  unfold wrapEnd; dsimp only; split <;> simp
@[simp] theorem deadlines_wrapEnd (a : Nat) (b : Bool) : (s.wrapEnd a b).deadlines = s.deadlines := by
  unfold wrapEnd; dsimp only; split <;> simp
@[simp] theorem playout_wrapEnd (a : Nat) (b : Bool) : (s.wrapEnd a b).playout = s.playout := by
  unfold wrapEnd; dsimp only; split <;> simp
@[simp] theorem feeds_wrapEnd (a : Nat) (b : Bool) : (s.wrapEnd a b).feeds = s.feeds := by
  unfold wrapEnd; dsimp only; split <;> simp
@[simp] theorem time_wrapEnd (a : Nat) (b : Bool) : (s.wrapEnd a b).time = s.time := by
  unfold wrapEnd; dsimp only; split <;> simp
@[simp] theorem tick_wrapEnd (a : Nat) (b : Bool) : (s.wrapEnd a b).tick = s.tick := by simp [tick]
@[simp] theorem call_wrapEnd (a : Nat) (b : Bool) (i : Nat) : (s.wrapEnd a b).call i = s.call i := by simp [State.call]
@[simp] theorem feed_wrapEnd (a : Nat) (b : Bool) (i : Nat) : (s.wrapEnd a b).feed i = s.feed i := by simp [State.feed]
@[simp] theorem context_wrapEnd (a : Nat) (b : Bool) (i : Nat) : (s.wrapEnd a b).context i = s.context i := by simp [State.context]
@[simp] theorem binding_wrapEnd (a : Nat) (b : Bool) (i : Nat) : (s.wrapEnd a b).binding i = s.binding i := by simp [State.binding]
@[simp] theorem segment_wrapEnd (a : Nat) (b : Bool) (i : Nat) : (s.wrapEnd a b).segment i = s.segment i := by simp [State.segment]
@[simp] theorem program_wrapEnd (a : Nat) (b : Bool) (i : Nat) : (s.wrapEnd a b).program i = s.program i := by simp [State.program]

/-! ### wrapEntry -/

@[simp] theorem pending_wrapEntry (a : Nat) (k : Tick) : (s.wrapEntry a k).pending = s.pending := by
  unfold wrapEntry; dsimp only; split <;> simp
@[simp] theorem freeIndex_wrapEntry (a : Nat) (k : Tick) : (s.wrapEntry a k).freeIndex = s.freeIndex := by
  unfold wrapEntry; dsimp only; split <;> simp
@[simp] theorem path_wrapEntry (a : Nat) (k : Tick) : (s.wrapEntry a k).path = s.path := by
  unfold wrapEntry; dsimp only; split <;> simp
@[simp] theorem staging_wrapEntry (a : Nat) (k : Tick) : (s.wrapEntry a k).staging = s.staging := by
  unfold wrapEntry; dsimp only; split <;> simp
@[simp] theorem intake_wrapEntry (a : Nat) (k : Tick) : (s.wrapEntry a k).intake = s.intake := by
  unfold wrapEntry; dsimp only; split <;> simp
@[simp] theorem part_wrapEntry (a : Nat) (k : Tick) : (s.wrapEntry a k).part = s.part := by
  unfold wrapEntry; dsimp only; split <;> simp
@[simp] theorem calls_wrapEntry (a : Nat) (k : Tick) : (s.wrapEntry a k).calls = s.calls := by
  unfold wrapEntry; dsimp only; split <;> simp
@[simp] theorem seniority_wrapEntry (a : Nat) (k : Tick) : (s.wrapEntry a k).seniority = s.seniority := by
  unfold wrapEntry; dsimp only; split <;> simp
@[simp] theorem deadlines_wrapEntry (a : Nat) (k : Tick) : (s.wrapEntry a k).deadlines = s.deadlines := by
  unfold wrapEntry; dsimp only; split <;> simp
@[simp] theorem playout_wrapEntry (a : Nat) (k : Tick) : (s.wrapEntry a k).playout = s.playout := by
  unfold wrapEntry; dsimp only; split <;> simp
@[simp] theorem feeds_wrapEntry (a : Nat) (k : Tick) : (s.wrapEntry a k).feeds = s.feeds := by
  unfold wrapEntry; dsimp only; split <;> simp
@[simp] theorem time_wrapEntry (a : Nat) (k : Tick) : (s.wrapEntry a k).time = s.time := by
  unfold wrapEntry; dsimp only; split <;> simp
@[simp] theorem tick_wrapEntry (a : Nat) (k : Tick) : (s.wrapEntry a k).tick = s.tick := by simp [tick]
@[simp] theorem call_wrapEntry (a : Nat) (k : Tick) (i : Nat) : (s.wrapEntry a k).call i = s.call i := by simp [State.call]
@[simp] theorem feed_wrapEntry (a : Nat) (k : Tick) (i : Nat) : (s.wrapEntry a k).feed i = s.feed i := by simp [State.feed]
@[simp] theorem context_wrapEntry (a : Nat) (k : Tick) (i : Nat) : (s.wrapEntry a k).context i = s.context i := by simp [State.context]
@[simp] theorem binding_wrapEntry (a : Nat) (k : Tick) (i : Nat) : (s.wrapEntry a k).binding i = s.binding i := by simp [State.binding]
@[simp] theorem segment_wrapEntry (a : Nat) (k : Tick) (i : Nat) : (s.wrapEntry a k).segment i = s.segment i := by simp [State.segment]
@[simp] theorem program_wrapEntry (a : Nat) (k : Tick) (i : Nat) : (s.wrapEntry a k).program i = s.program i := by simp [State.program]

/-! ### endAgentCall -/

@[simp] theorem pending_endAgentCall (c : Nat) : (s.endAgentCall c).pending = s.pending := by
  unfold endAgentCall; split <;> simp
@[simp] theorem freeIndex_endAgentCall (c : Nat) : (s.endAgentCall c).freeIndex = s.freeIndex := by
  unfold endAgentCall; split <;> simp
@[simp] theorem path_endAgentCall (c : Nat) : (s.endAgentCall c).path = s.path := by
  unfold endAgentCall; split <;> simp
@[simp] theorem staging_endAgentCall (c : Nat) : (s.endAgentCall c).staging = s.staging := by
  unfold endAgentCall; split <;> simp
@[simp] theorem intake_endAgentCall (c : Nat) : (s.endAgentCall c).intake = s.intake := by
  unfold endAgentCall; split <;> simp
@[simp] theorem part_endAgentCall (c : Nat) : (s.endAgentCall c).part = s.part := by
  unfold endAgentCall; split <;> simp
@[simp] theorem calls_endAgentCall (c : Nat) : (s.endAgentCall c).calls = s.calls := by
  unfold endAgentCall; split <;> simp
@[simp] theorem seniority_endAgentCall (c : Nat) : (s.endAgentCall c).seniority = s.seniority := by
  unfold endAgentCall; split <;> simp
@[simp] theorem deadlines_endAgentCall (c : Nat) : (s.endAgentCall c).deadlines = s.deadlines := by
  unfold endAgentCall; split <;> simp
@[simp] theorem playout_endAgentCall (c : Nat) : (s.endAgentCall c).playout = s.playout := by
  unfold endAgentCall; split <;> simp
@[simp] theorem feeds_endAgentCall (c : Nat) : (s.endAgentCall c).feeds = s.feeds := by
  unfold endAgentCall; split <;> simp
@[simp] theorem time_endAgentCall (c : Nat) : (s.endAgentCall c).time = s.time := by
  unfold endAgentCall; split <;> simp
@[simp] theorem tick_endAgentCall (c : Nat) : (s.endAgentCall c).tick = s.tick := by simp [tick]
@[simp] theorem call_endAgentCall (c : Nat) (i : Nat) : (s.endAgentCall c).call i = s.call i := by simp [State.call]
@[simp] theorem feed_endAgentCall (c : Nat) (i : Nat) : (s.endAgentCall c).feed i = s.feed i := by simp [State.feed]
@[simp] theorem context_endAgentCall (c : Nat) (i : Nat) : (s.endAgentCall c).context i = s.context i := by simp [State.context]
@[simp] theorem binding_endAgentCall (c : Nat) (i : Nat) : (s.endAgentCall c).binding i = s.binding i := by simp [State.binding]
@[simp] theorem segment_endAgentCall (c : Nat) (i : Nat) : (s.endAgentCall c).segment i = s.segment i := by simp [State.segment]
@[simp] theorem program_endAgentCall (c : Nat) (i : Nat) : (s.endAgentCall c).program i = s.program i := by simp [State.program]

/-! ### waitAgain -/

@[simp] theorem pending_waitAgain (c : Nat) : (s.waitAgain c).pending = s.pending := by
  unfold waitAgain; split <;> simp
@[simp] theorem freeIndex_waitAgain (c : Nat) : (s.waitAgain c).freeIndex = s.freeIndex := by
  unfold waitAgain; split <;> simp
@[simp] theorem path_waitAgain (c : Nat) : (s.waitAgain c).path = s.path := by
  unfold waitAgain; split <;> simp
@[simp] theorem staging_waitAgain (c : Nat) : (s.waitAgain c).staging = s.staging := by
  unfold waitAgain; split <;> simp
@[simp] theorem intake_waitAgain (c : Nat) : (s.waitAgain c).intake = s.intake := by
  unfold waitAgain; split <;> simp
@[simp] theorem part_waitAgain (c : Nat) : (s.waitAgain c).part = s.part := by
  unfold waitAgain; split <;> simp
@[simp] theorem calls_waitAgain (c : Nat) : (s.waitAgain c).calls = s.calls := by
  unfold waitAgain; split <;> simp
@[simp] theorem seniority_waitAgain (c : Nat) : (s.waitAgain c).seniority = s.seniority := by
  unfold waitAgain; split <;> simp
@[simp] theorem deadlines_waitAgain (c : Nat) : (s.waitAgain c).deadlines = s.deadlines := by
  unfold waitAgain; split <;> simp
@[simp] theorem samples_waitAgain (c : Nat) : (s.waitAgain c).samples = s.samples := by
  unfold waitAgain; split <;> simp
@[simp] theorem agents_waitAgain (c : Nat) : (s.waitAgain c).agents = s.agents := by
  unfold waitAgain; split <;> simp
@[simp] theorem engine_waitAgain (c : Nat) : (s.waitAgain c).engine = s.engine := by
  unfold waitAgain; split <;> simp
@[simp] theorem playout_waitAgain (c : Nat) : (s.waitAgain c).playout = s.playout := by
  unfold waitAgain; split <;> simp
@[simp] theorem feeds_waitAgain (c : Nat) : (s.waitAgain c).feeds = s.feeds := by
  unfold waitAgain; split <;> simp
@[simp] theorem time_waitAgain (c : Nat) : (s.waitAgain c).time = s.time := by
  unfold waitAgain; split <;> simp
@[simp] theorem events_waitAgain (c : Nat) : (s.waitAgain c).events = s.events := by
  unfold waitAgain; split <;> simp
@[simp] theorem tick_waitAgain (c : Nat) : (s.waitAgain c).tick = s.tick := by simp [tick]
@[simp] theorem call_waitAgain (c : Nat) (i : Nat) : (s.waitAgain c).call i = s.call i := by simp [State.call]
@[simp] theorem agent_waitAgain (c : Nat) (i : Nat) : (s.waitAgain c).agent i = s.agent i := by simp [State.agent]
@[simp] theorem feed_waitAgain (c : Nat) (i : Nat) : (s.waitAgain c).feed i = s.feed i := by simp [State.feed]
@[simp] theorem context_waitAgain (c : Nat) (i : Nat) : (s.waitAgain c).context i = s.context i := by simp [State.context]
@[simp] theorem binding_waitAgain (c : Nat) (i : Nat) : (s.waitAgain c).binding i = s.binding i := by simp [State.binding]
@[simp] theorem segment_waitAgain (c : Nat) (i : Nat) : (s.waitAgain c).segment i = s.segment i := by simp [State.segment]
@[simp] theorem program_waitAgain (c : Nat) (i : Nat) : (s.waitAgain c).program i = s.program i := by simp [State.program]

/-! ### restore -/

@[simp] theorem pending_restore (c : Nat) (k : OfferEnd) : (s.restore c k).pending = s.pending := by
  unfold restore; simp
@[simp] theorem freeIndex_restore (c : Nat) (k : OfferEnd) : (s.restore c k).freeIndex = s.freeIndex := by
  unfold restore; simp
@[simp] theorem path_restore (c : Nat) (k : OfferEnd) : (s.restore c k).path = s.path := by
  unfold restore; simp
@[simp] theorem staging_restore (c : Nat) (k : OfferEnd) : (s.restore c k).staging = s.staging := by
  unfold restore; simp
@[simp] theorem intake_restore (c : Nat) (k : OfferEnd) : (s.restore c k).intake = s.intake := by
  unfold restore; simp
@[simp] theorem part_restore (c : Nat) (k : OfferEnd) : (s.restore c k).part = s.part := by
  unfold restore; simp
@[simp] theorem seniority_restore (c : Nat) (k : OfferEnd) : (s.restore c k).seniority = s.seniority := by
  unfold restore; simp
@[simp] theorem samples_restore (c : Nat) (k : OfferEnd) : (s.restore c k).samples = s.samples := by
  unfold restore; simp
@[simp] theorem agents_restore (c : Nat) (k : OfferEnd) : (s.restore c k).agents = s.agents := by
  unfold restore; simp
@[simp] theorem playout_restore (c : Nat) (k : OfferEnd) : (s.restore c k).playout = s.playout := by
  unfold restore; simp
@[simp] theorem feeds_restore (c : Nat) (k : OfferEnd) : (s.restore c k).feeds = s.feeds := by
  unfold restore; simp
@[simp] theorem time_restore (c : Nat) (k : OfferEnd) : (s.restore c k).time = s.time := by
  unfold restore; simp
@[simp] theorem events_restore (c : Nat) (k : OfferEnd) : (s.restore c k).events = s.events := by
  unfold restore; simp
@[simp] theorem tick_restore (c : Nat) (k : OfferEnd) : (s.restore c k).tick = s.tick := by simp [tick]
@[simp] theorem agent_restore (c : Nat) (k : OfferEnd) (i : Nat) : (s.restore c k).agent i = s.agent i := by simp [State.agent]
@[simp] theorem feed_restore (c : Nat) (k : OfferEnd) (i : Nat) : (s.restore c k).feed i = s.feed i := by simp [State.feed]
@[simp] theorem context_restore (c : Nat) (k : OfferEnd) (i : Nat) : (s.restore c k).context i = s.context i := by simp [State.context]
@[simp] theorem binding_restore (c : Nat) (k : OfferEnd) (i : Nat) : (s.restore c k).binding i = s.binding i := by simp [State.binding]
@[simp] theorem segment_restore (c : Nat) (k : OfferEnd) (i : Nat) : (s.restore c k).segment i = s.segment i := by simp [State.segment]
@[simp] theorem program_restore (c : Nat) (k : OfferEnd) (i : Nat) : (s.restore c k).program i = s.program i := by simp [State.program]

/-! ### freeCall -/

@[simp] theorem pending_freeCall (c : Nat) : (s.freeCall c).pending = s.pending := by
  unfold freeCall; simp
@[simp] theorem freeIndex_freeCall (c : Nat) : (s.freeCall c).freeIndex = s.freeIndex := by
  unfold freeCall; simp
@[simp] theorem path_freeCall (c : Nat) : (s.freeCall c).path = s.path := by
  unfold freeCall; simp
@[simp] theorem staging_freeCall (c : Nat) : (s.freeCall c).staging = s.staging := by
  unfold freeCall; simp
@[simp] theorem intake_freeCall (c : Nat) : (s.freeCall c).intake = s.intake := by
  unfold freeCall; simp
@[simp] theorem part_freeCall (c : Nat) : (s.freeCall c).part = s.part := by
  unfold freeCall; simp
@[simp] theorem seniority_freeCall (c : Nat) : (s.freeCall c).seniority = s.seniority := by
  unfold freeCall; simp
@[simp] theorem queues_freeCall (c : Nat) : (s.freeCall c).queues = s.queues := by
  unfold freeCall; simp
@[simp] theorem samples_freeCall (c : Nat) : (s.freeCall c).samples = s.samples := by
  unfold freeCall; simp
@[simp] theorem agents_freeCall (c : Nat) : (s.freeCall c).agents = s.agents := by
  unfold freeCall; simp
@[simp] theorem engine_freeCall (c : Nat) : (s.freeCall c).engine = s.engine := by
  unfold freeCall; simp
@[simp] theorem playout_freeCall (c : Nat) : (s.freeCall c).playout = s.playout := by
  unfold freeCall; simp
@[simp] theorem feeds_freeCall (c : Nat) : (s.freeCall c).feeds = s.feeds := by
  unfold freeCall; simp
@[simp] theorem time_freeCall (c : Nat) : (s.freeCall c).time = s.time := by
  unfold freeCall; simp
@[simp] theorem events_freeCall (c : Nat) : (s.freeCall c).events = s.events := by
  unfold freeCall; simp
@[simp] theorem tick_freeCall (c : Nat) : (s.freeCall c).tick = s.tick := by simp [tick]
@[simp] theorem queue_freeCall (c : Nat) (i : Nat) : (s.freeCall c).queue i = s.queue i := by simp [State.queue]
@[simp] theorem agent_freeCall (c : Nat) (i : Nat) : (s.freeCall c).agent i = s.agent i := by simp [State.agent]
@[simp] theorem feed_freeCall (c : Nat) (i : Nat) : (s.freeCall c).feed i = s.feed i := by simp [State.feed]
@[simp] theorem context_freeCall (c : Nat) (i : Nat) : (s.freeCall c).context i = s.context i := by simp [State.context]
@[simp] theorem binding_freeCall (c : Nat) (i : Nat) : (s.freeCall c).binding i = s.binding i := by simp [State.binding]
@[simp] theorem segment_freeCall (c : Nat) (i : Nat) : (s.freeCall c).segment i = s.segment i := by simp [State.segment]
@[simp] theorem program_freeCall (c : Nat) (i : Nat) : (s.freeCall c).program i = s.program i := by simp [State.program]

/-! ### stopContext -/

@[simp] theorem pending_stopContext (k : Nat) : (s.stopContext k).pending = s.pending := rfl
@[simp] theorem freeIndex_stopContext (k : Nat) : (s.stopContext k).freeIndex = s.freeIndex := rfl
@[simp] theorem path_stopContext (k : Nat) : (s.stopContext k).path = s.path := rfl
@[simp] theorem staging_stopContext (k : Nat) : (s.stopContext k).staging = s.staging := rfl
@[simp] theorem intake_stopContext (k : Nat) : (s.stopContext k).intake = s.intake := rfl
@[simp] theorem part_stopContext (k : Nat) : (s.stopContext k).part = s.part := rfl
@[simp] theorem calls_stopContext (k : Nat) : (s.stopContext k).calls = s.calls := rfl
@[simp] theorem seniority_stopContext (k : Nat) : (s.stopContext k).seniority = s.seniority := rfl
@[simp] theorem deadlines_stopContext (k : Nat) : (s.stopContext k).deadlines = s.deadlines := rfl
@[simp] theorem queues_stopContext (k : Nat) : (s.stopContext k).queues = s.queues := rfl
@[simp] theorem samples_stopContext (k : Nat) : (s.stopContext k).samples = s.samples := rfl
@[simp] theorem agents_stopContext (k : Nat) : (s.stopContext k).agents = s.agents := rfl
@[simp] theorem engine_stopContext (k : Nat) : (s.stopContext k).engine = s.engine := rfl
@[simp] theorem feeds_stopContext (k : Nat) : (s.stopContext k).feeds = s.feeds := rfl
@[simp] theorem time_stopContext (k : Nat) : (s.stopContext k).time = s.time := rfl
@[simp] theorem events_stopContext (k : Nat) : (s.stopContext k).events = s.events := rfl
@[simp] theorem tick_stopContext (k : Nat) : (s.stopContext k).tick = s.tick := by simp [tick]
@[simp] theorem call_stopContext (k : Nat) (i : Nat) : (s.stopContext k).call i = s.call i := by simp [State.call]
@[simp] theorem queue_stopContext (k : Nat) (i : Nat) : (s.stopContext k).queue i = s.queue i := by simp [State.queue]
@[simp] theorem agent_stopContext (k : Nat) (i : Nat) : (s.stopContext k).agent i = s.agent i := by simp [State.agent]
@[simp] theorem feed_stopContext (k : Nat) (i : Nat) : (s.stopContext k).feed i = s.feed i := by simp [State.feed]

/-! ### stopCall -/

@[simp] theorem pending_stopCall (c : Nat) : (s.stopCall c).pending = s.pending := by
  unfold stopCall; split <;> simp
@[simp] theorem freeIndex_stopCall (c : Nat) : (s.stopCall c).freeIndex = s.freeIndex := by
  unfold stopCall; split <;> simp
@[simp] theorem path_stopCall (c : Nat) : (s.stopCall c).path = s.path := by
  unfold stopCall; split <;> simp
@[simp] theorem staging_stopCall (c : Nat) : (s.stopCall c).staging = s.staging := by
  unfold stopCall; split <;> simp
@[simp] theorem intake_stopCall (c : Nat) : (s.stopCall c).intake = s.intake := by
  unfold stopCall; split <;> simp
@[simp] theorem part_stopCall (c : Nat) : (s.stopCall c).part = s.part := by
  unfold stopCall; split <;> simp
@[simp] theorem seniority_stopCall (c : Nat) : (s.stopCall c).seniority = s.seniority := by
  unfold stopCall; split <;> simp
@[simp] theorem deadlines_stopCall (c : Nat) : (s.stopCall c).deadlines = s.deadlines := by
  unfold stopCall; split <;> simp
@[simp] theorem queues_stopCall (c : Nat) : (s.stopCall c).queues = s.queues := by
  unfold stopCall; split <;> simp
@[simp] theorem samples_stopCall (c : Nat) : (s.stopCall c).samples = s.samples := by
  unfold stopCall; split <;> simp
@[simp] theorem agents_stopCall (c : Nat) : (s.stopCall c).agents = s.agents := by
  unfold stopCall; split <;> simp
@[simp] theorem engine_stopCall (c : Nat) : (s.stopCall c).engine = s.engine := by
  unfold stopCall; split <;> simp
@[simp] theorem feeds_stopCall (c : Nat) : (s.stopCall c).feeds = s.feeds := by
  unfold stopCall; split <;> simp
@[simp] theorem time_stopCall (c : Nat) : (s.stopCall c).time = s.time := by
  unfold stopCall; split <;> simp
@[simp] theorem events_stopCall (c : Nat) : (s.stopCall c).events = s.events := by
  unfold stopCall; split <;> simp
@[simp] theorem tick_stopCall (c : Nat) : (s.stopCall c).tick = s.tick := by simp [tick]
@[simp] theorem queue_stopCall (c : Nat) (i : Nat) : (s.stopCall c).queue i = s.queue i := by simp [State.queue]
@[simp] theorem agent_stopCall (c : Nat) (i : Nat) : (s.stopCall c).agent i = s.agent i := by simp [State.agent]
@[simp] theorem feed_stopCall (c : Nat) (i : Nat) : (s.stopCall c).feed i = s.feed i := by simp [State.feed]
/-! ### What changed -/

/-- The agent at a wrap-up end (R91). -/
@[simp] theorem agent_wrapEnd (a : Nat) (byReady : Bool) (b : Nat) : (s.wrapEnd a byReady).agent b =
    if b = a then
      { s.agent a with
        state := (s.agent a).flags.wrapEndState byReady, stateEntry := s.tick, wrapRemaining := 0, heldAnswer := 0
        flags := (s.agent a).flags.clearPending }
    else s.agent b := by
  unfold wrapEnd
  dsimp only
  split <;> by_cases h : b = a <;> simp [h]

theorem queue_wrapEnd (a : Nat) (byReady : Bool) (hd : duplicateSkill (s.agent a).skills = false) (q : Nat) :
    (s.wrapEnd a byReady).queue q =
      if (s.agent a).names q then (s.queue q).recount (s.agent a).state ((s.agent a).flags.wrapEndState byReady)
      else s.queue q := by
  unfold wrapEnd
  dsimp only
  split
  all_goals
    simp only [queue_post, queue_handSample, queue_addTrigger]
    rw [queue_moveAgent]
    · simp [Agent.names]
    · simpa using hd

theorem workList_wrapEnd (a : Nat) (byReady : Bool) : (s.wrapEnd a byReady).engine.workList =
    if (s.agent a).flags.wrapEndState byReady = .available then withTrigger s.engine.workList (.agent a)
    else s.engine.workList := by
  unfold wrapEnd withTrigger
  dsimp only
  split <;> simp
@[simp] theorem proposal_wrapEnd (a : Nat) (byReady : Bool) :
    (s.wrapEnd a byReady).engine.proposal = s.engine.proposal := by
  unfold wrapEnd; dsimp only; split <;> simp
@[simp] theorem reserved_wrapEnd (a : Nat) (byReady : Bool) :
    (s.wrapEnd a byReady).engine.reserved = s.engine.reserved := by
  unfold wrapEnd; dsimp only; split <;> simp

theorem samples_wrapEnd (a : Nat) (byReady : Bool) (q : Nat) (hq : (s.agent a).lastQueue = some q) :
    (s.wrapEnd a byReady).samples =
      s.samples ++ [{ queue := q, ticks := handleSample s.tick (s.agent a).heldAnswer }] := by
  unfold wrapEnd
  simp only [hq, samples_post, samples_handSample]
  split <;> simp

theorem events_wrapEnd (a : Nat) (byReady : Bool) : (s.wrapEnd a byReady).events =
    (s.post .agent .wrapEnd none (some a) (s.agent a).lastQueue
      (handleSample s.tick (s.agent a).heldAnswer)).events := by
  unfold wrapEnd
  dsimp only
  split <;> exact events_post_congr (by simp) (by simp) (by simp) (by simp) ..

@[simp] theorem frame_wrapEnd {cs : List Component} {t : State} (h : Changes cs s t) (a : Nat) (byReady : Bool)
    (h1 : .agents ∈ cs) (h2 : .queues ∈ cs) (h3 : .workList ∈ cs) (h4 : .samples ∈ cs) (p1 : .dispatch ∈ cs) (p2 : .notices ∈ cs) (p3 : .sequence ∈ cs)
    (p4 : .summaries ∈ cs) (p5 : .lost ∈ cs) :
    Changes cs s (t.wrapEnd a byReady) := by
  unfold wrapEnd
  dsimp only
  refine frame_post ?_ _ _ _ _ _ _ p1 p2 p3 p4 p5
  split <;> simp (maxDischargeDepth := 40) [h, h1, h2, h3, h4]

/-- The agent at a wrap-up entry of length 1 and above (R85). -/
theorem wrapEntry_running (a : Nat) (k : Tick) (h : s.wrapLength a ≠ 0) : s.wrapEntry a k =
    (s.setAgent a { s.agent a with currentCall := none, heldAnswer := k, wrapRemaining := s.wrapLength a }).moveAgent a
      .wrapUp := by
  unfold wrapEntry; simp [h]

/-- A wrap-up entry of length 0 ends at once (R85). -/
theorem wrapEntry_none (a : Nat) (k : Tick) (h : s.wrapLength a = 0) : s.wrapEntry a k =
    (s.setAgent a { s.agent a with currentCall := none, heldAnswer := k, wrapRemaining := 0 }).wrapEnd a false := by
  unfold wrapEntry; simp [h]

@[simp] theorem frame_wrapEntry {cs : List Component} {t : State} (h : Changes cs s t) (a : Nat) (k : Tick)
    (h1 : .agents ∈ cs) (h2 : .queues ∈ cs) (h3 : .workList ∈ cs) (h4 : .samples ∈ cs) (p1 : .dispatch ∈ cs) (p2 : .notices ∈ cs) (p3 : .sequence ∈ cs)
    (p4 : .summaries ∈ cs) (p5 : .lost ∈ cs) :
    Changes cs s (t.wrapEntry a k) := by
  unfold wrapEntry
  dsimp only
  split
  · exact frame_wrapEnd _ (frame_setAgent h a _ h1) a false h1 h2 h3 h4 p1 p2 p3 p4 p5
  · simp (maxDischargeDepth := 40) [h, h1, h2]

/-- A dormant due tick armed again (R22). -/
theorem rearm_eq (now : Tick) (due : Option Tick) :
    rearm now due = due.map fun d => if (now - d).toNat < 2 ^ 31 then now + 1 else d := by
  unfold rearm reached; simp only [decide_eq_true_eq]

/-- A call restored by keys (R22, R77). -/
@[simp] theorem call_restore (c : Nat) (k : OfferEnd) (d : Nat) : (s.restore c k).call d =
    if d = c then
      { s.call c with
        state := .queued, agent := none, lastEnd := k, offerExpiry := none
        overflowDue := rearm s.tick (s.call c).overflowDue, maxWaitDue := rearm s.tick (s.call c).maxWaitDue }
    else s.call d := by
  unfold restore waitAgain
  dsimp only
  simp only [call_addTrigger, call_refreshDeadline, call_setCall, if_true]
  split <;> simp

theorem queue_restore (c : Nat) (k : OfferEnd) (q r : Nat) (hq : (s.call c).currentQueue = some q) :
    (s.restore c k).queue r =
      { s.queue r with waiting := if r = q then s.insertByKeys c (s.queue q).waiting else (s.queue r).waiting } := by
  unfold restore waitAgain
  dsimp only
  simp only [queue_addTrigger, queue_refreshDeadline, call_setCall, if_true, hq, queue_enterWaiting, queue_setCall]
  rw [insertByKeys_congr (s := s)]
  · split <;> simp_all
  · intro d; simp only [call_setCall]; split <;> simp_all

theorem workList_restore (c : Nat) (k : OfferEnd) :
    (s.restore c k).engine.workList = withTrigger s.engine.workList (.call c) := by
  unfold restore waitAgain withTrigger
  dsimp only
  split <;> simp
@[simp] theorem proposal_restore (c : Nat) (k : OfferEnd) : (s.restore c k).engine.proposal = s.engine.proposal := by
  unfold restore waitAgain; dsimp only; split <;> simp
@[simp] theorem reserved_restore (c : Nat) (k : OfferEnd) : (s.restore c k).engine.reserved = s.engine.reserved := by
  unfold restore waitAgain; dsimp only; split <;> simp

theorem entryFollows_addTrigger {c : Nat} {s t : State} (h : EntryFollows c s t) (g : Trigger) :
    EntryFollows c s (t.addTrigger g) := by
  obtain ⟨h1, h2⟩ := h
  have hd : (t.addTrigger g).deadlineOf c = t.deadlineOf c := deadlineOf_congr (by simp) (by simp)
  refine ⟨?_, by rw [hd]; simpa using h2⟩
  rw [hd, ← h1]
  simp [shownDeadline]

theorem entryFollows_refreshDeadline {c : Nat} {s t : State} (h : t.deadlines = s.deadlines) :
    EntryFollows c s (t.refreshDeadline c) := by
  refine ⟨by rw [shownDeadline_refreshDeadline, deadlineOf_refreshDeadline], ?_⟩
  rw [deadlineOf_refreshDeadline]
  unfold refreshDeadline shownDeadline
  rw [h]
  split
  · exact h
  · rfl

/-- An entry that follows its slots is left as it is. -/
theorem entryFollows_again {c : Nat} {s t : State} (h : EntryFollows c s t) : EntryFollows c s (t.refreshDeadline c) := by
  have : t.refreshDeadline c = t := by unfold refreshDeadline; exact if_pos h.1
  rw [this]; exact h

/-- What follows a due entry's taking, from the list without it (R24). -/
theorem entryReinserted_of {c : Nat} {s t : State} (h : EntryFollows c (s.dropDeadline c) t) : EntryReinserted c s t := by
  obtain ⟨h1, h2⟩ := h
  refine ⟨h1, ?_⟩
  rw [h2]
  have hn : (s.dropDeadline c).shownDeadline c = none := by simp [shownDeadline, dropDeadline]
  have hf : ((s.dropDeadline c).deadlines.filter fun d => d.call != c) = s.deadlines.filter fun d => d.call != c := by
    simp [dropDeadline]
  rw [hn, hf]
  split
  · rename_i h; rw [← h]; simp [dropDeadline]
  · rfl

/-- What a deadline entry shows depends on the list, the call's armed slots and the tick. -/
theorem entryFollows_congr {c : Nat} {s t u : State} (h : EntryFollows c s t) (hd : u.deadlines = t.deadlines)
    (hc : (u.call c).armed = (t.call c).armed) (ht : u.tick = t.tick) : EntryFollows c s u := by
  obtain ⟨h1, h2⟩ := h
  refine ⟨?_, by rw [hd, h2, deadlineOf_congr hc ht]⟩
  rw [deadlineOf_congr hc ht, ← h1]
  unfold shownDeadline
  rw [hd]

/-- What a deadline entry follows depends on the list it starts from. -/
theorem entryFollows_from {c : Nat} {s r t : State} (h : EntryFollows c s t) (hd : s.deadlines = r.deadlines) :
    EntryFollows c r t := by
  refine ⟨h.1, ?_⟩
  rw [h.2, hd, show s.shownDeadline c = r.shownDeadline c by unfold shownDeadline; rw [hd]]

theorem entryFollows_restore (c : Nat) (k : OfferEnd) : EntryFollows c s (s.restore c k) := by
  unfold restore
  dsimp only
  exact entryFollows_addTrigger (entryFollows_refreshDeadline (by simp)) _

@[simp] theorem frame_restore {cs : List Component} {t : State} (h : Changes cs s t) (c : Nat) (k : OfferEnd)
    (h1 : .calls ∈ cs) (h2 : .queues ∈ cs) (h3 : .deadlines ∈ cs) (h4 : .workList ∈ cs) :
    Changes cs s (t.restore c k) := by
  unfold restore waitAgain
  dsimp only
  split <;> simp (maxDischargeDepth := 40) [h, h1, h2, h3, h4]

@[simp] theorem call_freeCall (c d : Nat) : (s.freeCall c).call d =
    if d = c then
      { s.call c with
        state := .free, agent := none, currentQueue := none, offerExpiry := none, overflowDue := none, maxWaitDue := none }
    else s.call d := by
  unfold freeCall Call.clearSlots; simp

@[simp] theorem deadlines_freeCall (c : Nat) :
    (s.freeCall c).deadlines = s.deadlines.filter fun d => d.call != c := by
  unfold freeCall
  rw [deadlines_refreshDeadline_unarmed]
  · simp
  · simp [Call.armed]

theorem entryFollows_freeCall {c : Nat} {s t : State} (h : t.deadlines = s.deadlines) : EntryFollows c s (t.freeCall c) :=
  entryFollows_refreshDeadline (by simpa using h)

@[simp] theorem frame_freeCall {cs : List Component} {t : State} (h : Changes cs s t) (c : Nat) (h1 : .calls ∈ cs)
    (h2 : .deadlines ∈ cs) : Changes cs s (t.freeCall c) := by
  unfold freeCall
  simp (maxDischargeDepth := 40) [h, h1, h2]

/-- A stopped call has no context and is otherwise as it was (R12). -/
@[simp] theorem call_stopCall (c d : Nat) :
    (s.stopCall c).call d = if d = c then { s.call c with context := none } else s.call d := by
  unfold stopCall
  split
  · next h => by_cases hd : d = c <;> simp [hd, ← h]
  · simp [stopContext]

theorem context_stopContext (k j : Nat) :
    (s.stopContext k).context j = if j = k then (s.context k).stopped else s.context j := by
  simp [stopContext]
theorem binding_stopContext (k b : Nat) :
    (s.stopContext k).binding b = if b = (s.context k).channel then none else s.binding b := by
  simp [stopContext]

/-- A stop leaves every other context and every other channel's binding (R112). -/
theorem context_stopCall (c k j : Nat) (h : (s.call c).context = some k) :
    (s.stopCall c).context j = if j = k then (s.context k).stopped else s.context j := by
  unfold stopCall; simp [h, context_stopContext]
theorem binding_stopCall (c k b : Nat) (h : (s.call c).context = some k) :
    (s.stopCall c).binding b = if b = (s.context k).channel then none else s.binding b := by
  unfold stopCall; simp [h, binding_stopContext]

@[simp] theorem frame_stopCall {cs : List Component} {t : State} (h : Changes cs s t) (c : Nat) (h1 : .calls ∈ cs)
    (h2 : .contexts ∈ cs) (h3 : .bindings ∈ cs) : Changes cs s (t.stopCall c) := by
  unfold stopCall stopContext
  split <;> simp (maxDischargeDepth := 40) [h, h1, h2, h3]

/-- A state that has the contexts and bindings of one in which a call was stopped has that call's context stopped. -/
theorem contextStopped_of (s u t : State) (c : Nat) (hx : (u.call c).context = (s.call c).context)
    (hk : ∀ k, u.context k = s.context k) (hb : ∀ b, u.binding b = s.binding b)
    (ht : ∀ k, t.context k = (u.stopCall c).context k) (htb : ∀ b, t.binding b = (u.stopCall c).binding b) :
    ContextStopped c s t := by
  unfold ContextStopped
  cases h : (s.call c).context with
  | none =>
    have h' := hx.trans h
    have : u.stopCall c = u := by unfold stopCall; simp [h']
    rw [this] at ht htb
    exact ⟨fun k => (ht k).trans (hk k), fun b => (htb b).trans (hb b)⟩
  | some k =>
    have h' := hx.trans h
    refine ⟨?_, ?_, ?_⟩
    · rw [ht, context_stopCall _ _ _ _ h', if_pos rfl, hk]; rfl
    · intro j hj; rw [ht, context_stopCall _ _ _ _ h', if_neg hj, hk]
    · intro b; rw [htb, binding_stopCall _ _ _ _ h', hk, hb]

end State

end Sys2Proof.Machine
end

