-- ==== Sys2Proof/Laws/Entry.lean ====
section
/-! SUPPORT. The entry of a call into a queue (02 R37 to R40, 01 R8, R19), and a playout request that asks for nothing
(R11). -/

namespace Sys2Proof.Machine

namespace State

variable (s : State)

/-! ### The chain of entry checks -/

/-- A queue whose mode makes no entry check, or without a target, passes no call on (R39). -/
theorem passesOn_unchecked (q : Nat) (x : Call)
    (h : (s.queue q).settings.mode = .none ∨ (s.queue q).settings.mode = .time ∨ (s.queue q).settings.target = 255) :
    s.passesOn q x = false := by
  unfold passesOn
  rcases h with h | h | h <;> simp [h]

/-- The entry check, from a state `u` that agrees with `s` on what it reads (R39). -/
theorem passesOn_iff {u : State} (q c : Nat) (x : Call) (hq : u.queue q = { s.queue q with
      staffed := (u.queue q).staffed, available := (u.queue q).available })
    (ht : (u.queue (s.queue q).settings.target).state = (s.queue (s.queue q).settings.target).state ∧
      (u.queue (s.queue q).settings.target).occupancy = (s.queue (s.queue q).settings.target).occupancy ∧
      (u.queue (s.queue q).settings.target).settings = (s.queue (s.queue q).settings.target).settings)
    (hc : ∀ d, d ≠ c → u.call d = s.call d) (hx : x.seniority = s.seniority) :
    (PassesOn s q c x.priority (u.queue q).staffed → u.passesOn q x = true) ∧
      (KeepsEntering s q c x.priority (u.queue q).staffed → u.passesOn q x = false) := by
  have wait (hn : c ∉ (s.queue q).waiting) :
      u.callWait q (u.entryPosition q x) = s.entryWait q x.priority (u.queue q).staffed := by
    unfold callWait entryWait expectedWait entryPosition
    have : ((u.queue q).waiting.filter fun d => (u.call d).ahead x) =
        (s.queue q).waiting.filter fun d => decide (x.priority < (s.call d).priority) ||
          ((s.call d).priority == x.priority && decide ((s.call d).seniority.toNat < s.seniority.toNat)) := by
      rw [show (u.queue q).waiting = (s.queue q).waiting by rw [hq]]
      apply List.filter_congr
      intro d hd
      have hne : d ≠ c := fun hh => hn (hh ▸ hd)
      simp [Call.ahead, hc d hne, hx]
    simp only [this, show (u.queue q).handle = (s.queue q).handle by rw [hq], Config.maxTicks]
  have hset : (u.queue q).settings = (s.queue q).settings := by rw [hq]
  obtain ⟨t1, t2, t3⟩ := ht
  unfold passesOn PassesOn KeepsEntering
  simp only [hset, Queue.takesOverflow, t1, t2, t3]
  refine ⟨fun ⟨h1, h2, h3, h4, h5, h6⟩ => ?_, fun h => ?_⟩
  · rw [wait h3]
    rcases h1 with h1 | h1 <;> simp [h1, h2, h4, h5, h6]
  · rcases h with h | h | h | ⟨h1, h2⟩ | h | h
    · simp [h]
    · simp [h]
    · simp [h]
    · rw [wait h1]; simp [show ¬ _ < _ from Nat.not_lt.mpr h2]
    · simp [h]
    · simp [show ¬ _ < _ from Nat.not_lt.mpr h]

theorem entryChain_lands (x : Call) (n q hops : Nat) (h : s.passesOn q x = false) :
    s.entryChain x n q hops = (q, hops, s) := by
  cases n with
  | zero => rfl
  | succ n => unfold entryChain; simp [h]

theorem entryChain_passes (x : Call) (n q hops : Nat) (h : s.passesOn q x = true) :
    s.entryChain x (n + 1) q hops =
      (s.setQueue q (s.queue q).passedThrough).entryChain x n (s.queue q).settings.target (hops + 1) := by
  conv => lhs; unfold entryChain
  simp [h]

/-- A chain changes nothing but queues. -/
theorem entryChain_eq (x : Call) (n q hops : Nat) :
    (s.entryChain x n q hops).2.2 = { s with queues := (s.entryChain x n q hops).2.2.queues } := by
  induction n generalizing s q hops with
  | zero => rfl
  | succ n ih =>
    unfold entryChain
    split
    · rw [ih]; rfl
    · rfl

theorem pass_balance (a b : BitVec 32) : a + 1 - (b + 1) = a - b := by
  apply BitVec.eq_of_toNat_eq
  simp only [BitVec.toNat_sub, BitVec.toNat_add]
  omega

/-- What a chain leaves of a queue: its hops bound, and every queue's balance (R40). -/
theorem entryChain_keeps (x : Call) (n q hops : Nat) (r : Nat) :
    (s.entryChain x n q hops).2.1 ≤ hops + n ∧
      ((s.entryChain x n q hops).2.2.queue r).occupancy = (s.queue r).occupancy ∧
      ((s.entryChain x n q hops).2.2.queue r).entered - ((s.entryChain x n q hops).2.2.queue r).overflowedOut =
        (s.queue r).entered - (s.queue r).overflowedOut ∧
      ((s.entryChain x n q hops).2.2.queue r).answered = (s.queue r).answered ∧
      ((s.entryChain x n q hops).2.2.queue r).abandoned = (s.queue r).abandoned ∧
      ((s.entryChain x n q hops).2.2.queue r).waiting = (s.queue r).waiting := by
  induction n generalizing s q hops with
  | zero => exact ⟨Nat.le_refl _, rfl, rfl, rfl, rfl, rfl⟩
  | succ n ih =>
    unfold entryChain
    split
    · obtain ⟨h1, h2, h3, h4, h5, h6⟩ := ih (s.setQueue q (s.queue q).passedThrough) (s.queue q).settings.target (hops + 1)
      refine ⟨by omega, h2.trans ?_, h3.trans ?_, h4.trans ?_, h5.trans ?_, h6.trans ?_⟩ <;>
        by_cases h : r = q <;> simp [h, Queue.passedThrough] <;>
        exact pass_balance _ _
    · exact ⟨Nat.le_add_right .., rfl, rfl, rfl, rfl, rfl⟩

/-! ### Landing -/

/-- The call as it asks for entry: its number and its entry ticks taken (R9, R10). -/
def entering (c : Nat) : Call :=
  { s.call c with seniority := s.seniority, firstEntry := s.tick, queueEntry := s.tick }

/-- The chain an entry runs. -/
def entryOf (c q : Nat) : Nat × Nat × State := s.takeSeniority.entryChain (s.entering c) Config.maxHops q 0

theorem enterQueue_eq (c q : Nat) : s.enterQueue c q =
    ((((((s.entryOf c q).2.2.setQueue (s.entryOf c q).1 ((s.entryOf c q).2.2.queue (s.entryOf c q).1).landed).setCall c
      (({ s.entering c with
          state := .queued, currentQueue := some (s.entryOf c q).1, hops := (s.entryOf c q).2.1 } : Call).enterSlots
        (((s.entryOf c q).2.2.setQueue (s.entryOf c q).1
          ((s.entryOf c q).2.2.queue (s.entryOf c q).1).landed).queue (s.entryOf c q).1).settings)).enterWaiting
        (s.entryOf c q).1 c).refreshDeadline c).addTrigger (.call c)) := rfl

theorem entryOf_eq (c q : Nat) : (s.entryOf c q).2.2 =
    { s.takeSeniority with queues := (s.entryOf c q).2.2.queues } := entryChain_eq ..

theorem entryOf_lands (c q : Nat) (h : s.takeSeniority.passesOn q (s.entering c) = false) :
    s.entryOf c q = (q, 0, s.takeSeniority) := entryChain_lands _ _ _ _ _ h

@[simp] theorem call_enterQueue (c q d : Nat) : (s.enterQueue c q).call d =
    if d = c then
      ({ s.entering c with
          state := .queued, currentQueue := some (s.entryOf c q).1, hops := (s.entryOf c q).2.1 } : Call).enterSlots
        ((s.entryOf c q).2.2.queue (s.entryOf c q).1).settings
    else s.call d := by
  rw [enterQueue_eq]
  simp only [call_addTrigger, call_refreshDeadline, call_enterWaiting, call_setCall, queue_setQueue, if_true]
  split
  · rfl
  · rw [call_setQueue, entryOf_eq]; rfl

@[simp] theorem queue_enterQueue (c q r : Nat) : (s.enterQueue c q).queue r =
    if r = (s.entryOf c q).1 then
      { ((s.entryOf c q).2.2.queue r).landed with
        waiting := (s.enterQueue c q).insertByKeys c ((s.entryOf c q).2.2.queue r).waiting }
    else (s.entryOf c q).2.2.queue r := by
  rw [insertByKeys_congr (s := (((s.entryOf c q).2.2.setQueue (s.entryOf c q).1
      ((s.entryOf c q).2.2.queue (s.entryOf c q).1).landed).setCall c
      (({ s.entering c with
          state := .queued, currentQueue := some (s.entryOf c q).1, hops := (s.entryOf c q).2.1 } : Call).enterSlots
        (((s.entryOf c q).2.2.setQueue (s.entryOf c q).1
          ((s.entryOf c q).2.2.queue (s.entryOf c q).1).landed).queue (s.entryOf c q).1).settings)))]
  · rw [enterQueue_eq]
    simp only [queue_addTrigger, queue_refreshDeadline, queue_enterWaiting, queue_setCall, queue_setQueue, if_true]
    by_cases h : r = (s.entryOf c q).1
    · subst h; simp [Queue.landed]
    · simp [h]
  · intro d
    rw [enterQueue_eq]
    simp only [call_addTrigger, call_refreshDeadline, call_enterWaiting]
    exact ⟨trivial, trivial⟩

@[simp] theorem agent_enterQueue (c q i : Nat) : (s.enterQueue c q).agent i = s.agent i := by
  rw [enterQueue_eq]; simp only [agent_addTrigger, agent_refreshDeadline, agent_enterWaiting, agent_setCall, agent_setQueue]
  rw [entryOf_eq]; rfl
@[simp] theorem context_enterQueue (c q i : Nat) : (s.enterQueue c q).context i = s.context i := by
  rw [enterQueue_eq]
  simp only [context_addTrigger, context_refreshDeadline, context_enterWaiting, context_setCall, context_setQueue]
  rw [entryOf_eq]; rfl
@[simp] theorem binding_enterQueue (c q i : Nat) : (s.enterQueue c q).binding i = s.binding i := by
  rw [enterQueue_eq]
  simp only [binding_addTrigger, binding_refreshDeadline, binding_enterWaiting, binding_setCall, binding_setQueue]
  rw [entryOf_eq]; rfl
@[simp] theorem seniority_enterQueue (c q : Nat) : (s.enterQueue c q).seniority = s.seniority + 1 := by
  rw [enterQueue_eq]
  simp only [seniority_addTrigger, seniority_refreshDeadline, seniority_enterWaiting, seniority_setCall, seniority_setQueue]
  rw [entryOf_eq]; rfl
@[simp] theorem intake_enterQueue (c q : Nat) : (s.enterQueue c q).intake = s.intake := by
  rw [enterQueue_eq]
  simp only [intake_addTrigger, intake_refreshDeadline, intake_enterWaiting, intake_setCall, intake_setQueue]
  rw [entryOf_eq]; rfl
@[simp] theorem time_enterQueue (c q : Nat) : (s.enterQueue c q).time = s.time := by
  rw [enterQueue_eq]
  simp only [time_addTrigger, time_refreshDeadline, time_enterWaiting, time_setCall, time_setQueue]
  rw [entryOf_eq]; rfl
@[simp] theorem tick_enterQueue (c q : Nat) : (s.enterQueue c q).tick = s.tick := by simp [tick]
@[simp] theorem part_enterQueue (c q : Nat) : (s.enterQueue c q).part = s.part := by
  rw [enterQueue_eq]
  simp only [part_addTrigger, part_refreshDeadline, part_enterWaiting, part_setCall, part_setQueue]
  rw [entryOf_eq]; rfl
@[simp] theorem events_enterQueue (c q : Nat) : (s.enterQueue c q).events = s.events := by
  rw [enterQueue_eq]
  simp only [events_addTrigger, events_refreshDeadline, events_enterWaiting, events_setCall, events_setQueue]
  rw [entryOf_eq]; rfl
@[simp] theorem playout_enterQueue (c q : Nat) : (s.enterQueue c q).playout = s.playout := by
  rw [enterQueue_eq]
  simp only [playout_addTrigger, playout_refreshDeadline, playout_enterWaiting, playout_setCall, playout_setQueue]
  rw [entryOf_eq]; rfl
@[simp] theorem samples_enterQueue (c q : Nat) : (s.enterQueue c q).samples = s.samples := by
  rw [enterQueue_eq]
  simp only [samples_addTrigger, samples_refreshDeadline, samples_enterWaiting, samples_setCall, samples_setQueue]
  rw [entryOf_eq]; rfl
@[simp] theorem feeds_enterQueue (c q : Nat) : (s.enterQueue c q).feeds = s.feeds := by
  rw [enterQueue_eq]
  simp only [feeds_addTrigger, feeds_refreshDeadline, feeds_enterWaiting, feeds_setCall, feeds_setQueue]
  rw [entryOf_eq]; rfl
@[simp] theorem workList_enterQueue (c q : Nat) :
    (s.enterQueue c q).engine.workList = withTrigger s.engine.workList (.call c) := by
  rw [enterQueue_eq]
  simp only [workList_addTrigger, engine_refreshDeadline, engine_enterWaiting, engine_setCall, engine_setQueue]
  rw [entryOf_eq]; rfl

theorem entryFollows_enterQueue (c q : Nat) : EntryFollows c s (s.enterQueue c q) := by
  rw [enterQueue_eq]
  refine entryFollows_addTrigger (entryFollows_refreshDeadline ?_) _
  simp only [deadlines_enterWaiting, deadlines_setCall, deadlines_setQueue]
  rw [entryOf_eq]; rfl

@[simp] theorem frame_enterQueue {cs : List Component} {s t : State} (h : Changes cs s t) (c q : Nat) (h1 : .calls ∈ cs)
    (h2 : .queues ∈ cs) (h3 : .seniority ∈ cs) (h4 : .deadlines ∈ cs) (h5 : .workList ∈ cs) :
    Changes cs s (t.enterQueue c q) := by
  have hq : Changes cs s (t.entryOf c q).2.2 := by
    rw [entryOf_eq]
    exact (frame_takeSeniority h h3).into (ds := [.queues])
      ⟨fun k hk => by cases k <;> simp_all [Component.agree]⟩ (by simpa using h2)
  rw [enterQueue_eq]
  simp (maxDischargeDepth := 40) [hq, h1, h2, h4, h5]

/-! ### A playout request that is not made -/

/-- No context is asked for when the resolved program is none or the channel is 0xFFFF (R11). -/
theorem askPlayout_none (c own queues : Nat)
    (h : (if own = 255 then queues else own) ≥ 64 ∨ (s.call c).channel = 0xFFFF) :
    s.askPlayout c own queues = (.okNoPlayout, s) := by
  unfold askPlayout Config.numPrograms
  simp only
  rw [if_neg]
  rintro ⟨h1, h2⟩
  rcases h with h | h
  · omega
  · exact h2 h

/-- A playout request touches no queue, and of the calls only its own call's context field (R11, R110). -/
theorem startContext_keeps (c ch p : Nat) :
    (∀ q, (s.startContext c ch p).2.queue q = s.queue q) ∧
      (s.startContext c ch p).2.call c = { s.call c with context := ((s.startContext c ch p).2.call c).context } ∧
      ∀ d, d ≠ c → (s.startContext c ch p).2.call d = s.call d := by
  unfold startContext
  split
  · exact ⟨fun _ => rfl, rfl, fun _ _ => rfl⟩
  · split
    · exact ⟨fun _ => rfl, rfl, fun _ _ => rfl⟩
    · cases s.freeContext with
      | none => exact ⟨fun _ => rfl, rfl, fun _ _ => rfl⟩
      | some k =>
        refine ⟨fun q => by simp, ?_, fun d hd => ?_⟩
        · simp only
          rw [(controlled_control (c := c) _ _ (by simp [Context.started]) rfl).itsCall]
          simp
        · simp only
          rw [(controlled_control (c := c) _ _ (by simp [Context.started]) rfl).calls d hd]
          simp [hd]

theorem askPlayout_keeps (c own queues : Nat) :
    ((s.askPlayout c own queues).1 = .ok ∨ (s.askPlayout c own queues).1 = .okNoPlayout) ∧
      (∀ q, (s.askPlayout c own queues).2.queue q = s.queue q) ∧
      (s.askPlayout c own queues).2.call c =
        { s.call c with context := ((s.askPlayout c own queues).2.call c).context } ∧
      ∀ d, d ≠ c → (s.askPlayout c own queues).2.call d = s.call d := by
  unfold askPlayout
  simp only
  generalize (if own = 255 then queues else own) = p
  split
  · refine ⟨?_, startContext_keeps ..⟩
    simp only
    split
    · exact .inl rfl
    · exact .inr rfl
  · exact ⟨.inr rfl, fun _ => rfl, rfl, fun _ _ => rfl⟩

/-- The lowest-numbered FREE context is the one a start takes (R110). -/
theorem freeContext_of (k : Nat) (hk : k < 512) (hf : (s.context k).state = .free)
    (hl : ∀ j < k, (s.context j).state ≠ .free) : s.freeContext = some k := by
  unfold freeContext
  rw [List.find?_range_eq_some]
  exact ⟨by simp [hf], by simpa [Config.numContexts] using hk, fun j hj => by simpa using hl j hj⟩

theorem freeContext_none (h : ∀ k < 512, (s.context k).state ≠ .free) : s.freeContext = none := by
  unfold freeContext
  rw [List.find?_eq_none]
  intro k hk
  simpa using h k (by simpa [Config.numContexts] using hk)

/-- A playout request does what R11 and R110 say. -/
theorem playoutAsked (c own queues p : Nat) (hp : (if own = 255 then queues else own) = p) :
    PlayoutAsked s (s.askPlayout c own queues).2 c p (s.call c).channel (s.askPlayout c own queues).1 := by
  have start : ∀ k < 512, p < 64 → (s.call c).channel < 2048 → s.binding (s.call c).channel = none →
      (s.context k).state = .free → (∀ j < k, (s.context j).state ≠ .free) →
      ∃ v mark, s.askPlayout c own queues = (.ok, v.control k (.begin 0)) ∧
        v = ((s.setContext k (Context.started c (s.call c).channel p (s.program p).period mark)).setBinding
          (s.call c).channel (some k)).setCall c { s.call c with context := some k } := by
    intro k hk hp64 hch hb hf hl
    refine ⟨_, caughtUp (s.context k).ticksTaken s.tick, ?_, rfl⟩
    have hst : s.startContext c (s.call c).channel p = (true,
        (((s.setContext k (Context.started c (s.call c).channel p (s.program p).period
          (caughtUp (s.context k).ticksTaken s.tick))).setBinding (s.call c).channel (some k)).setCall c
            { s.call c with context := some k }).control k (.begin 0)) := by
      unfold startContext
      rw [if_neg (show ¬ Config.numChannels ≤ (s.call c).channel from Nat.not_le.mpr hch), if_neg (by simp [hb]),
        s.freeContext_of k hk hf hl]
      simp
    unfold askPlayout
    simp only [hp]
    rw [if_pos ⟨hp64, by omega⟩, hst]
    rfl
  constructor
  · intro h
    have : s.askPlayout c own queues = (.okNoPlayout, s) := by
      unfold askPlayout
      simp only [hp]
      split
      · rename_i hq
        have : s.startContext c (s.call c).channel p = (false, s) := by
          unfold startContext
          rcases h with h | h | h | h
          · exact absurd hq.1 (by unfold Config.numPrograms; omega)
          · exact if_pos h
          · repeat' split
            all_goals first | rfl | contradiction
          · rw [s.freeContext_none h]; repeat' split
            all_goals first | rfl | contradiction
        rw [this]; rfl
      · rfl
    rw [this]
    exact ⟨rfl, rfl, fun _ => rfl, fun _ => rfl, rfl, rfl⟩
  · intro k hk hp64 hch hb hf hl
    obtain ⟨v, mark, ha, hv⟩ := start k hk hp64 hch hb hf hl
    rw [ha]
    have hc := controlled_control (k := k) (c := c) (ch := (s.call c).channel) v (.begin 0) (by simp [hv, Context.started])
      (by simp [hv, Context.started])
    refine ⟨rfl, fun j hj => ?_, fun b hb => ?_, mark, v, by simp [hv, Context.started], by simp [hv], by simp [hv],
      by simp [hv], by subst hv; exact ⟨rfl, rfl, rfl⟩, ?_, by simp [hv], by simp, fun d hd => hc.calls d hd, ?_, ?_, rfl, rfl,
      rfl, rfl, rfl⟩
    · rw [hc.contexts j hj]; simp [hv, hj]
    · rw [hc.bindings b hb]; simp [hv, hb]
    · subst hv; exact ⟨rfl, rfl⟩
    · rw [hc.itsCall]
    · rw [hc.itsCall]
  · intro k hk hp64 hch hb hf hl g hg hplay hseg
    obtain ⟨v, mark, ha, hv⟩ := start k hk hp64 hch hb hf hl
    rw [ha]
    have hvk : v.context k = Context.started c (s.call c).channel p (s.program p).period mark := by simp [hv]
    have hbs := State.beginStep_play v k 0 g (by omega) (by rw [hvk]; show 0 + 1 < 16; decide)
      (by rw [hvk]; subst hv; exact hg) hplay (by subst hv; exact hseg)
    rw [control_begin v k 0 (by rw [hbs]), hbs, hvk]
    refine ⟨by simp [hv], by simp [hv], by simp [hv], mark, ?_⟩
    simp [hv, Context.started, Context.beginStep, Context.cold]

/-- What a playout request may change (R11, R110). -/
theorem frame_askPlayout {cs : List Component} {s t : State} (h : Changes cs s t) (c own queues : Nat) (h1 : .calls ∈ cs)
    (h2 : asking ⊆ cs) : Changes cs s (t.askPlayout c own queues).2 := by
  have key : ∀ ch p, Changes cs s (t.startContext c ch p).2 := by
    intro ch p
    unfold startContext
    split
    · exact h
    · split
      · exact h
      · split
        · exact h
        · rename_i k _
          generalize hv : ((t.setContext k (Context.started c ch p (t.program p).period
            (caughtUp (t.context k).ticksTaken t.tick))).setBinding ch (some k)).setCall c
              { t.call c with context := some k } = v
          have h0 : Changes (.calls :: asking) t v := by
            rw [← hv]; simp (maxDischargeDepth := 40) [Changes.refl, asking]
          have h3 : Changes (.calls :: asking) v (v.control k (.begin 0)) := by
            rw [control_eq]
            exact ⟨fun k hk => by cases k <;> simp_all [Component.agree, asking]⟩
          have h4 : Changes (.calls :: asking) t (v.control k (.begin 0)) := h0.trans h3
          rw [← hv] at h4
          refine h.into h4 ?_
          · intro x hx
            rcases List.mem_cons.mp hx with rfl | hx
            · exact h1
            · exact h2 hx
  unfold askPlayout
  simp only
  generalize (if own = 255 then queues else own) = p
  split
  · exact key ..
  · exact h

end State

/-- A change outside the Time Base, the configuration and the free values keeps what a notice is stamped and checked with. -/
theorem samePosting_of_changes {cs : List Component} {s t : State} (h : Changes cs s t) (ht : .time ∉ cs)
    (hc : .config ∉ cs) (hf : .freeIndex ∉ cs) : SamePosting s t :=
  ⟨h.keeps .time ht, h.keeps .config hc, h.keeps .freeIndex hf⟩

/-- Control between states that agree with `s` and `t` on what it speaks of. -/
theorem ControlLeaves.congr {s t s' t' : State} {c k : Nat} {y : Context} {x : Control} (h : ControlLeaves s t c k y x)
    (se : s'.events = s.events) (sp : SamePosting s s') (sl : Component.library.agree s s') (sf : s'.feeds = s.feeds)
    (tc : (t'.call c).context = (t.call c).context) (tk : t'.context k = t.context k)
    (tb : t'.binding y.channel = t.binding y.channel) (te : t'.events = t.events) (tf : t'.freeIndex = t.freeIndex)
    (tq : t'.queues = t.queues)
    (td : CallsBut c t t') (ts : (t'.call c).state = (t.call c).state)
    (tcq : (t'.call c).currentQueue = (t.call c).currentQueue) : ControlLeaves s' t' c k y x := by
  obtain ⟨v, v1, v2, v3, v4, ⟨p1, p2, p3⟩, v5, v6, v7, v8, v9, v10, u1, u2, u3, u4, u5⟩ := h
  refine ⟨v, v1, v2, v3, by rw [v4, se], ⟨by rw [p1, sp.1], by rw [p2, sp.2.1], by rw [p3, sp.2.2]⟩, ⟨v5.1.trans sl.1.symm, v5.2.trans sl.2.symm⟩, by rw [v6, sf], by rw [v7, tq],
    fun d hd => by rw [td d hd, v8 d hd], by rw [v9, ts], by rw [v10, tcq], ?_⟩
  exact ⟨by rw [tk, u1], by rw [tb, u2], by rw [tc, u3], by rw [te, u4], by rw [tf, u5]⟩

/-- A playout request between states that agree with `s` and `t` on what it speaks of. -/
theorem PlayoutAsked.congr {s t s' t' : State} {c p ch : Nat} {r : ResultCode} (h : PlayoutAsked s t c p ch r)
    (sc : (s'.call c).context = (s.call c).context) (sk : ∀ k, s'.context k = s.context k)
    (sb : ∀ b, s'.binding b = s.binding b) (se : s'.events = s.events) (sp : SamePosting s s')
    (sl : Component.library.agree s s') (sf : s'.feeds = s.feeds) (tc : (t'.call c).context = (t.call c).context) (tk : ∀ k, t'.context k = t.context k)
    (tb : ∀ b, t'.binding b = t.binding b) (te : t'.events = t.events) (tf : t'.freeIndex = t.freeIndex)
    (tq : t'.queues = t.queues) (td : CallsBut c t t')
    (ts : (t'.call c).state = (t.call c).state) (tcq : (t'.call c).currentQueue = (t.call c).currentQueue) :
    PlayoutAsked s' t' c p ch r := by
  have hp : ∀ i, s'.program i = s.program i := fun i => by unfold State.program; rw [sl.2]
  have hg : ∀ i, s'.segment i = s.segment i := fun i => by unfold State.segment; rw [sl.1]
  constructor
  · simp only [sc, sk, sb, se, sp.2.2, tc, tk, tb, te, tf]; exact h.declined
  · simp only [sk, sb]
    intro k hk hp64 hch hb hf hl
    obtain ⟨h1, h2, h3, mark, h4⟩ := h.started k hk hp64 hch hb hf hl
    refine ⟨h1, fun j hj => by rw [tk, sk, h2 j hj], fun b hb => by rw [tb, h3 b hb], mark, ?_⟩
    rw [hp]
    exact h4.congr se sp sl sf tc (tk k) (tb _) te tf tq td ts tcq
  · simp only [sk, sb, se, tc, tk, tb, te, hp, hg]; exact h.played

end Sys2Proof.Machine
end

