-- ==== Sys2Proof/Laws/Feeds.lean ====
section
/-! SUPPORT. What following a feed changes of a context, and what a change of a feed's state changes of its readers (08
R140, R141). -/

namespace Sys2Proof.Machine

/-- What a context becomes when it follows its feed (R140). -/
def Context.followed (x : Context) (s : State) : Context :=
  if x.onFeed then
    match decide ((s.feed x.step.feed).state = .live), x.source with
    | true, .ring => x
    | true, _ => { x.join (s.feed x.step.feed) with redirected := x.redirected || x.inFlight }
    | false, .ring => { x.fallBack (s.segment x.step.arg) 0 with redirected := x.redirected || x.inFlight }
    | false, _ => x
  else x

/-- Whether a context switches at a change of feed `f`. -/
def Context.switches (x : Context) (f : Nat) : Bool := x.hungry && x.onFeed && x.step.feed == f

namespace State

variable (s : State)

theorem followFeed_eq (k : Nat) :
    s.followFeed k = { s with playout := { s.playout with contexts := (s.followFeed k).playout.contexts } } := by
  unfold followFeed
  dsimp only
  split
  · split <;> rfl
  · rfl

@[simp] theorem context_followFeed (k j : Nat) :
    (s.followFeed k).context j = if j = k then (s.context k).followed s else s.context j := by
  unfold followFeed Context.followed
  dsimp only
  split
  · generalize decide ((s.feed (s.context k).step.feed).state = .live) = d
    generalize (s.context k).source = src
    cases d <;> cases src <;> by_cases h : j = k <;> simp [h]
  · by_cases h : j = k <;> simp [h]

@[simp] theorem feed_followFeed (k i : Nat) : (s.followFeed k).feed i = s.feed i := by rw [followFeed_eq]; rfl
@[simp] theorem segment_followFeed (k i : Nat) : (s.followFeed k).segment i = s.segment i := by rw [followFeed_eq]; rfl

/-- Readers change contexts alone. -/
theorem switchReaders_eq (f : Nat) :
    s.switchReaders f = { s with playout := { s.playout with contexts := (s.switchReaders f).playout.contexts } } := by
  unfold switchReaders
  generalize s.playout.contexts = l
  induction l generalizing s with
  | nil => rfl
  | cons e l ih =>
    simp only [List.foldl_cons]
    rw [ih]
    split
    · rw [followFeed_eq]
    · rfl

theorem followed_congr {s t : State} (x : Context) (hf : ∀ i, t.feed i = s.feed i)
    (hs : ∀ n, t.segment n = s.segment n) : x.followed t = x.followed s := by
  unfold Context.followed; simp only [hf, hs]

theorem context_foldl_switch (f : Nat) (l : List (Nat × Context)) (hp : l.Pairwise fun x y => x.1 < y.1) (u : State)
    (hu : ∀ e ∈ l, u.context e.1 = e.2) (k : Nat) :
    (l.foldl (fun s e => if e.2.hungry && e.2.onFeed && e.2.step.feed == f then s.followFeed e.1 else s) u).context k =
      bif (l.any fun e => e.1 == k) && (u.context k).switches f then (u.context k).followed u else u.context k := by
  induction l generalizing u with
  | nil => simp
  | cons e l ih =>
    have hlt := (List.pairwise_cons.1 hp).1
    have he := hu e (by simp)
    simp only [List.foldl_cons, List.any_cons]
    rw [show (e.2.hungry && e.2.onFeed && e.2.step.feed == f) = e.2.switches f from rfl]
    split
    · next hsw =>
      rw [ih (List.pairwise_cons.1 hp).2 (u.followFeed e.1)]
      · by_cases hk : k = e.1
        · subst hk
          have hn : (l.any fun x => x.1 == e.1) = false := by
            rw [List.any_eq_false]; intro x hx; have := hlt x hx; simp; omega
          simp [hn, he, hsw]
        · have hk' : (e.1 == k) = false := by simp; omega
          rw [context_followFeed, if_neg hk, followed_congr (s := u) _ (by simp) (by simp)]
          simp only [hk', Bool.false_or]
      · intro x hx
        have := hlt x hx
        rw [context_followFeed, if_neg (by omega)]
        exact hu x (by simp [hx])
    · next hsw =>
      rw [ih (List.pairwise_cons.1 hp).2 u (fun x hx => hu x (by simp [hx]))]
      by_cases hk : k = e.1
      · subst hk
        simp only [Bool.not_eq_true] at hsw
        simp [he, hsw]
      · have hk' : (e.1 == k) = false := by simp; omega
        simp [hk']

/-- The contexts after a change of a feed's state: the hungry readers of that feed have followed it (R140). -/
theorem context_switchReaders (hwf : Table.wf Context.cold s.playout.contexts = true) (f k : Nat) :
    (s.switchReaders f).context k = if (s.context k).switches f then (s.context k).followed s else s.context k := by
  unfold switchReaders
  rw [context_foldl_switch f _ (Table.wf_pairwise _ hwf) s]
  · rw [Bool.cond_eq_ite]
    by_cases ha : (s.playout.contexts.any fun e => e.1 == k) = true
    · simp [ha]
    · have hc : s.context k = Context.cold := by
        unfold context
        rw [Table.read_absent]
        intro e he hk
        exact ha (List.any_eq_true.2 ⟨e, he, by simp [hk]⟩)
      rw [hc]
      simp only [Bool.not_eq_true] at ha
      rw [ha]
      rfl
  · intro e he
    exact Table.read_mem _ hwf he

@[simp] theorem pending_followFeed (k : Nat) : (s.followFeed k).pending = s.pending := by rw [followFeed_eq]
@[simp] theorem freeIndex_followFeed (k : Nat) : (s.followFeed k).freeIndex = s.freeIndex := by rw [followFeed_eq]
@[simp] theorem path_followFeed (k : Nat) : (s.followFeed k).path = s.path := by rw [followFeed_eq]
@[simp] theorem staging_followFeed (k : Nat) : (s.followFeed k).staging = s.staging := by rw [followFeed_eq]
@[simp] theorem intake_followFeed (k : Nat) : (s.followFeed k).intake = s.intake := by rw [followFeed_eq]
@[simp] theorem part_followFeed (k : Nat) : (s.followFeed k).part = s.part := by rw [followFeed_eq]
@[simp] theorem calls_followFeed (k : Nat) : (s.followFeed k).calls = s.calls := by rw [followFeed_eq]
@[simp] theorem seniority_followFeed (k : Nat) : (s.followFeed k).seniority = s.seniority := by rw [followFeed_eq]
@[simp] theorem deadlines_followFeed (k : Nat) : (s.followFeed k).deadlines = s.deadlines := by rw [followFeed_eq]
@[simp] theorem queues_followFeed (k : Nat) : (s.followFeed k).queues = s.queues := by rw [followFeed_eq]
@[simp] theorem samples_followFeed (k : Nat) : (s.followFeed k).samples = s.samples := by rw [followFeed_eq]
@[simp] theorem agents_followFeed (k : Nat) : (s.followFeed k).agents = s.agents := by rw [followFeed_eq]
@[simp] theorem engine_followFeed (k : Nat) : (s.followFeed k).engine = s.engine := by rw [followFeed_eq]
@[simp] theorem feeds_followFeed (k : Nat) : (s.followFeed k).feeds = s.feeds := by rw [followFeed_eq]
@[simp] theorem time_followFeed (k : Nat) : (s.followFeed k).time = s.time := by rw [followFeed_eq]
@[simp] theorem events_followFeed (k : Nat) : (s.followFeed k).events = s.events := by rw [followFeed_eq]
@[simp] theorem tick_followFeed (k : Nat) : (s.followFeed k).tick = s.tick := by simp [tick]
@[simp] theorem call_followFeed (k i : Nat) : (s.followFeed k).call i = s.call i := by simp [State.call]
@[simp] theorem queue_followFeed (k i : Nat) : (s.followFeed k).queue i = s.queue i := by simp [State.queue]
@[simp] theorem agent_followFeed (k i : Nat) : (s.followFeed k).agent i = s.agent i := by simp [State.agent]
@[simp] theorem binding_followFeed (k i : Nat) : (s.followFeed k).binding i = s.binding i := by rw [followFeed_eq]; rfl
@[simp] theorem program_followFeed (k i : Nat) : (s.followFeed k).program i = s.program i := by rw [followFeed_eq]; rfl
@[simp] theorem frame_followFeed {cs : List Component} {t : State} (h : Changes cs s t) (k : Nat) (hc : .contexts ∈ cs) :
    Changes cs s (t.followFeed k) := by
  rw [followFeed_eq]
  exact h.into (ds := [.contexts]) ⟨fun c hk => by cases c <;> simp_all [Component.agree]⟩ (by simpa using hc)

@[simp] theorem pending_switchReaders (k : Nat) : (s.switchReaders k).pending = s.pending := by rw [switchReaders_eq]
@[simp] theorem freeIndex_switchReaders (k : Nat) : (s.switchReaders k).freeIndex = s.freeIndex := by rw [switchReaders_eq]
@[simp] theorem path_switchReaders (k : Nat) : (s.switchReaders k).path = s.path := by rw [switchReaders_eq]
@[simp] theorem staging_switchReaders (k : Nat) : (s.switchReaders k).staging = s.staging := by rw [switchReaders_eq]
@[simp] theorem intake_switchReaders (k : Nat) : (s.switchReaders k).intake = s.intake := by rw [switchReaders_eq]
@[simp] theorem part_switchReaders (k : Nat) : (s.switchReaders k).part = s.part := by rw [switchReaders_eq]
@[simp] theorem calls_switchReaders (k : Nat) : (s.switchReaders k).calls = s.calls := by rw [switchReaders_eq]
@[simp] theorem seniority_switchReaders (k : Nat) : (s.switchReaders k).seniority = s.seniority := by rw [switchReaders_eq]
@[simp] theorem deadlines_switchReaders (k : Nat) : (s.switchReaders k).deadlines = s.deadlines := by rw [switchReaders_eq]
@[simp] theorem queues_switchReaders (k : Nat) : (s.switchReaders k).queues = s.queues := by rw [switchReaders_eq]
@[simp] theorem samples_switchReaders (k : Nat) : (s.switchReaders k).samples = s.samples := by rw [switchReaders_eq]
@[simp] theorem agents_switchReaders (k : Nat) : (s.switchReaders k).agents = s.agents := by rw [switchReaders_eq]
@[simp] theorem engine_switchReaders (k : Nat) : (s.switchReaders k).engine = s.engine := by rw [switchReaders_eq]
@[simp] theorem feeds_switchReaders (k : Nat) : (s.switchReaders k).feeds = s.feeds := by rw [switchReaders_eq]
@[simp] theorem time_switchReaders (k : Nat) : (s.switchReaders k).time = s.time := by rw [switchReaders_eq]
@[simp] theorem events_switchReaders (k : Nat) : (s.switchReaders k).events = s.events := by rw [switchReaders_eq]
@[simp] theorem tick_switchReaders (k : Nat) : (s.switchReaders k).tick = s.tick := by simp [tick]
@[simp] theorem call_switchReaders (k i : Nat) : (s.switchReaders k).call i = s.call i := by simp [State.call]
@[simp] theorem queue_switchReaders (k i : Nat) : (s.switchReaders k).queue i = s.queue i := by simp [State.queue]
@[simp] theorem agent_switchReaders (k i : Nat) : (s.switchReaders k).agent i = s.agent i := by simp [State.agent]
@[simp] theorem feed_switchReaders (k i : Nat) : (s.switchReaders k).feed i = s.feed i := by simp [State.feed]
@[simp] theorem segment_switchReaders (k i : Nat) : (s.switchReaders k).segment i = s.segment i := by rw [switchReaders_eq]; rfl
@[simp] theorem binding_switchReaders (k i : Nat) : (s.switchReaders k).binding i = s.binding i := by rw [switchReaders_eq]; rfl
@[simp] theorem program_switchReaders (k i : Nat) : (s.switchReaders k).program i = s.program i := by rw [switchReaders_eq]; rfl
@[simp] theorem frame_switchReaders {cs : List Component} {t : State} (h : Changes cs s t) (k : Nat) (hc : .contexts ∈ cs) :
    Changes cs s (t.switchReaders k) := by
  rw [switchReaders_eq]
  exact h.into (ds := [.contexts]) ⟨fun c hk => by cases c <;> simp_all [Component.agree]⟩ (by simpa using hc)

end State

end Sys2Proof.Machine
end

