-- ==== Sys2Proof/Laws/Intake.lean ====
section
/-! SUPPORT. The handing-over of the intake's oldest entry: what a command's meaning answers, by its body (09 R150). -/

namespace Sys2Proof.Machine

variable {s : State} {e : IntakeEntry}

theorem event_awake (f : State → State) (h : s.path.resetAsserted = false) : event s f = .next (f s).settle := by
  unfold event; simp [h]

/-! ### The entry leaves, and the result is written -/

/-- The state whose oldest intake entry is gone. -/
theorem dropEntry_call (h : e.kind = .call) : s.dropEntry e =
    s.dropOldest.setCall e.index
      { s.call e.index with pendingCount := (s.call e.index).pendingCount - 1 } := by
  unfold State.dropEntry State.modifyPending; rw [h]; rfl
theorem dropEntry_agent (h : e.kind = .agent) : s.dropEntry e =
    s.dropOldest.setAgent e.index
      { s.agent e.index with pendingCount := (s.agent e.index).pendingCount - 1 } := by
  unfold State.dropEntry State.modifyPending; rw [h]; rfl
theorem dropEntry_queue (h : e.kind = .queue) : s.dropEntry e =
    s.dropOldest.setQueue e.index
      { s.queue e.index with pendingCount := (s.queue e.index).pendingCount - 1 } := by
  unfold State.dropEntry State.modifyPending; rw [h]; rfl
theorem dropEntry_part (h : e.kind = .part) : s.dropEntry e = s.dropOldest := by
  unfold State.dropEntry State.modifyPending; rw [h]

theorem writeResult_call (h : e.kind = .call) (s : State) (r : ResultCode) :
    s.writeResult e r = s.setCall e.index { s.call e.index with result := e.resultOf r } := by
  unfold State.writeResult; rw [h]
theorem writeResult_agent (h : e.kind = .agent) (s : State) (r : ResultCode) :
    s.writeResult e r = s.setAgent e.index { s.agent e.index with result := e.resultOf r } := by
  unfold State.writeResult; rw [h]
theorem writeResult_queue (h : e.kind = .queue) (s : State) (r : ResultCode) :
    s.writeResult e r = s.setQueue e.index { s.queue e.index with result := e.resultOf r } := by
  unfold State.writeResult; rw [h]
theorem writeResult_part (h : e.kind = .part) (s : State) (r : ResultCode) :
    s.writeResult e r = s.setPartResult (e.resultOf r) := by
  unfold State.writeResult; rw [h]

theorem resultOf_word (h : e.flagWord = false) (r : ResultCode) : e.resultOf r = e.answer r := by
  unfold IntakeEntry.resultOf IntakeEntry.answer; simp [h]

@[simp] theorem pending_dropEntry : (s.dropEntry e).pending = s.pending := by
  unfold State.dropEntry State.modifyPending; split <;> rfl
@[simp] theorem freeIndex_dropEntry : (s.dropEntry e).freeIndex = s.freeIndex := by
  unfold State.dropEntry State.modifyPending; split <;> rfl
@[simp] theorem path_dropEntry : (s.dropEntry e).path = s.path := by
  unfold State.dropEntry State.modifyPending; split <;> rfl
@[simp] theorem staging_dropEntry : (s.dropEntry e).staging = s.staging := by
  unfold State.dropEntry State.modifyPending; split <;> rfl
@[simp] theorem part_dropEntry : (s.dropEntry e).part = s.part := by
  unfold State.dropEntry State.modifyPending; split <;> rfl
@[simp] theorem seniority_dropEntry : (s.dropEntry e).seniority = s.seniority := by
  unfold State.dropEntry State.modifyPending; split <;> rfl
@[simp] theorem deadlines_dropEntry : (s.dropEntry e).deadlines = s.deadlines := by
  unfold State.dropEntry State.modifyPending; split <;> rfl
@[simp] theorem samples_dropEntry : (s.dropEntry e).samples = s.samples := by
  unfold State.dropEntry State.modifyPending; split <;> rfl
@[simp] theorem engine_dropEntry : (s.dropEntry e).engine = s.engine := by
  unfold State.dropEntry State.modifyPending; split <;> rfl
@[simp] theorem playout_dropEntry : (s.dropEntry e).playout = s.playout := by
  unfold State.dropEntry State.modifyPending; split <;> rfl
@[simp] theorem feeds_dropEntry : (s.dropEntry e).feeds = s.feeds := by
  unfold State.dropEntry State.modifyPending; split <;> rfl
@[simp] theorem time_dropEntry : (s.dropEntry e).time = s.time := by
  unfold State.dropEntry State.modifyPending; split <;> rfl
@[simp] theorem events_dropEntry : (s.dropEntry e).events = s.events := by
  unfold State.dropEntry State.modifyPending; split <;> rfl
@[simp] theorem tick_dropEntry : (s.dropEntry e).tick = s.tick := by simp [State.tick]
@[simp] theorem feed_dropEntry (i : Nat) : (s.dropEntry e).feed i = s.feed i := by simp [State.feed]
@[simp] theorem context_dropEntry (i : Nat) : (s.dropEntry e).context i = s.context i := by simp [State.context]
@[simp] theorem binding_dropEntry (i : Nat) : (s.dropEntry e).binding i = s.binding i := by simp [State.binding]
@[simp] theorem segment_dropEntry (i : Nat) : (s.dropEntry e).segment i = s.segment i := by simp [State.segment]
@[simp] theorem program_dropEntry (i : Nat) : (s.dropEntry e).program i = s.program i := by simp [State.program]
@[simp] theorem intake_dropEntry : (s.dropEntry e).intake = s.intake.tail := by
  unfold State.dropEntry State.modifyPending; split <;> rfl
@[simp] theorem call_dropEntry (d : Nat) : (s.dropEntry e).call d =
    if e.kind = .call ∧ d = e.index then { s.call d with pendingCount := (s.call d).pendingCount - 1 } else s.call d := by
  unfold State.dropEntry State.modifyPending; split <;> simp [*]
  split <;> simp_all
@[simp] theorem agent_dropEntry (d : Nat) : (s.dropEntry e).agent d =
    if e.kind = .agent ∧ d = e.index then { s.agent d with pendingCount := (s.agent d).pendingCount - 1 }
    else s.agent d := by
  unfold State.dropEntry State.modifyPending; split <;> simp [*]
  split <;> simp_all
@[simp] theorem queue_dropEntry (d : Nat) : (s.dropEntry e).queue d =
    if e.kind = .queue ∧ d = e.index then { s.queue d with pendingCount := (s.queue d).pendingCount - 1 }
    else s.queue d := by
  unfold State.dropEntry State.modifyPending; split <;> simp [*]
  split <;> simp_all
@[simp] theorem frame_dropEntry_call {cs : List Component} {t : State} (h : Changes cs s t) (hk : e.kind = .call)
    (h1 : .intake ∈ cs) (h2 : .calls ∈ cs) : Changes cs s (t.dropEntry e) := by
  rw [dropEntry_call hk]; simp (maxDischargeDepth := 40) [h, h1, h2]
@[simp] theorem frame_dropEntry_agent {cs : List Component} {t : State} (h : Changes cs s t) (hk : e.kind = .agent)
    (h1 : .intake ∈ cs) (h2 : .agents ∈ cs) : Changes cs s (t.dropEntry e) := by
  rw [dropEntry_agent hk]; simp (maxDischargeDepth := 40) [h, h1, h2]
@[simp] theorem frame_dropEntry_queue {cs : List Component} {t : State} (h : Changes cs s t) (hk : e.kind = .queue)
    (h1 : .intake ∈ cs) (h2 : .queues ∈ cs) : Changes cs s (t.dropEntry e) := by
  rw [dropEntry_queue hk]; simp (maxDischargeDepth := 40) [h, h1, h2]

/-- An entry that leaves with a result and nothing else. -/
theorem onlyAnswered (s : State) (e : IntakeEntry) (r : ResultCode) :
    OnlyAnswered s ((s.dropEntry e).writeResult e r).settle e (e.resultOf r) := by
  cases hk : e.kind
  · rw [writeResult_call hk]
    unfold OnlyAnswered; rw [hk]
    exact ⟨by simp, by simp [hk, Call.done], fun d hd => by simp [hk, hd],
      by simp (maxDischargeDepth := 40) [Changes.refl, hk]⟩
  · rw [writeResult_agent hk]
    unfold OnlyAnswered; rw [hk]
    exact ⟨by simp, by simp [hk, Agent.done], fun d hd => by simp [hk, hd],
      by simp (maxDischargeDepth := 40) [Changes.refl, hk]⟩
  · rw [writeResult_queue hk]
    unfold OnlyAnswered; rw [hk]
    exact ⟨by simp, by simp [hk, Queue.done], fun d hd => by simp [hk, hd],
      by simp (maxDischargeDepth := 40) [Changes.refl, hk]⟩
  · rw [writeResult_part hk, dropEntry_part hk]
    unfold OnlyAnswered; rw [hk]
    exact ⟨by simp [State.dropOldest], by simp, by simp (maxDischargeDepth := 40) [Changes.refl]⟩

/-! ### What a meaning answers -/

theorem recordCommand_handed {kind : RecordKind} {code : Byte} (h : Handed s e kind code)
    (body : IntakeEntry → State → ResultCode × State) :
    recordCommand kind code body s = .next (s.executeRecord e body).settle := by
  obtain ⟨h1, h2, h3, h4, h5, -⟩ := h
  unfold recordCommand
  rw [event_awake _ h1]
  cases hi : s.intake with
  | nil => simp [hi] at h2
  | cons d l =>
    simp [hi] at h2
    subst h2
    simp [h3, h4, h5]

/-- A record command that reaches its unit: its body runs once the entry is gone, and its result is written last. -/
theorem recordCommand_taken {kind : RecordKind} {code : Byte} (h : Taken s e kind code)
    (body : IntakeEntry → State → ResultCode × State) :
    recordCommand kind code body s =
      .next ((body e (s.dropEntry e)).2.writeResult e (body e (s.dropEntry e)).1).settle := by
  rw [recordCommand_handed h.1]
  unfold State.executeRecord
  simp [h.1.whole, h.2]

theorem partCommand_handed {code : Byte} {allowed : PartState → Bool} (h : Handed s e .part code)
    (ha : allowed s.part.state = true) (body : IntakeEntry → State → State) :
    partCommand code allowed body s = .next (body e s.dropOldest).settle := by
  obtain ⟨h1, h2, h3, h4, h5, h6⟩ := h
  unfold partCommand
  rw [event_awake _ h1]
  cases hi : s.intake with
  | nil => simp [hi] at h2
  | cons d l =>
    simp [hi] at h2
    subst h2
    simp [h3, h4, h5, State.executePart, h6, ha, dropEntry_part h3]

/-- As `partCommand_handed`, for a body that always writes a result. -/
theorem partCommand_answering {code : Byte} {allowed : PartState → Bool} (h : Handed s e .part code)
    (ha : allowed s.part.state = true) (body : IntakeEntry → State → ResultCode × State) :
    partCommand code allowed (answering body) s =
      .next ((body e s.dropOldest).2.setPartResult
        (e.answer (body e s.dropOldest).1)).settle := by
  rw [partCommand_handed h ha]
  unfold answering
  rw [writeResult_part h.kind, resultOf_word h.commandWord]

end Sys2Proof.Machine
end

