-- ==== Sys2Proof/Laws/Touches.lean ====
section
/-! SUPPORT. The shared operations are made of a few plain updates. `Touches s t` says that `t` comes from `s` by such
updates alone, so that an invariant is proved once for each update and holds after every operation. -/

namespace Sys2Proof.Machine

/-- An agent's record written: its active skill list is as it was, or names no queue twice (R51). -/
def SkillsOk (g r : Agent) : Prop := r.skills = g.skills ∨ duplicateSkill r.skills = false

@[simp] theorem SkillsOk.same {g r : Agent} (h : r.skills = g.skills) : SkillsOk g r := .inl h

/-- The part control written: the loading reads are where they were, but for the words the host wrote meanwhile. -/
def PartMoves (p q : PartControl) : Prop :=
  q.cursor = p.cursor ∧ ∀ b, q.burst = some b → ∃ a, p.burst = some a ∧ b.first = a.first ∧ b.beats = a.beats

@[simp] theorem PartMoves.refl (p : PartControl) : PartMoves p p := ⟨rfl, fun b h => ⟨b, h, rfl, rfl⟩⟩

/-- `t` comes from `s` by writing records, posting notices and events, adding or removing triggers, and changing the parts
no table or queue bound speaks of. -/
inductive Touches (s : State) : State → Prop where
  | refl : Touches s s
  | call {t : State} (c : Nat) (r : Call) : Touches s t → Touches s (t.setCall c r)
  | queue {t : State} (q : Nat) (r : Queue) : Touches s t → Touches s (t.setQueue q r)
  | agent {t : State} (a : Nat) (r : Agent) (hr : SkillsOk (t.agent a) r) : Touches s t → Touches s (t.setAgent a r)
  | feed {t : State} (f : Nat) (r : Feed) : Touches s t → Touches s (t.setFeed f r)
  | context {t : State} (k : Nat) (r : Context) : Touches s t → Touches s (t.setContext k r)
  | binding {t : State} (ch : Nat) (b : Option Nat) : Touches s t → Touches s (t.setBinding ch b)
  | post {t : State} (cls : EventClass) (kind : EventKind) (call agent target : Option Nat) (detail : Nat) :
      Touches s t → Touches s (t.post cls kind call agent target detail)
  | trigger {t : State} (g : Trigger) : Touches s t → Touches s (t.addTrigger g)
  | popTrigger {t : State} : Touches s t → Touches s t.popTrigger
  | rest {t : State} (pending : List Instr) (freeIndex : Nat) (path : PathUnit) (part : PartControl)
      (seniority : Seniority) (deadlines : List Deadline) (samples : List Sample) (fetch : Option FetchBurst)
      (hp : PartMoves t.part part) : Touches s t → Touches s
        { t with
          pending := pending, freeIndex := freeIndex, path := path, part := part, seniority := seniority
          deadlines := deadlines, samples := samples, playout := { t.playout with fetch := fetch } }

namespace Touches

variable {s t : State}

theorem trans {u : State} (h : Touches s t) (g : Touches t u) : Touches s u := by
  induction g with
  | refl => exact h
  | call c r _ ih => exact ih.call c r
  | queue q r _ ih => exact ih.queue q r
  | agent a r hr _ ih => exact ih.agent a r hr
  | feed f r _ ih => exact ih.feed f r
  | context k r _ ih => exact ih.context k r
  | binding ch b _ ih => exact ih.binding ch b
  | post c k x y z d _ ih => exact ih.post c k x y z d
  | trigger g _ ih => exact ih.trigger g
  | popTrigger _ ih => exact ih.popTrigger
  | rest a b c d e f g i hp _ ih => exact ih.rest a b c d e f g i hp

end Touches

/-! ### Skill lists -/

@[simp] theorem skills_dropNotReady (g : Agent) : g.dropNotReady.skills = g.skills := rfl
@[simp] theorem SkillsOk.dropNotReady (g : Agent) : SkillsOk g g.dropNotReady := .inl rfl
@[simp] theorem skills_accumulate (g : Agent) : g.accumulate.skills = g.skills := by
  unfold Agent.accumulate; split <;> rfl
theorem duplicateSkill_of_skillError {ws : List Word} (h : skillError ws = none) :
    duplicateSkill (agentSkills ws) = false := by
  unfold skillError at h
  split at h
  · exact absurd h (by simp)
  · split at h
    · exact absurd h (by simp)
    · simpa using ‹¬ duplicateSkill (agentSkills ws) = true›

/-! ### Plain updates -/

section
variable {s t : State} (h : Touches s t)
include h

@[simp] theorem touches_setCall (c r) : Touches s (t.setCall c r) := h.call c r
@[simp] theorem touches_setQueue (q r) : Touches s (t.setQueue q r) := h.queue q r
@[simp] theorem touches_setAgent (a r) (hr : SkillsOk (t.agent a) r) : Touches s (t.setAgent a r) := h.agent a r hr
@[simp] theorem touches_setFeed (f r) : Touches s (t.setFeed f r) := h.feed f r
@[simp] theorem touches_setContext (k r) : Touches s (t.setContext k r) := h.context k r
@[simp] theorem touches_setBinding (ch b) : Touches s (t.setBinding ch b) := h.binding ch b
@[simp] theorem touches_post (c k x y z d) : Touches s (t.post c k x y z d) := h.post c k x y z d
@[simp] theorem touches_addTrigger (g) : Touches s (t.addTrigger g) := h.trigger g
@[simp] theorem touches_popTrigger : Touches s t.popTrigger := h.popTrigger
@[simp] theorem touches_part (p : PartControl) (hp : PartMoves t.part p) : Touches s { t with part := p } :=
  h.rest t.pending t.freeIndex t.path p t.seniority t.deadlines t.samples t.playout.fetch hp
@[simp] theorem touches_path (p : PathUnit) : Touches s { t with path := p } :=
  h.rest t.pending t.freeIndex p t.part t.seniority t.deadlines t.samples t.playout.fetch (.refl _)
@[simp] theorem touches_pending (p : List Instr) : Touches s { t with pending := p } :=
  h.rest p t.freeIndex t.path t.part t.seniority t.deadlines t.samples t.playout.fetch (.refl _)
@[simp] theorem touches_freeIndex (n : Nat) : Touches s { t with freeIndex := n } :=
  h.rest t.pending n t.path t.part t.seniority t.deadlines t.samples t.playout.fetch (.refl _)
@[simp] theorem touches_seniority (n : Seniority) : Touches s { t with seniority := n } :=
  h.rest t.pending t.freeIndex t.path t.part n t.deadlines t.samples t.playout.fetch (.refl _)
@[simp] theorem touches_takeSeniority : Touches s t.takeSeniority := touches_seniority h _
@[simp] theorem touches_deadlines (d : List Deadline) : Touches s { t with deadlines := d } :=
  h.rest t.pending t.freeIndex t.path t.part t.seniority d t.samples t.playout.fetch (.refl _)
@[simp] theorem touches_samples (l : List Sample) : Touches s { t with samples := l } :=
  h.rest t.pending t.freeIndex t.path t.part t.seniority t.deadlines l t.playout.fetch (.refl _)
@[simp] theorem touches_fetch (f : Option FetchBurst) : Touches s { t with playout := { t.playout with fetch := f } } :=
  h.rest t.pending t.freeIndex t.path t.part t.seniority t.deadlines t.samples f (.refl _)

/-! ### Ops -/

@[simp] theorem touches_setPartResult (r) : Touches s (t.setPartResult r) :=
  touches_part h _ ⟨rfl, fun b h => ⟨b, h, rfl, rfl⟩⟩
@[simp] theorem touches_writeResult (e r) : Touches s (t.writeResult e r) := by
  unfold State.writeResult; split <;> simp (maxDischargeDepth := 40) [h]
@[simp] theorem touches_modifyPending (e f) : Touches s (t.modifyPending e f) := by
  unfold State.modifyPending; split <;> simp (maxDischargeDepth := 40) [h]
@[simp] theorem touches_recountAll (l was now) : Touches s (t.recountAll l was now) := by
  unfold State.recountAll
  induction l generalizing t with
  | nil => exact h
  | cons k l ih => exact ih (h.queue ..)
@[simp] theorem touches_moveAgent (a now) : Touches s (t.moveAgent a now) := by simp (maxDischargeDepth := 40) [State.moveAgent, h]
@[simp] theorem touches_enterWaiting (q c) : Touches s (t.enterWaiting q c) := h.queue ..
@[simp] theorem touches_leaveWaiting (q c) : Touches s (t.leaveWaiting q c) := h.queue ..
@[simp] theorem touches_dropDeadline (c) : Touches s (t.dropDeadline c) := touches_deadlines h _
@[simp] theorem touches_refreshDeadline (c) : Touches s (t.refreshDeadline c) := by
  unfold State.refreshDeadline; split <;> simp (maxDischargeDepth := 40) [h]
@[simp] theorem touches_settle : Touches s t.settle := by unfold State.settle; split <;> simp (maxDischargeDepth := 40) [h]

/-! ### Playout -/

@[simp] theorem touches_stopContext (k) : Touches s (t.stopContext k) := by simp (maxDischargeDepth := 40) [State.stopContext, h]
@[simp] theorem touches_endContext (k) : Touches s (t.endContext k) := by simp (maxDischargeDepth := 40) [State.endContext, h]
@[simp] theorem touches_stopCall (c) : Touches s (t.stopCall c) := by unfold State.stopCall; split <;> simp (maxDischargeDepth := 40) [h]
@[simp] theorem touches_badStep (k) : Touches s (t.badStep k) := by simp (maxDischargeDepth := 40) [State.badStep, h]
@[simp] theorem touches_followFeed (k) : Touches s (t.followFeed k) := by
  unfold State.followFeed; dsimp only; repeat' split
  all_goals simp (maxDischargeDepth := 40) [h]
@[simp] theorem touches_switchReaders (f) : Touches s (t.switchReaders f) := by
  unfold State.switchReaders
  generalize t.playout.contexts = l
  induction l generalizing t with
  | nil => exact h
  | cons e l ih => simp only [List.foldl_cons]; split <;> exact ih (by simp (maxDischargeDepth := 40) [h])
@[simp] theorem touches_lower (n) : Touches s (t.lower n).2 := by unfold State.lower; split <;> simp (maxDischargeDepth := 40) [h]
@[simp] theorem touches_endPass (k) : Touches s (t.endPass k).1 := by
  unfold State.endPass; dsimp only; repeat' split
  all_goals simp (maxDischargeDepth := 40) [h]
@[simp] theorem touches_endPeriod (k) : Touches s (t.endPeriod k).1 := by
  unfold State.endPeriod; dsimp only; repeat' split
  all_goals simp (maxDischargeDepth := 40) [h]
@[simp] theorem touches_popReturn (k) : Touches s (t.popReturn k).1 := by
  unfold State.popReturn; dsimp only; split <;> simp (maxDischargeDepth := 40) [h]
@[simp] theorem touches_beginStep (k i) : Touches s (t.beginStep k i).1 := by
  unfold State.beginStep; dsimp only; repeat' split
  all_goals simp (maxDischargeDepth := 40) [h]
@[simp] theorem touches_resumeStep (k r) : Touches s (t.resumeStep k r).1 := by
  unfold State.resumeStep; dsimp only; repeat' split
  all_goals simp (maxDischargeDepth := 40) [h]
@[simp] theorem touches_returnStep (k r) : Touches s (t.returnStep k r).1 := by
  unfold State.returnStep; dsimp only; repeat' split
  all_goals simp (maxDischargeDepth := 40) [h]
theorem touches_runControl (n k c) : Touches s (State.runControl n t k c) := by
  induction n generalizing t c with
  | zero => exact h
  | succ n ih =>
    unfold State.runControl
    split
    · exact h
    all_goals exact ih (by simp (maxDischargeDepth := 40) [h]) _
@[simp] theorem touches_control (k c) : Touches s (t.control k c) := touches_runControl h ..
@[simp] theorem touches_startContext (c ch p) : Touches s (t.startContext c ch p).2 := by
  unfold State.startContext; dsimp only; repeat' split
  all_goals simp (maxDischargeDepth := 40) [h]
@[simp] theorem touches_askPlayout (c own q) : Touches s (t.askPlayout c own q).2 := by
  unfold State.askPlayout; dsimp only; repeat' split
  all_goals simp (maxDischargeDepth := 40) [h]
@[simp] theorem touches_advance (k n) : Touches s (t.advance k n).1 := by
  unfold State.advance; dsimp only; repeat' split
  all_goals simp (maxDischargeDepth := 40) [h]
@[simp] theorem touches_place (k l) : Touches s (t.place k l) := by simp (maxDischargeDepth := 40) [State.place, h]
@[simp] theorem touches_endActivity (k) : Touches s (t.endActivity k) := by
  unfold State.endActivity; dsimp only; split <;> simp (maxDischargeDepth := 40) [h]
@[simp] theorem touches_interject (k) : Touches s (t.interject k) := by simp (maxDischargeDepth := 40) [State.interject, h]
@[simp] theorem touches_beginAnnouncement (k n) : Touches s (t.beginAnnouncement k n) := by
  unfold State.beginAnnouncement; dsimp only; split <;> simp (maxDischargeDepth := 40) [h]
@[simp] theorem touches_announce (k n) : Touches s (t.announce k n).2 := by
  unfold State.announce; dsimp only; repeat' split
  all_goals simp (maxDischargeDepth := 40) [h]

/-! ### Queues, offers, calls -/

@[simp] theorem touches_entryChain (x n q hops) : Touches s (t.entryChain x n q hops).2.2 := by
  induction n generalizing t q hops with
  | zero => exact h
  | succ n ih => unfold State.entryChain; split
                 · exact ih (by simp (maxDischargeDepth := 40) [h]) ..
                 · exact h
@[simp] theorem touches_enterQueue (c q) : Touches s (t.enterQueue c q) := by simp (maxDischargeDepth := 40) [State.enterQueue, h]
@[simp] theorem touches_overflowMove (c q) : Touches s (t.overflowMove c q) := by simp (maxDischargeDepth := 40) [State.overflowMove, h]
@[simp] theorem touches_handSample (q n) : Touches s (t.handSample q n) := by
  unfold State.handSample; split <;> simp (maxDischargeDepth := 40) [h]
@[simp] theorem touches_wrapEnd (a b) : Touches s (t.wrapEnd a b) := by
  unfold State.wrapEnd; dsimp only; split <;> simp (maxDischargeDepth := 40) [h]
@[simp] theorem touches_wrapEntry (a k) : Touches s (t.wrapEntry a k) := by
  unfold State.wrapEntry; dsimp only; split <;> simp (maxDischargeDepth := 40) [h]
@[simp] theorem touches_waitAgain (c) : Touches s (t.waitAgain c) := by unfold State.waitAgain; split <;> simp (maxDischargeDepth := 40) [h]
@[simp] theorem touches_restore (c k) : Touches s (t.restore c k) := by simp (maxDischargeDepth := 40) [State.restore, h]
@[simp] theorem touches_ringOut (a) : Touches s (t.ringOut a) := by simp (maxDischargeDepth := 40) [State.ringOut, h]
@[simp] theorem touches_unanswered (c k) : Touches s (t.unanswered c k) := by
  unfold State.unanswered; split <;> simp (maxDischargeDepth := 40) [h]
@[simp] theorem touches_withdrawAgent (a n d) : Touches s (t.withdrawAgent a n d) := by
  unfold State.withdrawAgent; dsimp only; split <;> simp (maxDischargeDepth := 40) [h]
@[simp] theorem touches_freeCall (c) : Touches s (t.freeCall c) := by simp (maxDischargeDepth := 40) [State.freeCall, h]
@[simp] theorem touches_endAgentCall (c) : Touches s (t.endAgentCall c) := by
  unfold State.endAgentCall; split <;> simp (maxDischargeDepth := 40) [h]
@[simp] theorem touches_countAbandon (c) : Touches s (t.countAbandon c) := by
  unfold State.countAbandon; split <;> simp (maxDischargeDepth := 40) [h]
@[simp] theorem touches_releaseOffered (a) : Touches s (t.releaseOffered a) := by
  unfold State.releaseOffered; split <;> simp (maxDischargeDepth := 40) [h]
@[simp] theorem touches_withdrawCall (c) : Touches s (t.withdrawCall c) := by simp (maxDischargeDepth := 40) [State.withdrawCall, h]
@[simp] theorem touches_countAnswer (c) : Touches s (t.countAnswer c) := by
  unfold State.countAnswer; split <;> simp (maxDischargeDepth := 40) [h]
@[simp] theorem touches_connectAgent (a q) : Touches s (t.connectAgent a q) := by simp (maxDischargeDepth := 40) [State.connectAgent, h]

/-! ### The bodies of the record commands -/

@[simp] theorem touches_openBody (e) : Touches s (openBody e t).2 := by
  unfold openBody; dsimp only; repeat' split
  all_goals simp (maxDischargeDepth := 40) [h]
@[simp] theorem touches_closeBody (e) : Touches s (closeBody e t).2 := by unfold closeBody; split <;> simp (maxDischargeDepth := 40) [h]
@[simp] theorem touches_pauseBody (e) : Touches s (pauseBody e t).2 := by unfold pauseBody; split <;> simp (maxDischargeDepth := 40) [h]
@[simp] theorem touches_unpauseBody (e) : Touches s (unpauseBody e t).2 := by
  unfold unpauseBody; repeat' split
  all_goals simp (maxDischargeDepth := 40) [h]
@[simp] theorem touches_applyBody (e) : Touches s (applyBody e t).2 := by
  unfold applyBody; dsimp only; repeat' split
  all_goals simp (maxDischargeDepth := 40) [h]
@[simp] theorem touches_resetCountersBody (e) : Touches s (resetCountersBody e t).2 := by simp (maxDischargeDepth := 40) [resetCountersBody, h]
@[simp] theorem touches_enqueueBody (e) : Touches s (enqueueBody e t).2 := by
  unfold enqueueBody; dsimp only; repeat' split
  all_goals simp (maxDischargeDepth := 40) [h]
@[simp] theorem touches_transferBody (e) : Touches s (transferBody e t).2 := by
  unfold transferBody; dsimp only; repeat' split
  all_goals simp (maxDischargeDepth := 40) [h]
@[simp] theorem touches_abandonBody (e) : Touches s (abandonBody e t).2 := by
  unfold abandonBody; dsimp only; repeat' split
  all_goals simp (maxDischargeDepth := 40) [h]
@[simp] theorem touches_answerBody (e) : Touches s (answerBody e t).2 := by
  unfold answerBody; dsimp only; split <;> simp (maxDischargeDepth := 40) [h]
@[simp] theorem touches_noAnswerBody (e) : Touches s (noAnswerBody e t).2 := by
  unfold noAnswerBody; split <;> simp (maxDischargeDepth := 40) [h]
@[simp] theorem touches_holdBody (e) : Touches s (holdBody e t).2 := by
  unfold holdBody; dsimp only; repeat' split
  all_goals simp (maxDischargeDepth := 40) [h]
@[simp] theorem touches_resumeBody (e) : Touches s (resumeBody e t).2 := by
  unfold resumeBody; dsimp only; split <;> simp (maxDischargeDepth := 40) [h]
@[simp] theorem touches_releaseBody (e) : Touches s (releaseBody e t).2 := by
  unfold releaseBody; dsimp only; split <;> simp (maxDischargeDepth := 40) [h]
@[simp] theorem touches_priorityBody (e) : Touches s (priorityBody e t).2 := by
  unfold priorityBody; dsimp only; repeat' split
  all_goals simp (maxDischargeDepth := 40) [h]
@[simp] theorem touches_announceBody (e) : Touches s (announceBody e t).2 := by
  unfold announceBody; dsimp only; repeat' split
  all_goals simp (maxDischargeDepth := 40) [h]
@[simp] theorem touches_loginBody (e) : Touches s (loginBody e t).2 := by
  unfold loginBody; dsimp only; split
  · exact h
  · split
    · exact h
    · next hs =>
      exact touches_moveAgent (touches_setAgent h _ _ (.inr (duplicateSkill_of_skillError hs))) _ _
@[simp] theorem touches_readyBody (e) : Touches s (readyBody e t).2 := by
  unfold readyBody; dsimp only; repeat' split
  all_goals simp (maxDischargeDepth := 40) [h]
@[simp] theorem touches_notReadyBody (e) : Touches s (notReadyBody e t).2 := by
  unfold notReadyBody; dsimp only; split <;> simp (maxDischargeDepth := 40) [h]
@[simp] theorem touches_logoutBody (e) : Touches s (logoutBody e t).2 := by
  unfold logoutBody; dsimp only; split <;> simp (maxDischargeDepth := 40) [h]
@[simp] theorem touches_skillsBody (e) : Touches s (skillsBody e t).2 := by
  unfold skillsBody; dsimp only; split
  · exact h
  · next hs =>
    have := touches_setAgent h e.index ((t.agent e.index).latch e.snapshot) (.inr (duplicateSkill_of_skillError hs))
    split <;> simp (maxDischargeDepth := 40) [this]
@[simp] theorem touches_extendWrapBody (e) : Touches s (extendWrapBody e t).2 := by
  unfold extendWrapBody; dsimp only; repeat' split
  all_goals simp (maxDischargeDepth := 40) [h]
@[simp] theorem touches_flagWriteBody (e) : Touches s (flagWriteBody e t).2 := by
  unfold flagWriteBody; dsimp only; split <;> simp (maxDischargeDepth := 40) [h]
@[simp] theorem touches_feedClearBody (e) : Touches s (feedClearBody e t).2 := by
  unfold feedClearBody; dsimp only; repeat' split
  all_goals simp (maxDischargeDepth := 40) [State.postFeed, h]

/-! ### Ticks, deadlines, the estimator, streams, feeds, reads -/

@[simp] theorem touches_takeAgentTick (a) : Touches s (t.takeAgentTick a) := by
  unfold State.takeAgentTick; dsimp only; repeat' split
  all_goals simp (maxDischargeDepth := 40) [h]
@[simp] theorem touches_expireOffer (c) : Touches s (t.expireOffer c) := by simp (maxDischargeDepth := 40) [State.expireOffer, h]
@[simp] theorem touches_reportMaxWait (c) : Touches s (t.reportMaxWait c) := by simp (maxDischargeDepth := 40) [State.reportMaxWait, h]
@[simp] theorem touches_timedOverflow (c) : Touches s (t.timedOverflow c) := by
  unfold State.timedOverflow; repeat' split
  all_goals simp (maxDischargeDepth := 40) [h]
@[simp] theorem touches_handleOffer (c) : Touches s (t.handleOffer c) := by
  unfold State.handleOffer; split <;> simp (maxDischargeDepth := 40) [h]
@[simp] theorem touches_handleMaxWait (c) : Touches s (t.handleMaxWait c) := by
  unfold State.handleMaxWait; split <;> simp (maxDischargeDepth := 40) [h]
@[simp] theorem touches_handleOverflow (c) : Touches s (t.handleOverflow c) := by
  unfold State.handleOverflow; split <;> simp (maxDischargeDepth := 40) [h]
@[simp] theorem touches_takeDue (c) : Touches s (t.takeDue c) := by simp (maxDischargeDepth := 40) [State.takeDue, h]
@[simp] theorem touches_takeSample (x) : Touches s (t.takeSample x) := by
  unfold State.takeSample; dsimp only; split <;> simp (maxDischargeDepth := 40) [h]
@[simp] theorem touches_republish (n) : Touches s (t.republish n) := by
  unfold State.republish; dsimp only; repeat' split
  all_goals simp (maxDischargeDepth := 40) [h]
@[simp] theorem touches_expand (q) : Touches s (t.expand q) := by
  unfold State.expand
  split
  · exact h
  · next hp =>
    clear hp
    generalize t.idleOrder q = l
    induction l generalizing t with
    | nil => exact h
    | cons a l ih => exact ih (h.trigger _)
@[simp] theorem touches_placeGenerated (k) : Touches s (t.placeGenerated k) := by
  unfold State.placeGenerated; repeat' split
  all_goals simp (maxDischargeDepth := 40) [h]
@[simp] theorem touches_issueFetch (k) : Touches s (t.issueFetch k) := by
  unfold State.issueFetch; dsimp only
  split
  · exact h
  · next b _ =>
    exact (h.context k { t.forming (t.context k) with inFlight := true, redirected := false }).rest _ _
      { t.path with port := .fetch b.address b.beats, passCount := 0 } _ _ _ _ (some b) (.refl _)
@[simp] theorem touches_clearFetch (k) : Touches s (t.clearFetch k) := (touches_fetch h _).context ..
theorem touches_arrive (k) {deliver : State → State} (hd : ∀ u, Touches s u → Touches s (deliver u)) :
    Touches s (t.arrive k deliver) := by
  unfold State.arrive; dsimp only; repeat' split
  · exact (touches_fetch h _).context ..
  · simp (maxDischargeDepth := 40) [h]
  · exact hd _ (by simp (maxDischargeDepth := 40) [h])
@[simp] theorem touches_fetchFailed (k) : Touches s (t.fetchFailed k) := by simp (maxDischargeDepth := 40) [State.fetchFailed, h]
@[simp] theorem touches_takeContextTick (k) : Touches s (t.takeContextTick k) := by
  unfold State.takeContextTick; dsimp only; repeat' split
  all_goals simp (maxDischargeDepth := 40) [h]
@[simp] theorem touches_trackFeeds (b) : Touches s (t.trackFeeds b) := by
  unfold State.trackFeeds
  generalize List.range Config.numFeeds = l
  induction l generalizing t with
  | nil => exact h
  | cons i l ih => simp only [List.foldl_cons]; split <;> exact ih (by simp (maxDischargeDepth := 40) [h])
@[simp] theorem touches_armingTick (i) : Touches s (t.armingTick i) := by
  unfold State.armingTick; dsimp only; repeat' split
  all_goals simp (maxDischargeDepth := 40) [State.postFeed, h]
@[simp] theorem touches_liveTick (i) : Touches s (t.liveTick i) := by
  unfold State.liveTick; dsimp only; split <;> simp (maxDischargeDepth := 40) [State.postFeed, h]
@[simp] theorem touches_skipTick (i) : Touches s (t.skipTick i) := h.feed ..
@[simp] theorem touches_answerRead (w) : Touches s (t.answerRead w) := touches_path h _
@[simp] theorem touches_forwardBeat (b) : Touches s (t.forwardBeat b) := touches_path h _
@[simp] theorem touches_holdBeat (b) : Touches s (t.holdBeat b) := touches_path h _
@[simp] theorem touches_countUnderrun (c) : Touches s (t.countUnderrun c) := h.call ..
@[simp] theorem touches_voiceBeat (k e) : Touches s (t.voiceBeat k e) := by
  unfold State.voiceBeat; dsimp only; repeat' split
  all_goals simp (maxDischargeDepth := 40) [h]
@[simp] theorem touches_noteHostWrite (w b) : Touches s (t.noteHostWrite w b) := by
  unfold State.noteHostWrite
  split
  · exact h
  · refine touches_part h _ ⟨rfl, fun b hb => ?_⟩
    simp only [Option.map_eq_some_iff] at hb
    obtain ⟨a, ha, rfl⟩ := hb
    refine ⟨a, ha, ?_⟩
    unfold LoadBurst.note
    split <;> exact ⟨rfl, rfl⟩

end

end Sys2Proof.Machine
end

