-- ==== Sys2Proof/Laws/Invariants.lean ====
section
/-! SUPPORT. What the plain updates keep: the canonical form of the tables, the capacities, the work list without
duplicates, the clock, the intake and the staging copies; and the canonical form kept by loading, staging and dropping. -/

namespace Sys2Proof.Machine

variable {s t : State}

/-! ### The canonical form -/

theorem Touches.canonical (h : Touches s t) (hc : Canonical s) : Canonical t := by
  induction h with
  | refl => exact hc
  | call c r _ ih => obtain ⟨a, z⟩ := ih; exact ⟨Table.wf_write _ _ _ a, z⟩
  | queue q r _ ih => obtain ⟨a, b, z⟩ := ih; exact ⟨a, Table.wf_write _ _ _ b, z⟩
  | agent q r hr _ ih => obtain ⟨a, b, c, z⟩ := ih; exact ⟨a, b, Table.wf_write _ _ _ c, z⟩
  | feed q r _ ih => obtain ⟨a, b, c, d, z⟩ := ih; exact ⟨a, b, c, Table.wf_write _ _ _ d, z⟩
  | context q r _ ih => obtain ⟨a, b, c, d, e, z⟩ := ih; exact ⟨a, b, c, d, Table.wf_write _ _ _ e, z⟩
  | binding q r _ ih => obtain ⟨a, b, c, d, e, f, z⟩ := ih; exact ⟨a, b, c, d, e, Table.wf_write _ _ _ f, z⟩
  | post c k x y z d _ ih => unfold State.post; dsimp only; repeat' split
                             all_goals exact ih
  | trigger g _ ih => unfold State.addTrigger; split <;> exact ih
  | popTrigger _ ih => exact ih
  | rest a b c d e f g i hp _ ih => exact ih

/-- The staging tables are in canonical form. -/
def Staging.canonical (g : Staging) : Prop :=
  Table.wf 0 g.calls = true ∧ Table.wf 0 g.agents = true ∧ Table.wf 0 g.queues = true ∧ Table.wf 0 g.config = true
    ∧ Table.wf 0 g.segments = true ∧ Table.wf 0 g.programs = true

theorem Staging.canonical_write {g : Staging} (h : g.canonical) (cls : WordClass) (b : WriteBeat) :
    (g.write cls b).canonical := by
  obtain ⟨a1, a2, a3, a4, a5, a6⟩ := h
  unfold Staging.write stageWord
  split <;> refine ⟨?_, ?_, ?_, ?_, ?_, ?_⟩ <;> first | assumption | (apply Table.wf_write; assumption)

theorem canonical_intake (l : List IntakeEntry) (hc : Canonical s) : Canonical { s with intake := l } := hc

theorem canonical_staging {g : Staging} (hg : g.canonical) (hc : Canonical s) : Canonical { s with staging := g } := by
  obtain ⟨a1, a2, a3, a4, a5, a6, a7, a8, _⟩ := hc
  exact ⟨a1, a2, a3, a4, a5, a6, a7, a8, hg⟩

theorem Canonical.staging (hc : Canonical s) : s.staging.canonical := by
  obtain ⟨_, _, _, _, _, _, _, _, h⟩ := hc
  exact h

theorem touches_makeEntry (target : RecordKind × Nat × Bool) (b : WriteBeat) :
    Touches { s with intake := s.intake ++ [s.staging.entry target b] } (s.makeEntry target b) := by
  unfold State.makeEntry
  exact touches_modifyPending Touches.refl _ _

theorem canonical_makeEntry (target : RecordKind × Nat × Bool) (b : WriteBeat) (hc : Canonical s) :
    Canonical (s.makeEntry target b) :=
  (touches_makeEntry target b).canonical (canonical_intake (s := s) _ hc)

theorem touches_stageBeat (cls : WordClass) (b : WriteBeat) :
    Touches { s with staging := s.staging.write cls b }
      (State.noteHostWrite { s with staging := s.staging.write cls b } cls.loadWord b) :=
  touches_noteHostWrite Touches.refl _ _

theorem canonical_takeWrite (cls : WordClass) (b : WriteBeat) (hc : Canonical s) : Canonical (s.takeWrite cls b) := by
  unfold State.takeWrite
  cases cls.command with
  | some target => exact canonical_makeEntry _ _ hc
  | none =>
    exact (touches_stageBeat cls b).canonical (canonical_staging (s := s) (Staging.canonical_write hc.staging cls b) hc)

theorem canonical_actOnWrite (b : WriteBeat) (hc : Canonical s) : Canonical (s.actOnWrite b) := by
  have h := canonical_takeWrite (s.classify b.address) b ((touches_trackFeeds Touches.refl b).canonical hc)
  unfold State.actOnWrite
  exact h

theorem canonical_readEvent (w : Nat) (hc : Canonical s) : Canonical (s.readEvent w) := by
  unfold State.readEvent
  split
  · exact (touches_answerRead (s := { s with events := { s.events with shown := s.events.choose } }) Touches.refl
      (eventWord s.events.choose 0)).canonical hc
  · exact (touches_answerRead Touches.refl (eventWord s.events.shown w)).canonical hc

theorem canonical_takeRead (cls : WordClass) (b : ReadBeat) (hc : Canonical s) : Canonical (s.takeRead cls b) := by
  have ha (w : Word) : Canonical (s.answerRead w) := (touches_answerRead Touches.refl w).canonical hc
  have hf : Canonical (s.forwardBeat (.read b)) := (touches_forwardBeat Touches.refl (.read b)).canonical hc
  unfold State.takeRead
  cases cls with
  | queuePart id w => dsimp only; exact ha _
  | statusWord w => dsimp only; exact ha _
  | eventWord w => dsimp only; exact canonical_readEvent w hc
  | callPart id w => dsimp only; split; exact ha _; exact hf
  | agentPart id w => dsimp only; split; exact ha _; exact hf
  | channel id =>
    dsimp only
    cases s.voiceContext b.tag id with
    | none => exact hf
    | some k => exact (touches_voiceBeat Touches.refl k b.enables).canonical hc
  | _ => dsimp only; exact hf

theorem canonical_accept (b : Beat) (hc : Canonical s) : Canonical (s.accept b) := by
  unfold State.accept
  cases b with
  | write w => dsimp only; exact (touches_forwardBeat Touches.refl (.write w)).canonical (canonical_actOnWrite w hc)
  | read r => dsimp only; exact canonical_takeRead (s.classify r.address) r hc

theorem canonical_dropLive (hc : Canonical s) : Canonical s.dropLive := by
  obtain ⟨a1, a2, a3, a4, a5, a6, a7, a8, z⟩ := hc
  exact ⟨Table.wf_mapAll _ _ a1, Table.wf_mapAll _ _ a2, Table.wf_mapAll _ _ a3, Table.wf_mapAll _ _ a4,
    Table.wf_mapAll _ _ a5, rfl, a7, a8, z⟩

theorem canonical_latchLibrary (hc : Canonical s) : Canonical s.latchLibrary.2 := by
  obtain ⟨a1, a2, a3, a4, a5, a6, a7, a8, z⟩ := hc
  exact ⟨a1, a2, a3, a4, a5, a6, Table.wf_build _ _ _, Table.wf_build _ _ _, z⟩

theorem touches_loadFeeds (h : Touches s t) : Touches s t.loadFeeds := by
  unfold State.loadFeeds
  generalize List.range Config.numFeeds = l
  induction l generalizing t with
  | nil => exact h
  | cons i l ih => exact ih (h.feed _ _)

theorem canonical_part (p : PartControl) (hc : Canonical s) : Canonical { s with part := p } := hc

theorem canonical_failLoading (e : ConfigError) (hc : Canonical s) : Canonical (s.failLoading e) :=
  canonical_part _ (canonical_dropLive hc)

theorem canonical_latchConfig (hc : Canonical s) : Canonical s.latchConfig.2 := by
  unfold State.latchConfig
  dsimp only
  split
  · exact canonical_part _ hc
  · exact canonical_failLoading _ (canonical_part _ hc)

theorem canonical_completeLoading (hc : Canonical s) : Canonical s.completeLoading :=
  canonical_part _ ((touches_loadFeeds Touches.refl).canonical (canonical_latchLibrary (canonical_dropLive hc)))

theorem Staging.canonical_loadWords {g : Staging} (h : g.canonical) (b : LoadBurst) (k : Nat) (l : List Word) :
    (g.loadWords b k l).canonical := by
  induction l generalizing g k with
  | nil => exact h
  | cons d ds ih =>
    unfold Staging.loadWords
    refine ih ?_ _
    obtain ⟨a1, a2, a3, a4, a5, a6⟩ := h
    unfold Staging.load
    split <;> simp_all [Staging.canonical, Table.wf_write]

theorem canonical_takeLoad (b : LoadBurst) (data : List Word) (hc : Canonical s) : Canonical (s.takeLoad b data) := by
  obtain ⟨a1, a2, a3, a4, a5, a6, a7, a8, a9⟩ := hc
  exact ⟨a1, a2, a3, a4, a5, a6, a7, a8, Staging.canonical_loadWords a9 _ _ _⟩

/-! ### The clock, the intake and the staging copies are untouched -/

theorem Touches.time (h : Touches s t) : t.time = s.time := by
  induction h with
  | post c k x y z d _ ih => unfold State.post; dsimp only; repeat' split
                             all_goals exact ih
  | trigger g _ ih => unfold State.addTrigger; split <;> exact ih
  | refl => rfl
  | _ => assumption

theorem Touches.intake (h : Touches s t) : t.intake = s.intake := by
  induction h with
  | post c k x y z d _ ih => unfold State.post; dsimp only; repeat' split
                             all_goals exact ih
  | trigger g _ ih => unfold State.addTrigger; split <;> exact ih
  | refl => rfl
  | _ => assumption

theorem Touches.staging (h : Touches s t) : t.staging = s.staging := by
  induction h with
  | post c k x y z d _ ih => unfold State.post; dsimp only; repeat' split
                             all_goals exact ih
  | trigger g _ ih => unfold State.addTrigger; split <;> exact ih
  | refl => rfl
  | _ => assumption

/-! ### The capacities of the event queues, and the reservation -/

theorem nextSequence_le (n : Nat) : nextSequence n ≤ 65535 := by unfold nextSequence; split <;> omega

theorem withinCapacity_post (cls kind call agent target detail) (h : WithinCapacity s) :
    WithinCapacity (s.post cls kind call agent target detail) := by
  obtain ⟨hi, hn, hd, hr, hs⟩ := h
  unfold State.post
  dsimp only
  split
  · exact ⟨hi, hn, hd, hr, hs⟩
  · split
    · exact ⟨hi, hn, hd, hr, hs⟩
    · next hroom =>
      unfold State.eventRoom at hroom
      unfold EventUnit.append
      cases cls <;> simp at hroom <;>
        refine ⟨hi, ?_, ?_, hr, nextSequence_le _⟩ <;>
        simp <;> omega

theorem withinCapacity_addTrigger (g : Trigger) (h : WithinCapacity s) : WithinCapacity (s.addTrigger g) := by
  unfold State.addTrigger; split <;> exact h

theorem Touches.withinCapacity (h : Touches s t) (hc : WithinCapacity s) : WithinCapacity t := by
  induction h with
  | refl => exact hc
  | post c k x y z d _ ih => exact withinCapacity_post c k x y z d ih
  | trigger g _ ih => exact withinCapacity_addTrigger g ih
  | _ => assumption

/-! ### The work list -/

theorem nodup_addTrigger (g : Trigger) (h : s.engine.workList.Nodup) : (s.addTrigger g).engine.workList.Nodup := by
  unfold State.addTrigger
  split
  · exact h
  · next hg =>
    refine List.nodup_append.2 ⟨h, by simp, fun a ha b hb => ?_⟩
    simp only [List.mem_singleton] at hb
    exact fun hab => hg (hb ▸ hab ▸ ha)

theorem Touches.workListDistinct (h : Touches s t) (hc : WorkListDistinct s) : WorkListDistinct t := by
  induction h with
  | refl => exact hc
  | post c k x y z d _ ih => unfold State.post; dsimp only; repeat' split
                             all_goals exact ih
  | trigger g _ ih => exact nodup_addTrigger g ih
  | popTrigger _ ih => exact List.Nodup.sublist (List.tail_sublist _) ih
  | _ => assumption

end Sys2Proof.Machine
end

