-- ==== Sys2Proof/Laws/Part.lean ====
section
/-! SUPPORT. The live state dropped at DISABLE and at the end of a LOADING (09 R151), and the library's latch (07 R114). -/

namespace Sys2Proof.Machine

theorem Context.dropped_eq (x : Context) : x.dropped =
    if x.state = .starting ∨ x.state = .playing then
      (if x.inFlight then { x with state := .draining, stack := [], buffer := [], timer := 0 }
      else { Context.cold with ticksTaken := x.ticksTaken })
    else x := by
  unfold Context.dropped Context.running Context.stopped
  cases hs : x.state <;> simp

/-- What follows a drop without touching the live state leaves it dropped; what precedes it likewise. -/
theorem LiveDropped.after {cs : List Component} {s t u : State} (h : LiveDropped s t) (g : Changes cs t u)
    (hd : ∀ k ∈ liveState, k ∉ cs) : LiveDropped s u := by
  have a (k : Component) (hk : k ∈ liveState) : k.agree t u := g.keeps k (hd k hk)
  have h1 : u.calls = t.calls := a .calls (by decide)
  have h2 : u.agents = t.agents := a .agents (by decide)
  have h3 : u.queues = t.queues := a .queues (by decide)
  have h4 : u.playout.contexts = t.playout.contexts := a .contexts (by decide)
  have h5 : u.playout.bindings = t.playout.bindings := a .bindings (by decide)
  have hw : u.engine.workList = t.engine.workList := a .workList (by decide)
  have hp : u.engine.proposal = t.engine.proposal ∧ u.engine.reserved = t.engine.reserved := a .proposal (by decide)
  exact {
    calls := fun c => by unfold State.call; rw [h1]; exact h.calls c
    agents := fun c => by unfold State.agent; rw [h2]; exact h.agents c
    queues := fun c => by unfold State.queue; rw [h3]; exact h.queues c
    contexts := fun c => by have := h.contexts c; unfold State.context at this ⊢; rw [h4]; exact this
    bindings := fun c => by unfold State.binding; rw [h5]; exact h.bindings c
    seniority := (a .seniority (by decide)).trans h.seniority
    deadlines := (a .deadlines (by decide)).trans h.deadlines
    samples := (a .samples (by decide)).trans h.samples
    workList := hw.trans h.workList
    proposal := ⟨hp.1.trans h.proposal.1, hp.2.trans h.proposal.2⟩
    events := ⟨(a .dispatch (by decide)).trans h.events.1, (a .notices (by decide)).trans h.events.2.1,
      (a .sequence (by decide)).trans h.events.2.2.1, (a .shown (by decide)).trans h.events.2.2.2⟩ }

theorem LiveDropped.before {cs : List Component} {s t u : State} (h : LiveDropped t u) (g : Changes cs s t)
    (hd : ∀ k ∈ liveState, k ∉ cs) : LiveDropped s u := by
  have a (k : Component) (hk : k ∈ liveState) : k.agree s t := g.keeps k (hd k hk)
  have h1 : t.calls = s.calls := a .calls (by decide)
  have h2 : t.agents = s.agents := a .agents (by decide)
  have h3 : t.queues = s.queues := a .queues (by decide)
  have h4 : t.playout.contexts = s.playout.contexts := a .contexts (by decide)
  exact {
    calls := fun c => by have := h.calls c; unfold State.call at this ⊢; rw [h1] at this; exact this
    agents := fun c => by have := h.agents c; unfold State.agent at this ⊢; rw [h2] at this; exact this
    queues := fun c => by have := h.queues c; unfold State.queue at this ⊢; rw [h3] at this; exact this
    contexts := fun c => by have := h.contexts c; unfold State.context at this ⊢; rw [h4] at this; exact this
    bindings := h.bindings
    seniority := h.seniority
    deadlines := h.deadlines
    samples := h.samples
    workList := h.workList
    proposal := h.proposal
    events := h.events }

/-- What a drop leaves is seen through these fields alone. -/
theorem LiveDropped.congr {s t u : State} (h : LiveDropped s t)
    (g : u.calls = t.calls ∧ u.agents = t.agents ∧ u.queues = t.queues ∧ u.playout.contexts = t.playout.contexts ∧
      u.playout.bindings = t.playout.bindings ∧ u.seniority = t.seniority ∧ u.deadlines = t.deadlines ∧
      u.samples = t.samples ∧ u.engine = t.engine ∧ u.events = t.events) : LiveDropped s u := by
  obtain ⟨h1, h2, h3, h4, h5, h6, h7, h8, h9, h10⟩ := g
  exact {
    calls := fun c => by unfold State.call; rw [h1]; exact h.calls c
    agents := fun c => by unfold State.agent; rw [h2]; exact h.agents c
    queues := fun c => by unfold State.queue; rw [h3]; exact h.queues c
    contexts := fun c => by have := h.contexts c; unfold State.context at this ⊢; rw [h4]; exact this
    bindings := fun c => by unfold State.binding; rw [h5]; exact h.bindings c
    seniority := h6.trans h.seniority
    deadlines := h7.trans h.deadlines
    samples := h8.trans h.samples
    workList := by rw [h9]; exact h.workList
    proposal := by rw [h9]; exact h.proposal
    events := by rw [h10]; exact h.events }

theorem FeedsOff.after {s t u : State} (h : FeedsOff s t) (g : u.feeds = t.feeds) : FeedsOff s u :=
  fun f => by unfold State.feed; rw [g]; exact h f
theorem FeedsOff.before {s t u : State} (h : FeedsOff t u) (g : t.feeds = s.feeds) : FeedsOff s u :=
  fun f => by have := h f; unfold State.feed at this ⊢; rw [g] at this; exact this

/-- The components of the part control. -/
theorem frame_part {cs : List Component} {s t : State} (h : Changes cs s t) (p : PartControl) (h1 : .partState ∈ cs)
    (h2 : .configError ∈ cs) (h3 : .config ∈ cs) (h4 : .partResult ∈ cs) (h5 : .loading ∈ cs) :
    Changes cs s { t with part := p } :=
  h.into (ds := [.partState, .configError, .config, .partResult, .loading])
    ⟨fun k hk => by cases k <;> first | exact absurd (by decide) hk | exact rfl | exact ⟨rfl, rfl⟩⟩
    (by simp [h1, h2, h3, h4, h5])

namespace State

variable (s : State)

theorem liveDropped_dropLive (h : Canonical s) : LiveDropped s s.dropLive := by
  obtain ⟨h1, h2, h3, h4, h5, h6, -⟩ := h
  exact {
    calls := fun c => Table.read_mapAll Call.cold Call.dropped rfl h1 c
    agents := fun a => Table.read_mapAll Agent.cold Agent.dropped rfl h3 a
    queues := fun q => Table.read_mapAll Queue.cold Queue.dropped rfl h2 q
    contexts := fun k => (Table.read_mapAll Context.cold Context.dropped rfl h5 k).trans (Context.dropped_eq _)
    bindings := fun _ => rfl
    seniority := rfl
    deadlines := rfl
    samples := rfl
    workList := rfl
    proposal := ⟨rfl, rfl⟩
    events := ⟨rfl, rfl, rfl, rfl⟩ }

theorem feedsOff_dropLive (h : Canonical s) : FeedsOff s s.dropLive :=
  fun f => Table.read_mapAll Feed.cold Feed.dropped rfl h.2.2.2.1 f

@[simp] theorem frame_dropLive {cs : List Component} {t : State} (h : Changes cs s t) (hl : ∀ k ∈ liveState, k ∈ cs) :
    Changes cs s t.dropLive :=
  h.into (ds := liveState) ⟨fun k hk => by cases k <;> first | exact absurd (by decide) hk | exact rfl | exact ⟨rfl, rfl⟩ | exact ⟨rfl, rfl, rfl, rfl, rfl⟩⟩ hl

end State

end Sys2Proof.Machine
end

