-- ==== Sys2Proof/Laws/Path.lean ====
section
/-! SUPPORT. The memory path: the class of a word by the window its address is in (09 R144). -/

namespace Sys2Proof.Machine

theorem offsetIn_in {base size a : Nat} (h1 : base ≤ a) (h2 : a < base + size) : offsetIn base size a = some (a - base) :=
  if_pos ⟨h1, h2⟩
theorem offsetIn_out {base size a : Nat} (h : ¬ (base ≤ a ∧ a < base + size)) : offsetIn base size a = none := if_neg h

theorem offsetWatched_in {watched : Bool} {base : Word} {size : Nat} {a : Word} (hw : watched = true)
    (h1 : base.toNat ≤ a.toNat) (h2 : a.toNat < base.toNat + size) :
    offsetWatched watched base size a = some (a.toNat - base.toNat) := by
  unfold offsetWatched; rw [if_pos hw]; exact offsetIn_in h1 h2
theorem offsetWatched_out {watched : Bool} {base : Word} {size : Nat} {a : Word}
    (h : watched = false ∨ ¬ (base.toNat ≤ a.toNat ∧ a.toNat < base.toNat + size)) :
    offsetWatched watched base size a = none := by
  unfold offsetWatched
  split
  · next hw => exact offsetIn_out (h.resolve_left (by rw [hw]; decide))
  · rfl

theorem tablesWatched_iff (s : State) : s.tablesWatched = true ↔
    s.part.state = .active ∨ s.part.state = .loading ∧ s.part.phase = .records := by
  unfold State.tablesWatched; simp

namespace State

variable (s : State) (a : Word)

/-- An address in the anchor window has the class its offset gives, in every part state. -/
theorem classify_anchor (o : Nat) (h : a.toNat = anchorBase s.path.straps + o) (ho : o < 0x10000) :
    s.classify a = anchorClass o := by
  have hi : offsetIn (anchorBase s.path.straps) 0x10000 a.toNat = some o := by
    rw [offsetIn_in (by omega) (by omega)]
    exact congrArg some (by omega)
  unfold classify
  rw [hi]
  rfl

/-! ### Feeds follow a write beat (R136) -/

/-- Tracking changes the feeds alone. -/
theorem trackFeeds_eq (b : WriteBeat) : s.trackFeeds b = { s with feeds := (s.trackFeeds b).feeds } := by
  unfold trackFeeds
  generalize List.range Config.numFeeds = l
  induction l generalizing s with
  | nil => rfl
  | cons i l ih =>
    simp only [List.foldl_cons]
    rw [ih]
    split <;> rfl

theorem feed_foldl_track (b : WriteBeat) (l : List Nat) (hl : l.Nodup) (u : State) (f : Nat) :
    (l.foldl (fun s i => if (s.feed i).counts b then s.setFeed i ((s.feed i).track b s.tick) else s) u).feed f =
      if f ∈ l ∧ (u.feed f).counts b = true then (u.feed f).track b u.tick else u.feed f := by
  induction l generalizing u with
  | nil => simp
  | cons i l ih =>
    obtain ⟨hi, hl⟩ := List.nodup_cons.1 hl
    rw [List.foldl_cons, ih hl]
    by_cases hf : f = i
    · subst hf
      by_cases hc : (u.feed f).counts b = true <;> simp [hi, hc]
    · by_cases hc : (u.feed i).counts b = true <;> simp [hf, hc]

/-- A feed after a write beat: moved on if it is counted for it. -/
@[simp] theorem feed_trackFeeds (b : WriteBeat) (f : Nat) : (s.trackFeeds b).feed f =
    if f < Config.numFeeds ∧ (s.feed f).counts b = true then (s.feed f).track b s.tick else s.feed f := by
  unfold trackFeeds
  rw [feed_foldl_track b _ List.nodup_range]
  simp only [List.mem_range]

@[simp] theorem frame_trackFeeds {cs : List Component} {t : State} (h : Changes cs s t) (b : WriteBeat) (hc : .feeds ∈ cs) :
    Changes cs s (t.trackFeeds b) := by
  rw [trackFeeds_eq]
  exact h.into (ds := [.feeds]) ⟨fun c hk => by cases c <;> simp_all [Component.agree]⟩ (by simpa using hc)

/-! ### Beats -/

theorem exec_presents {i : Instr} {b : Beat} (h : presents i b) (s : State) : exec i s = beatEvent b s := by
  rcases h with ⟨w, rfl, rfl | rfl | rfl⟩ | ⟨r, rfl, rfl | rfl⟩ <;> rfl

/-- A beat outside RESET is presented (R145, R146, R149). -/
theorem exec_beat {i : Instr} {b : Beat} (h : presents i b) {s : State} (ha : s.path.resetAsserted = false) :
    exec i s = .next (s.present b).settle := by
  rw [exec_presents h]
  unfold beatEvent event
  simp [ha]

/-- A beat that need not wait is accepted at once. -/
theorem present_accept {s : State} {b : Beat} (hw : s.path.waiting = []) (hm : s.mustHold b = false) :
    s.present b = s.accept b := by
  unfold present
  simp [hw, hm]

/-- An accepted write is acted on and forwarded unchanged (R145). -/
theorem accept_write (s : State) (b : WriteBeat) :
    s.accept (.write b) = ((s.trackFeeds b).takeWrite (s.classify b.address) b).forwardBeat (.write b) := by
  unfold accept actOnWrite; rfl

theorem takeWrite_command {cls : WordClass} {x : RecordKind × Nat × Bool} (h : cls.command = some x) (s : State)
    (b : WriteBeat) : s.takeWrite cls b = s.makeEntry x b := by
  unfold takeWrite; rw [h]

theorem takeWrite_staging {cls : WordClass} (h : cls.command = none) (s : State) (b : WriteBeat) :
    s.takeWrite cls b = { s with staging := s.staging.write cls b }.noteHostWrite cls.loadWord b := by
  unfold takeWrite; rw [h]

/-- A host write noted changes the outstanding loading burst alone. -/
theorem noteHostWrite_eq (s : State) (w : Option LoadWord) (b : WriteBeat) :
    s.noteHostWrite w b = { s with part := { s.part with burst := (s.noteHostWrite w b).part.burst } } := by
  unfold noteHostWrite; split <;> rfl

end State

/-! ### Lanes (R145, R147) -/

theorem extract_laneMask (e : BitVec 4) (i : Nat) (hi : i < 4) :
    (laneMask e).extractLsb' (8 * i) 8 = if e.getLsbD i = true then 0xFF#8 else 0#8 := by
  match i, hi with
  | 0, _ => revert e; decide
  | 1, _ => revert e; decide
  | 2, _ => revert e; decide
  | 3, _ => revert e; decide

theorem extract_and (x y : Word) (n : Nat) : (x &&& y).extractLsb' n 8 = x.extractLsb' n 8 &&& y.extractLsb' n 8 := by
  ext i hi; simp
theorem extract_or (x y : Word) (n : Nat) : (x ||| y).extractLsb' n 8 = x.extractLsb' n 8 ||| y.extractLsb' n 8 := by
  ext i hi; simp
theorem extract_not (x : Word) (i : Nat) (hi : i < 4) :
    (~~~x).extractLsb' (8 * i) 8 = ~~~(x.extractLsb' (8 * i) 8) := by
  ext j hj
  simp only [BitVec.getElem_extractLsb', BitVec.getElem_not, BitVec.getLsbD_not]
  rw [show decide (8 * i + j < 32) = true from decide_eq_true (by omega)]
  exact Bool.true_and _
theorem and_ones (x : Byte) : x &&& 0xFF#8 = x := BitVec.and_allOnes

/-- A merged word has the beat's data in the enabled lanes and the old word in the others. -/
theorem lanesWritten_merge (old : Word) (b : WriteBeat) : LanesWritten old b (mergeLanes old b) := by
  intro i hi
  unfold mergeLanes
  rw [extract_or, extract_and, extract_and, extract_not _ i hi, extract_laneMask _ i hi]
  split
  · rw [and_ones, show ~~~(0xFF#8 : Byte) = 0#8 from rfl, BitVec.and_zero, BitVec.or_zero]
  · rw [show ~~~(0#8 : Byte) = 0xFF#8 from rfl, and_ones, BitVec.and_zero, BitVec.zero_or]

/-- The word of an entry: the enabled lanes, the others 0 (R148). -/
theorem lanesWritten_entry (b : WriteBeat) : LanesWritten 0 b (b.data &&& laneMask b.enables) := by
  intro i hi
  rw [extract_and, extract_laneMask _ i hi]
  split
  · exact and_ones _
  · rw [BitVec.and_zero]
    ext j hj
    simp

end Sys2Proof.Machine
end

