-- ==== Sys2Proof/Laws/Loading.lean ====
section
/-! SUPPORT. What the library's latch, the words of a loading read, and the feeds at a completion leave (07 R114, 08 R135, 09
R153). -/

namespace Sys2Proof.Machine

theorem ite_of_iff {α} {p q : Prop} [Decidable p] [Decidable q] {x y u : α} (h : p ↔ q) (hx : q → x = y) :
    (if p then x else u) = if q then y else u := by
  by_cases hq : q
  · rw [if_pos hq, if_pos (h.2 hq), hx hq]
  · rw [if_neg hq, if_neg fun hp => hq (h.1 hp)]

theorem getD_map_range {α} (f : Nat → α) (n i : Nat) (d : α) (h : i < n) : ((List.range n).map f).getD i d = f i := by
  simp [List.getD, h]

namespace State

variable (s : State)

/-- The latch of the library staging (R114). -/
theorem libraryLatched_latchLibrary : LibraryLatched s s.latchLibrary.2 := by
  unfold LibraryLatched
  intro descriptor stored length loop words high
  refine ⟨?_, ?_⟩
  · intro n hn
    have : s.latchLibrary.2.segment n = (s.staging.segment n).1 := by
      show Table.read Segment.cold (Table.build Segment.cold 256 fun n => (s.staging.segment n).1) n = _
      rw [Table.read_build, if_pos hn]
    rw [this]
    have hw : ∀ i < 4, ((List.range 4).map fun w => Table.read 0 s.staging.segments (4 * n + w)).getD i 0 = descriptor n i :=
      fun i hi => getD_map_range _ _ _ _ hi
    unfold Staging.segment
    simp only [tripleField, wordField, byteField, show 4 / 4 = 1 from rfl, show 8 / 4 = 2 from rfl,
      show 0 / 4 = 0 from rfl, hw 0 (by decide), hw 1 (by decide), hw 2 (by decide)]
    refine congrArg (Segment.mk _ _ _) ?_
    rw [BitVec.getLsbD, Nat.testBit_eq_decide_div_mod_eq]
    generalize (descriptor n 1).toNat = x
    have : x / 2 ^ (8 * (7 % 4)) % 256 % 2 = x / 2 ^ 24 % 2 := by
      rw [show 2 ^ (8 * (7 % 4)) = 16777216 from rfl]; omega
    rw [this]; rfl
  · intro n hn
    have : s.latchLibrary.2.program n = (s.staging.program n).1 := by
      show Table.read Program.cold (Table.build Program.cold 64 fun n => (s.staging.program n).1) n = _
      rw [Table.read_build, if_pos hn]
    rw [this]
    have hstep : ∀ i, i < 16 → (s.staging.program n).1.steps.getD i {} = (stepOf (words n) (64 + 12 * i)).1 := by
      intro i hi
      unfold Staging.program
      simp only
      rw [List.map_map]
      exact getD_map_range _ _ _ _ hi
    have hhigh : ∀ i, (stepOf (words n) (64 + 12 * i)).2 = true ↔ high n i := by
      intro i
      unfold stepOf
      simp only [Bool.and_eq_true, beq_iff_eq, decide_eq_true_eq]
      have : stepKindOf (byteField (words n) (64 + 12 * i)) = .tone ↔ byteField (words n) (64 + 12 * i) = 6 := by
        generalize byteField (words n) (64 + 12 * i) = b
        unfold stepKindOf; split <;> simp_all
      rw [this]
    refine ⟨rfl, rfl, fun b hb => getD_map_range _ _ _ _ hb, fun b hb => getD_map_range _ _ _ _ hb, ?_⟩
    intro i hi g hg
    rw [hstep i hi] at hg
    have hh := hhigh i
    rw [← hg]
    refine ⟨rfl, rfl, rfl, rfl, rfl, ?_, ?_⟩
    · intro hx
      have := hh.2 hx
      unfold stepOf at this ⊢; simp only at this ⊢
      rw [if_pos this]
    · intro hx
      have := mt hh.1 hx
      unfold stepOf at this ⊢; simp only at this ⊢
      rw [if_neg this]

/-- A latch is seen through the staging before and the library after. -/
theorem libraryLatched_congr {s t u v : State} (hs : u.staging = s.staging) (h1 : ∀ n, v.segment n = t.segment n)
    (h2 : ∀ n, v.program n = t.program n) (h : LibraryLatched s t) : LibraryLatched u v := by
  unfold LibraryLatched at h ⊢
  rw [hs]
  simp only [h1, h2]
  exact h

/-- The completion's feeds: each of the four takes its latched values (R135). -/
theorem feed_loadFeeds (j : Nat) :
    s.loadFeeds.feed j = if j < 4 then (s.feed j).loaded (s.part.config.feeds.getD j {}) s.tick else s.feed j := by
  unfold loadFeeds Config.numFeeds
  rw [show List.range 4 = [0, 1, 2, 3] from rfl]
  simp only [List.foldl_cons, List.foldl_nil]
  by_cases h0 : j = 0
  · subst h0; simp [tick]
  · by_cases h1 : j = 1
    · subst h1; simp [tick]
    · by_cases h2 : j = 2
      · subst h2; simp [tick]
      · by_cases h3 : j = 3
        · subst h3; simp [tick]
        · simp [h0, h1, h2, h3, show ¬ j < 4 by omega]

/-- Feeds alone change. -/
theorem loadFeeds_eq : s.loadFeeds = { s with feeds := s.loadFeeds.feeds } := by
  unfold loadFeeds
  generalize List.range Config.numFeeds = l
  induction l generalizing s with
  | nil => rfl
  | cons i l ih => simp only [List.foldl_cons]; rw [ih]; rfl

theorem part_completeLoading : s.completeLoading.part =
    { s.part with state := .active, phase := .none, cursor := none, burst := none } := by
  unfold completeLoading
  rw [loadFeeds_eq]
  rfl

theorem staging_completeLoading : s.completeLoading.staging = s.staging := by
  unfold completeLoading
  rw [loadFeeds_eq]
  rfl

theorem frame_completeLoading : Changes ([.partState, .loading, .library] ++ liveState) s s.completeLoading := by
  unfold completeLoading
  rw [loadFeeds_eq]
  constructor; intro k hk; cases k <;>
    first | exact absurd (by decide) hk | exact rfl | exact ⟨rfl, rfl⟩ | exact ⟨rfl, rfl, rfl, rfl, rfl⟩

theorem libraryLatched_completeLoading : LibraryLatched s s.completeLoading := by
  refine libraryLatched_congr (s := s.dropLive) rfl ?_ ?_ (libraryLatched_latchLibrary s.dropLive) <;> intro n <;>
    unfold completeLoading <;> rw [loadFeeds_eq] <;> rfl

theorem liveDropped_completeLoading (h : Canonical s) : LiveDropped s s.completeLoading := by
  refine (liveDropped_dropLive s h).congr ?_
  unfold completeLoading
  rw [loadFeeds_eq]
  exact ⟨rfl, rfl, rfl, rfl, rfl, rfl, rfl, rfl, rfl, rfl⟩

theorem feed_completeLoading (h : Canonical s) (j : Nat) (hj : j < 4) : s.completeLoading.feed j =
    let c := s.part.config.feeds.getD j {}
    if c.enable = true then
      { latched := c, state := .arming, head := c.ringStart, lastWrite := s.tick, settleCount := 0, settling := false
        ticksTaken := caughtUp (s.feed j).ticksTaken s.tick }
    else { s.feed j with latched := c, state := .off, lastWrite := 0, settleCount := 0, settling := false } := by
  have h1 : s.completeLoading.feed j = s.dropLive.latchLibrary.2.loadFeeds.feed j := rfl
  have h2 : s.dropLive.latchLibrary.2.feed j = _ := feedsOff_dropLive s h j
  rw [h1, feed_loadFeeds, if_pos hj, h2]
  show Feed.loaded _ (s.part.config.feeds.getD j {}) s.tick = _
  unfold Feed.loaded
  rfl

end State

/-- A loading read's word in its table: the entry of its record and word. -/
def LoadWord.entry (w : LoadWord) : Nat :=
  match w.table with
  | .config => w.word
  | .queue => 32 * w.index + w.word
  | .agent => 16 * w.index + w.word
  | .call => 16 * w.index + w.word

/-- The staging table a loading read goes to. -/
def Staging.loaded (g : Staging) : LoadTable → Table Word
  | .config => g.config
  | .queue => g.queues
  | .agent => g.agents
  | .call => g.calls

/-- One arriving word. -/
theorem Staging.loaded_load (g : Staging) (w : LoadWord) (d : Word) (tbl : LoadTable) (n : Nat) :
    Table.read 0 ((g.load w d).loaded tbl) n = if tbl = w.table ∧ n = w.entry then d else Table.read 0 (g.loaded tbl) n := by
  unfold Staging.load Staging.loaded LoadWord.entry
  cases hw : w.table <;> cases tbl <;> simp [Table.read_write]

/-- An arriving word under the writes noted for it, lane by lane. -/
theorem LoadBurst.leaves_laid (b : LoadBurst) (k : Nat) (d : Word) : b.Leaves k d (b.laid k d) := by
  intro i hi
  unfold LoadBurst.laid
  generalize b.hostWrote = l
  induction l generalizing d with
  | nil => rfl
  | cons e l ih =>
    rw [List.foldl_cons, ih]
    by_cases hk : e.1 = k
    · rw [if_pos hk]
      cases hl : e.2.enables.getLsbD i
      · rw [List.filter_cons_of_neg (by simp only [hl, Bool.and_false, Bool.false_eq_true, not_false_eq_true]),
          lanesWritten_merge _ _ i hi, if_neg (by simp only [hl, Bool.false_eq_true, not_false_eq_true])]
      · rw [List.filter_cons_of_pos (by simp only [hl, hk, beq_self_eq_true, Bool.and_self]), List.getLast?_cons,
          lanesWritten_merge _ _ i hi, if_pos hl]
        cases (l.filter fun e => e.1 == k && e.2.enables.getLsbD i).getLast? <;> rfl
    · rw [if_neg hk, List.filter_cons_of_neg (by simp [hk])]

/-- The words of a burst from word `k` on, as one word `e` of staging sees them. -/
theorem Staging.loaded_loadWords (b : LoadBurst) (e : LoadWord) (l : List Word) (g : Staging) (k : Nat)
    (hsame : ∀ j, k ≤ j → j < k + l.length → e.table = b.first.table →
      e.entry = LoadWord.entry { b.first with word := j } → e.index = b.first.index ∧ e.word = j) :
    Table.read 0 ((g.loadWords b k l).loaded e.table) e.entry =
      if b.first.table = e.table ∧ b.first.index = e.index ∧ k ≤ e.word ∧ e.word < k + l.length then
        b.laid e.word (l.getD (e.word - k) 0)
      else Table.read 0 (g.loaded e.table) e.entry := by
  induction l generalizing g k with
  | nil => rw [if_neg]; rfl; simp only [List.length_nil]; omega
  | cons d ds ih =>
    unfold Staging.loadWords
    rw [ih _ _ fun j h1 h2 => hsame j (by omega) (by simp only [List.length_cons]; omega)]
    simp only [List.length_cons]
    have hbase : Table.read 0 ((g.load { b.first with word := k } (b.laid k d)).loaded e.table) e.entry =
        if b.first.table = e.table ∧ b.first.index = e.index ∧ e.word = k then b.laid k d
        else Table.read 0 (g.loaded e.table) e.entry := by
      rw [Staging.loaded_load]
      refine ite_of_iff ⟨?_, ?_⟩ fun _ => rfl
      · rintro ⟨h1, h2⟩
        have := hsame k (Nat.le_refl k) (by simp) h1 h2
        exact ⟨h1.symm, this.1.symm, this.2⟩
      · rintro ⟨h1, h2, h3⟩
        refine ⟨h1.symm, ?_⟩
        unfold LoadWord.entry
        simp only [h1, h2, h3]
    rw [hbase]
    by_cases hw : e.word = k
    · rw [if_neg (by omega)]
      refine ite_of_iff ⟨?_, ?_⟩ ?_
      · rintro ⟨h1, h2, h3⟩
        exact ⟨h1, h2, by omega, by omega⟩
      · rintro ⟨h1, h2, h3, h4⟩
        exact ⟨h1, h2, hw⟩
      · rintro _; rw [hw]; simp
    · rw [if_neg (c := b.first.table = e.table ∧ b.first.index = e.index ∧ e.word = k) fun h => hw h.2.2]
      refine ite_of_iff ⟨?_, ?_⟩ ?_
      · rintro ⟨h1, h2, h3, h4⟩
        exact ⟨h1, h2, by omega, by omega⟩
      · rintro ⟨h1, h2, h3, h4⟩
        exact ⟨h1, h2, by omega, by omega⟩
      · rintro ⟨h1, h2, h3, h4⟩
        rw [show e.word - k = (e.word - (k + 1)) + 1 by omega]; rfl

/-- The words of a loading read that lies in one record. -/
theorem State.wordsLoaded_takeLoad (s : State) (b : LoadBurst) (data : List Word) (hl : data.length = b.beats)
    (hb : b.Within) : WordsLoaded b data s (s.takeLoad b data) := by
  obtain ⟨-, -, hw⟩ := hb
  have hrun : (s.takeLoad b data).staging = s.staging.loadWords b b.first.word data := rfl
  have keep : ∀ (l : List Word) (g : Staging) (k : Nat),
      (g.loadWords b k l).segments = g.segments ∧ (g.loadWords b k l).programs = g.programs := by
    intro l
    induction l with
    | nil => intro g k; exact ⟨rfl, rfl⟩
    | cons d ds ih =>
      intro g k
      unfold Staging.loadWords
      rw [(ih _ _).1, (ih _ _).2]
      unfold Staging.load
      split <;> exact ⟨rfl, rfl⟩
  have main (e : LoadWord) (he : e.table = .config → e.index = 0) (hlt : e.table = .queue → e.word < 32)
      (hlt' : e.table = .agent ∨ e.table = .call → e.word < 16) :
      if b.first.table = e.table ∧ b.first.index = e.index ∧ b.first.word ≤ e.word ∧
          e.word < b.first.word + data.length then
        b.Leaves e.word (data.getD (e.word - b.first.word) 0)
          (Table.read 0 ((s.takeLoad b data).staging.loaded e.table) e.entry)
      else
        Table.read 0 ((s.takeLoad b data).staging.loaded e.table) e.entry = Table.read 0 (s.staging.loaded e.table) e.entry := by
    rw [hrun, Staging.loaded_loadWords]
    · split
      · exact b.leaves_laid _ _
      · rfl
    intro j h1 h2 h3 h4
    have ho := hw j h1 (by omega)
    unfold LoadWord.Owned at ho
    unfold LoadWord.entry at h4
    rw [← h3] at h4 ho
    cases ht : e.table <;> simp only [ht] at h4 ho
    · exact ⟨by rw [he ht, ho.1], h4⟩
    · have := hlt ht; omega
    · have := hlt' (.inl ht); omega
    · have := hlt' (.inr ht); omega
  refine ⟨?_, ?_, ?_, ?_, ?_, ?_⟩
  · intro w; exact main { table := .config, index := 0, word := w } (fun _ => rfl) (by simp) (by simp)
  · intro q w h; exact main { table := .queue, index := q, word := w } (by simp) (fun _ => h) (by simp)
  · intro q w h; exact main { table := .agent, index := q, word := w } (by simp) (by simp) (fun _ => h)
  · intro q w h; exact main { table := .call, index := q, word := w } (by simp) (by simp) (fun _ => h)
  · rw [hrun]; exact (keep _ _ _).1
  · rw [hrun]; exact (keep _ _ _).2

end Sys2Proof.Machine
end

