-- ==== Sys2Proof/Laws/Steps.lean ====
section
/-! SUPPORT. What an execution can do, once for all commands: most write records, post events and add triggers alone, after
the oldest intake entry has left where they take one; the others are named. -/

namespace Sys2Proof.Machine

/-- The commands that change more of the state than records, events, triggers and the intake's oldest entry. -/
def special : Instr → Bool
  | .enable | .disable | .restart | .libraryApply | .eventPop | .summaryClear | .timebaseClear => true
  | .commandWordWrite _ | .heldCommandBeat | .stagingWrite _ | .feedCountedWrite _ | .voiceRead _ | .eventWindowRead _ => true
  | .fsyncPulse _ | .referencePeriodEnd | .timebaseSubst | .tick => true
  | .agentTrigger | .callTrigger | .commit => true
  | .configReadDone _ | .loadingReadGrant _ | .loadingReadDone _ | .loadFault => true
  | .reset | .resetRelease _ => true
  | _ => false

/-- What an event answers while RESET is not asserted, or while it is. -/
theorem next_of_event {s t : State} {f : State → State} (h : event s f = .next t) : t = s ∨ t = (f s).settle := by
  unfold event at h
  split at h
  · exact .inl (by simpa using h.symm)
  · exact .inr (by simpa using h.symm)

theorem ownServable_iff (s : State) : s.ownServable = true ↔ OwnServable s := by
  unfold State.ownServable State.loadServable State.fetchServable OwnServable
  simp [Option.isSome_iff_ne_none, and_assoc]
  rw [or_comm]

/-- Whatever an event does, its end leaves the arbiter's count at 0 unless a servable request of the part's own stands. -/
theorem passCountRests_settle (s : State) : PassCountRests s.settle := by
  intro h
  unfold State.settle at h ⊢
  split at h
  · next ho => exact absurd ((ownServable_iff s).1 ho) h
  · next ho => rw [if_neg ho]

theorem passCountRests_event {s t : State} {f : State → State} (h : PassCountRests s) (he : event s f = .next t) :
    PassCountRests t := by
  rcases next_of_event he with rfl | rfl
  · exact h
  · exact passCountRests_settle _

theorem touches_dropEntry {s t : State} (h : Touches s.dropOldest t) (e : IntakeEntry) :
    Touches s.dropOldest (t.modifyPending e (· - 1)) := touches_modifyPending h e _

/-- A record command's execution (R150). -/
theorem touches_executeRecord {body : IntakeEntry → State → ResultCode × State}
    (hb : ∀ (s t : State), Touches s t → ∀ e, Touches s (body e t).2) (s : State) (e : IntakeEntry) :
    Touches s.dropOldest (s.executeRecord e body) := by
  have h : Touches s.dropOldest (s.dropEntry e) := touches_dropEntry .refl e
  unfold State.executeRecord
  dsimp only
  split
  · exact touches_writeResult h _ _
  · split
    · exact touches_writeResult h _ _
    · exact touches_writeResult (hb _ _ h e) _ _

theorem touches_recordCommand {kind : RecordKind} {code : Byte} {body : IntakeEntry → State → ResultCode × State}
    (hb : ∀ (s t : State), Touches s t → ∀ e, Touches s (body e t).2) {s t : State}
    (h : recordCommand kind code body s = .next t) : Touches s t ∨ Touches s.dropOldest t := by
  unfold recordCommand at h
  rcases next_of_event h with rfl | rfl
  · exact .inl .refl
  · split
    · exact .inl (touches_settle .refl)
    · split
      · exact .inr (touches_settle (touches_executeRecord hb _ _))
      · exact .inl (touches_settle .refl)

theorem touches_partCommand {code : Byte} {allowed : PartState → Bool} {body : IntakeEntry → State → ResultCode × State}
    (hb : ∀ (s t : State), Touches s t → ∀ e, Touches s (body e t).2) {s t : State}
    (h : partCommand code allowed (answering body) s = .next t) : Touches s t ∨ Touches s.dropOldest t := by
  unfold partCommand at h
  rcases next_of_event h with rfl | rfl
  · exact .inl .refl
  · split
    · exact .inl (touches_settle .refl)
    · split
      · rename_i e _ _ _
        have hd : Touches s.dropOldest (s.dropEntry e) := touches_dropEntry .refl e
        refine .inr (touches_settle ?_)
        unfold State.executePart
        dsimp only
        split
        · exact touches_writeResult hd _ _
        · split
          · exact touches_writeResult hd _ _
          · exact touches_writeResult (hb _ _ hd e) _ _
      · exact .inl (touches_settle .refl)

theorem touches_event {s t : State} {f : State → State} (hf : Touches s (f s)) (h : event s f = .next t) : Touches s t := by
  rcases next_of_event h with rfl | rfl
  · exact .refl
  · exact touches_settle hf

theorem touches_passThroughBeatGrant {s t : State} (h : execPassThroughBeatGrant s = .next t) : Touches s t := by
  unfold execPassThroughBeatGrant at h
  split at h
  · have := (Host.Outcome.next.inj h); subst this; exact .refl
  · split at h
    · have := (Host.Outcome.next.inj h); subst this; exact touches_path .refl _
    · split at h
      · have := (Host.Outcome.next.inj h); subst this; exact .refl
      · have := (Host.Outcome.next.inj h); subst this; exact touches_path .refl _

theorem touches_dueEvent {kind : DeadlineKind} {s t : State} (h : dueEvent kind s = .next t) : Touches s t := by
  unfold dueEvent at h
  refine touches_event ?_ h
  repeat' split
  all_goals simp [Touches.refl]

/-- Every command but the special ones. -/
theorem exec_touches {i : Instr} (hi : special i = false) {s t : State} (h : exec i s = .next t) :
    Touches s t ∨ Touches s.dropOldest t := by
  cases i <;> first | (simp [special] at hi; done) | skip
  case enqueue => exact touches_recordCommand (fun _ _ h e => touches_enqueueBody h e) h
  case abandon => exact touches_recordCommand (fun _ _ h e => touches_abandonBody h e) h
  case answer => exact touches_recordCommand (fun _ _ h e => touches_answerBody h e) h
  case noAnswer => exact touches_recordCommand (fun _ _ h e => touches_noAnswerBody h e) h
  case hold => exact touches_recordCommand (fun _ _ h e => touches_holdBody h e) h
  case resume => exact touches_recordCommand (fun _ _ h e => touches_resumeBody h e) h
  case transfer => exact touches_recordCommand (fun _ _ h e => touches_transferBody h e) h
  case release => exact touches_recordCommand (fun _ _ h e => touches_releaseBody h e) h
  case priority => exact touches_recordCommand (fun _ _ h e => touches_priorityBody h e) h
  case announce => exact touches_recordCommand (fun _ _ h e => touches_announceBody h e) h
  case login => exact touches_recordCommand (fun _ _ h e => touches_loginBody h e) h
  case ready => exact touches_recordCommand (fun _ _ h e => touches_readyBody h e) h
  case notReady => exact touches_recordCommand (fun _ _ h e => touches_notReadyBody h e) h
  case logout => exact touches_recordCommand (fun _ _ h e => touches_logoutBody h e) h
  case skills => exact touches_recordCommand (fun _ _ h e => touches_skillsBody h e) h
  case extendWrap => exact touches_recordCommand (fun _ _ h e => touches_extendWrapBody h e) h
  case openQueue => exact touches_recordCommand (fun _ _ h e => touches_openBody h e) h
  case closeQueue => exact touches_recordCommand (fun _ _ h e => touches_closeBody h e) h
  case pauseQueue => exact touches_recordCommand (fun _ _ h e => touches_pauseBody h e) h
  case unpauseQueue => exact touches_recordCommand (fun _ _ h e => touches_unpauseBody h e) h
  case applyQueue => exact touches_recordCommand (fun _ _ h e => touches_applyBody h e) h
  case resetCounters => exact touches_recordCommand (fun _ _ h e => touches_resetCountersBody h e) h
  case feedClear => exact touches_partCommand (fun _ _ h e => touches_feedClearBody h e) h
  case flagWrite =>
    change execFlagWrite s = _ at h
    unfold execFlagWrite at h
    rcases next_of_event h with rfl | rfl
    · exact .inl .refl
    · split
      · exact .inl (touches_settle .refl)
      · split
        · exact .inr (touches_settle (touches_executeRecord (fun _ _ h e => touches_flagWriteBody h e) _ _))
        · exact .inl (touches_settle .refl)
  case unknownCommand =>
    change execUnknownCommand s = _ at h
    unfold execUnknownCommand at h
    rcases next_of_event h with rfl | rfl
    · exact .inl .refl
    · split
      · exact .inl (touches_settle .refl)
      · split
        · exact .inr (touches_settle (touches_writeResult (touches_dropEntry .refl _) _ _))
        · exact .inl (touches_settle .refl)
  case passThroughBeatGrant => exact .inl (touches_passThroughBeatGrant h)
  all_goals left
  case offerExpiry => exact touches_dueEvent h
  case maxWaitDue => exact touches_dueEvent h
  case overflowDue => exact touches_dueEvent h
  case agentTick a =>
    change execAgentTick a s = _ at h
    unfold execAgentTick at h
    split at h
    · cases h
    · refine touches_event ?_ h; split <;> simp [Touches.refl]
  case wrapCountdownEnd a =>
    change execWrapCountdownEnd a s = _ at h
    unfold execWrapCountdownEnd at h
    split at h
    · cases h
    · refine touches_event ?_ h; split <;> simp [Touches.refl]
  case ewtRepublish a =>
    change execEwtRepublish a s = _ at h
    unfold execEwtRepublish at h
    split at h
    · cases h
    · refine touches_event ?_ h; split <;> simp [Touches.refl]
  case handleTimeSample n =>
    change execHandleTimeSample n s = _ at h
    unfold execHandleTimeSample at h
    refine touches_event ?_ h
    split
    · exact .refl
    · exact touches_takeSample (touches_samples .refl _) _
  case queueTrigger =>
    change execQueueTrigger s = _ at h
    unfold execQueueTrigger at h
    refine touches_event ?_ h
    repeat' split
    all_goals simp [Touches.refl]
  case generatedGroup k =>
    change execGeneratedGroup k s = _ at h
    unfold execGeneratedGroup at h
    split at h
    · cases h
    · refine touches_event ?_ h; split <;> simp [Touches.refl]
  case interjectionTick k =>
    change execInterjectionTick k s = _ at h
    unfold execInterjectionTick at h
    split at h
    · cases h
    · refine touches_event ?_ h; split <;> simp [Touches.refl]
  case interjection k =>
    change execInterjection k s = _ at h
    unfold execInterjection at h
    split at h
    · cases h
    · refine touches_event ?_ h; split <;> simp [Touches.refl]
  case fetchGrant =>
    change execFetchGrant s = _ at h
    unfold execFetchGrant at h
    refine touches_event ?_ h
    repeat' split
    all_goals simp [Touches.refl]
  case burstArrival a b =>
    change execBurstArrival a b s = _ at h
    unfold execBurstArrival at h
    refine touches_event ?_ h
    split
    · exact .refl
    · exact touches_arrive .refl _ fun u hu => touches_place hu _ _
  case fetchError =>
    change execFetchError s = _ at h
    unfold execFetchError at h
    refine touches_event ?_ h
    split
    · exact .refl
    · exact touches_arrive .refl _ fun u hu => touches_fetchFailed hu _
  case feedArmingTick k =>
    change execFeedArmingTick k s = _ at h
    unfold execFeedArmingTick at h
    split at h
    · cases h
    · refine touches_event ?_ h; repeat' split
      all_goals simp [Touches.refl]
  case armingRestart k =>
    change execArmingRestart k s = _ at h
    unfold execArmingRestart at h
    split at h
    · cases h
    · refine touches_event ?_ h; split <;> simp [Touches.refl]
  case feedArmed k =>
    change execFeedArmed k s = _ at h
    unfold execFeedArmed at h
    split at h
    · cases h
    · refine touches_event ?_ h; split <;> simp [Touches.refl]
  case feedMissing k =>
    change execFeedMissing k s = _ at h
    unfold execFeedMissing at h
    split at h
    · cases h
    · refine touches_event ?_ h; split <;> simp [Touches.refl]

/-! ### A property that every step keeps -/

/-- The Time Base after an event is in its ranges when it was before. -/
def ClockMoves (a b : TimeBase) : Prop :=
  (a.frames < Config.framesPerTick ∧ a.history.length = 8 ∧ a.silence ≤ 8) →
    b.frames < Config.framesPerTick ∧ b.history.length = 8 ∧ b.silence ≤ 8

/-- The loading reads after an event: none, the start of a read, or where they were. -/
def LoadMoves (p q : PartControl) : Prop :=
  (∀ w, q.cursor = some w → w.word = 0 ∧ w.index = 0 ∨ p.cursor = some w) ∧
    ∀ b, q.burst = some b → p.burst = some b

/-- What a property needs for every step to keep it: that the plain updates keep it, and each of the special ones. -/
structure Kept (I : State → Prop) : Prop where
  touches : ∀ {s t}, I s → Touches s t → I t
  dropOldest : ∀ {s}, I s → I s.dropOldest
  clock : ∀ {s}, I s → ∀ u, ClockMoves s.time u → I (s.setTime u)
  accept : ∀ {s}, I s → ∀ b, s.mustHold b = false → I (s.accept b)
  propose : ∀ {s}, I s → ∀ p, s.engine.proposal = none → s.events.dispatch.length < Config.dispatchDepth → I (s.propose p)
  endProposal : ∀ {s}, I s → I s.endProposal
  makeOffer : ∀ {s}, I s → ∀ p, s.engine.proposal = some p → I (s.makeOffer p)
  dispatchTail : ∀ {s}, I s → ∀ x,
    I { s with events := { s.events with dispatch := s.events.dispatch.tail, shown := x } }
  noticesTail : ∀ {s}, I s → ∀ x,
    I { s with events := { s.events with notices := s.events.notices.tail, shown := x } }
  summaries : ∀ {s}, I s → ∀ v l, I { s with events := { s.events with summaries := v, lost := l } }
  dropLive : ∀ {s}, I s → I s.dropLive
  latchLibrary : ∀ {s}, I s → I s.latchLibrary.2
  part : ∀ {s}, I s → ∀ p, LoadMoves s.part p → I { s with part := p }
  issueLoad : ∀ {s}, I s → ∀ w n, s.part.cursor = some w → 1 ≤ n → n ≤ 4 → I (s.issueLoad w n)
  takeLoad : ∀ {s}, I s → ∀ b data, s.part.burst = some b → I (s.takeLoad b data)
  coldPart : ∀ {s}, I s → ∀ straps, s.path.resetAsserted = true →
    I { State.reset with
      pending := s.pending, freeIndex := s.freeIndex
      path := { State.reset.path with straps := straps, forward := s.path.forward } }

namespace Kept

variable {I : State → Prop} (k : Kept I)
include k

theorem settle {s : State} (h : I s) : I s.settle := k.touches h (touches_settle .refl)

theorem event {s t : State} {f : State → State} (h : I s) (hf : I (f s)) (he : Machine.event s f = .next t) : I t := by
  rcases next_of_event he with rfl | rfl
  · exact h
  · exact k.settle hf

theorem writeResult {s : State} (h : I s) (e : IntakeEntry) (r : ResultCode) : I (s.writeResult e r) :=
  k.touches h (touches_writeResult .refl e r)

theorem partCommand {code : Byte} {allowed : PartState → Bool} {body : IntakeEntry → State → State}
    (hb : ∀ (s : State) e, I s → I (body e s)) {s t : State} (h : I s)
    (he : Machine.partCommand code allowed body s = .next t) : I t := by
  unfold Machine.partCommand at he
  refine k.event h ?_ he
  split
  · exact h
  · split
    · rename_i e _ _ _
      have hd : I (s.dropEntry e) := k.touches (k.dropOldest h) (touches_dropEntry .refl e)
      unfold State.executePart
      dsimp only
      split
      · exact k.writeResult hd _ _
      · split
        · exact k.writeResult hd _ _
        · exact hb _ _ hd
    · exact h

theorem answering {body : IntakeEntry → State → ResultCode × State} (hb : ∀ (s : State) e, I s → I (body e s).2) (s : State)
    (e : IntakeEntry) (h : I s) : I (Machine.answering body e s) := k.writeResult (hb s e h) _ _

theorem failLoading {s : State} (h : I s) (e : ConfigError) : I (s.failLoading e) :=
  k.part (k.dropLive h) _ ⟨fun w hw => (by cases hw), fun b hb => by cases hb⟩

theorem latchConfig {s : State} (h : I s) : I s.latchConfig.2 := by
  unfold State.latchConfig
  dsimp only
  have h1 := k.part h { s.part with
    state := .loading, error := .none, config := configOf s.staging.configWords, phase := .records
    cursor := some { table := .queue, index := 0, word := 0 }, restartToken := none }
      ⟨fun w hw => .inl (by cases hw; exact ⟨rfl, rfl⟩), fun b hb => hb⟩
  split
  · exact h1
  · exact k.failLoading h1 _

theorem completeLoading {s : State} (h : I s) : I s.completeLoading :=
  k.part (k.touches (k.latchLibrary (k.dropLive h)) (touches_loadFeeds .refl)) _
    ⟨fun w hw => (by cases hw), fun b hb => by cases hb⟩

theorem answerRestart {s : State} (h : I s) (token : Option Byte) (r : ResultCode) : I (s.answerRestart token r) := by
  unfold State.answerRestart
  split
  · exact h
  · exact k.touches h (touches_setPartResult .refl _)

theorem beatEvent {s t : State} {b : Beat} (h : I s) (he : Machine.beatEvent b s = .next t) : I t := by
  unfold Machine.beatEvent at he
  split at he
  · cases he; exact k.touches h (touches_forwardBeat .refl b)
  · refine k.event h ?_ he
    unfold State.present
    split
    · exact k.touches h (touches_holdBeat .refl b)
    · split
      · exact k.touches h (touches_holdBeat .refl b)
      · exact k.accept h b (by simpa using ‹¬ s.mustHold b = true›)

theorem serve {s : State} (h : I s) (hr : s.engineReady = true) (p : Option Proposal) : I (s.serve p) := by
  unfold State.engineReady at hr
  simp only [Bool.and_eq_true, decide_eq_true_eq, Option.isNone_iff_eq_none] at hr
  have hp : I s.popTrigger := k.touches h (touches_popTrigger .refl)
  unfold State.serve
  split
  · exact hp
  · exact k.propose hp _ hr.1.2 hr.2

end Kept

theorem clockMoves_frame {a b : TimeBase} (h : ClockMoves a b) : ClockMoves a b.frame := by
  intro ha
  obtain ⟨h1, h2, h3⟩ := h ha
  unfold TimeBase.frame
  split
  · exact ⟨Nat.zero_lt_of_lt h1, h2, h3⟩
  · exact ⟨by simp only; omega, h2, h3⟩

theorem clockMoves_closePeriod (a : TimeBase) : ClockMoves a a.closePeriod := by
  rintro ⟨h1, h2, h3⟩
  refine ⟨h1, ?_, ?_⟩
  · unfold TimeBase.closePeriod; simp [h2]
  · unfold TimeBase.closePeriod; dsimp only; split <;> omega

theorem clockMoves_lock {a b : TimeBase} (h : ClockMoves a b) : ClockMoves a b.lock := by
  intro ha
  unfold TimeBase.lock
  split <;> exact h ha

namespace Kept

variable {I : State → Prop} (k : Kept I)
include k

theorem pulse {s : State} (h : I s) (early : Bool) : I (s.pulse early) := by
  unfold State.pulse
  refine k.clock h _ ?_
  have h1 : ClockMoves s.time { s.time with pulseSeen := true } := fun ha => ha
  dsimp only
  split
  · exact clockMoves_frame h1
  · exact h1

theorem lose {s : State} (h : I s) : I s.lose := by
  unfold State.lose
  have h1 : ClockMoves s.time { s.time.closePeriod with state := .substitute } := clockMoves_closePeriod s.time
  exact k.touches (k.clock h _ (clockMoves_frame (clockMoves_frame (clockMoves_frame h1)))) (touches_post .refl ..)

theorem endPeriodRef {s : State} (h : I s) : I s.endPeriodRef := by
  unfold State.endPeriodRef
  dsimp only
  have h1 := clockMoves_closePeriod s.time
  split
  · exact k.clock h _ (clockMoves_lock (clockMoves_frame h1))
  · exact k.clock h _ (clockMoves_frame h1)
  · split
    · exact k.lose h
    · exact k.clock h _ h1

/-- Every execution keeps it. -/
theorem exec {i : Instr} {s t : State} (h : I s) (he : Machine.exec i s = .next t) : I t := by
  cases hi : special i with
  | false =>
    rcases exec_touches hi he with ht | ht
    · exact k.touches h ht
    · exact k.touches (k.dropOldest h) ht
  | true =>
    have discard : I s.discardLoad :=
      k.part h _ ⟨fun w hw => .inr hw, fun b hb => hb⟩
    have unburst : I { s with part := { s.part with burst := none } } :=
      k.part h _ ⟨fun w hw => .inr hw, fun b hb => by cases hb⟩
    cases i <;> first | (simp [special] at hi; done) | skip
    case enable =>
      refine k.partCommand (body := Machine.answering enableBody) (k.answering fun s e h => ?_) h he
      unfold enableBody
      split
      · exact h
      · exact k.latchConfig h
    case disable =>
      refine k.partCommand (body := Machine.answering disableBody) (k.answering fun s e h => ?_) h he
      unfold disableBody
      split
      · exact h
      · exact k.part (k.dropLive h) _ ⟨fun w hw => (by cases hw), fun b hb => by cases hb⟩
    case restart =>
      refine k.partCommand (body := restartBody) (fun s e h => ?_) h he
      exact k.part (k.endProposal h) _ ⟨fun w hw => .inl (by cases hw; exact ⟨rfl, rfl⟩), fun b hb => by cases hb⟩
    case libraryApply =>
      exact k.partCommand (body := Machine.answering libraryApplyBody) (k.answering fun s e h => k.latchLibrary h) h he
    case eventPop =>
      refine k.partCommand (body := Machine.answering eventPopBody) (k.answering fun s e h => ?_) h he
      unfold eventPopBody
      dsimp only
      split
      · exact k.dispatchTail h _
      · split
        · exact k.noticesTail h _
        · exact h
    case summaryClear =>
      exact k.partCommand (body := Machine.answering summaryClearBody) (k.answering fun s e h => k.summaries h _ _) h he
    case timebaseClear =>
      refine k.partCommand (body := Machine.answering timebaseClearBody) (k.answering fun s e h => ?_) h he
      unfold timebaseClearBody
      split
      · exact h
      · exact h
      · split
        · exact k.touches (k.clock h { s.time with state := .external } fun ha => ha) (touches_post .refl ..)
        · exact h
    case commandWordWrite b => exact k.beatEvent h he
    case stagingWrite b => exact k.beatEvent h he
    case feedCountedWrite b => exact k.beatEvent h he
    case voiceRead b => exact k.beatEvent h he
    case eventWindowRead b => exact k.beatEvent h he
    case heldCommandBeat =>
      change execHeldCommandBeat s = _ at he
      unfold execHeldCommandBeat at he
      refine k.event h ?_ he
      split
      · exact h
      · split
        · exact h
        · rename_i b rest _ hm
          have hp : I { s with path := { s.path with waiting := rest } } := k.touches h (touches_path .refl _)
          refine k.accept hp b ?_
          have hm' : s.mustHold b = false := by simpa using hm
          cases b <;> exact hm'
    case fsyncPulse early => exact k.event (f := fun s => s.pulse early) h (k.pulse h early) he
    case referencePeriodEnd => exact k.event (f := State.endPeriodRef) h (k.endPeriodRef h) he
    case timebaseSubst =>
      change execTimebaseSubst s = _ at he
      unfold execTimebaseSubst at he
      refine k.event h ?_ he
      split
      · exact k.lose h
      · exact h
    case tick =>
      change execTick s = _ at he
      unfold execTick at he
      refine k.event h ?_ he
      split
      · split
        · exact k.pulse h _
        · exact k.endPeriodRef h
        · exact k.endPeriodRef h
      · exact h
    case agentTrigger =>
      change execAgentTrigger s = _ at he
      unfold execAgentTrigger at he
      refine k.event h ?_ he
      split
      · split
        · exact k.serve h ‹_› _
        · exact h
      · exact h
    case callTrigger =>
      change execCallTrigger s = _ at he
      unfold execCallTrigger at he
      refine k.event h ?_ he
      split
      · split
        · exact k.serve h ‹_› _
        · exact h
      · exact h
    case commit =>
      change execCommit s = _ at he
      unfold execCommit at he
      refine k.event h ?_ he
      split
      · exact h
      · split
        · exact k.makeOffer h _ ‹_›
        · unfold State.failCommit
          split
          · exact k.touches (k.endProposal h) (touches_addTrigger .refl _)
          · exact k.endProposal h
    case loadingReadGrant n =>
      change execLoadingReadGrant n s = _ at he
      unfold execLoadingReadGrant at he
      refine k.event h ?_ he
      split
      · split
        · exact h
        · rename_i hc _ w hw
          simp only [Bool.and_eq_true, decide_eq_true_eq] at hc
          exact k.issueLoad h w n hw hc.1.2 hc.2
      · exact h
    case loadingReadDone data =>
      change execLoadingReadDone data s = _ at he
      unfold execLoadingReadDone at he
      refine k.event h ?_ he
      split
      · exact discard
      · split
        · exact h
        · rename_i b hb
          split
          · exact h
          · split
            · exact k.completeLoading (k.takeLoad h b data hb)
            · exact k.takeLoad h b data hb
    case configReadDone data =>
      change execConfigReadDone data s = _ at he
      unfold execConfigReadDone at he
      refine k.event h ?_ he
      split
      · exact discard
      · split
        · exact h
        · rename_i b hb
          split
          · exact h
          · exact k.answerRestart (k.latchConfig (k.takeLoad h b data hb)) _ _
    case loadFault =>
      change execLoadFault s = _ at he
      unfold execLoadFault at he
      refine k.event h ?_ he
      split
      · exact discard
      · split
        · exact h
        · exact k.answerRestart (k.failLoading unburst _) _ _
    case reset =>
      change execReset s = _ at he
      unfold execReset at he
      split at he
      · cases he; exact h
      · cases he
        refine k.touches (k.part h { s.part with
          phase := .none, cursor := none, burst := none, discard := 0, restartToken := none }
            ⟨fun w hw => (by cases hw), fun b hb => by cases hb⟩) ?_
        exact touches_path (touches_fetch .refl none) _
    case resetRelease straps =>
      change execResetRelease straps s = _ at he
      unfold execResetRelease at he
      split at he
      · rename_i hr; cases he; exact k.coldPart h straps hr
      · cases he; exact h

/-- Every step keeps it. -/
theorem step {s t : State} (h : I s) (he : Machine.step s = .next t) : I t := by
  unfold Machine.step at he
  split at he
  · cases he; exact h
  · exact k.exec (k.touches h (touches_pending .refl _)) he

end Kept

end Sys2Proof.Machine
end

