-- ==== Sys2Proof/Tests/Slice0.lean ====
section
/-! SUPPORT. The model's own tests: the well-formedness smoke, small tests of one command each, most of them from the
worked sequences of the spec, and for every statement with hypotheses a state and operands that meet them. -/

namespace Sys2Proof.Tests

open Sys2Proof Sys2Proof.Machine

set_option maxRecDepth 100000

/-! ### Well-formedness: an ill-formed term for each check -/

theorem test_wf_unaligned_beats :
    WellFormed (.commandWordWrite ⟨0, 0x0FFF0102, 0, 15⟩) = false ∧ WellFormed (.stagingWrite ⟨0, 1, 0, 15⟩) = false ∧
      WellFormed (.feedCountedWrite ⟨0, 3, 0, 1⟩) = false ∧ WellFormed (.voiceRead ⟨0, 2, 15⟩) = false ∧
      WellFormed (.eventWindowRead ⟨0, 5, 15⟩) = false ∧ WellFormed (.voiceRead ⟨0, 4, 15⟩) = true := by decide

theorem test_wf_record_numbers :
    WellFormed (.agentTick 1024) = false ∧ WellFormed (.wrapCountdownEnd 1024) = false ∧ WellFormed (.ewtRepublish 64) = false ∧
      WellFormed (.generatedGroup 512) = false ∧ WellFormed (.interjectionTick 512) = false ∧
      WellFormed (.interjection 512) = false ∧ WellFormed (.feedArmingTick 4) = false ∧ WellFormed (.armingRestart 4) = false ∧
      WellFormed (.feedArmed 4) = false ∧ WellFormed (.feedMissing 4) = false ∧
      WellFormed (.agentTick 1023) = true ∧ WellFormed (.ewtRepublish 63) = true := by decide

theorem test_wf_burst_sizes :
    WellFormed (.loadingReadGrant 0) = false ∧ WellFormed (.loadingReadGrant 5) = false ∧
      WellFormed (.loadingReadDone []) = false ∧ WellFormed (.configReadDone [0, 0, 0, 0, 0]) = false ∧
      WellFormed (.loadingReadGrant 4) = true := by decide

/-! ### The desk of 11's last worked sequence, and what the tests are made of -/

def after (i : Instr) (s : State) : State :=
  match exec i s with
  | .next t => t
  | _ => s

def runs (i : Instr) (s : State) : Bool :=
  match exec i s with
  | .next _ => true
  | _ => false

/-- A command word written with token 0x11. -/
def entry (kind : RecordKind) (index code argument : Nat) (snapshot : List Word) : IntakeEntry :=
  { kind := kind, index := index, flagWord := false, word := BitVec.ofNat 32 (code + 0x1100 + 65536 * argument), torn := false
    snapshot := snapshot }

def flagEntry (agent : Nat) (word : Word) : IntakeEntry :=
  { kind := .agent, index := agent, flagWord := true, word := word, torn := false, snapshot := [] }

def callFields (priority target queueProgram holdProgram channel segment offerAgent : Nat) : List Word :=
  [BitVec.ofNat 32 (priority + 256 * target + 65536 * queueProgram + 16777216 * holdProgram),
    BitVec.ofNat 32 (channel + 65536 * segment), BitVec.ofNat 32 offerAgent, 0]

/-- The entry waits alone in the intake. -/
def gets (s : State) (e : IntakeEntry) : State := { s with intake := [e] }

theorem handed {s : State} {e : IntakeEntry} {kind : RecordKind} {code : Byte}
    (h : (!s.path.resetAsserted && e.kind == kind && !e.flagWord && e.code == code && !e.torn) = true) :
    Handed (gets s e) e kind code := by
  simp at h
  exact ⟨h.1.1.1.1, rfl, h.1.1.1.2, h.1.1.2, h.1.2, h.2⟩

theorem taken {s : State} {e : IntakeEntry} {kind : RecordKind} {code : Byte}
    (h : (!s.path.resetAsserted && e.kind == kind && !e.flagWord && e.code == code && !e.torn) = true)
    (ha : s.part.state = .active) : Taken (gets s e) e kind code :=
  ⟨handed h, ha⟩

def ring : FeedConfig :=
  { ringStart := 0x08001000, ringEnd := 0x08002000, enable := true, tag := 2, timeout := 5, settle := 3, delay := 160 }

def config : PartConfig :=
  { callBase := 0x04000000, agentBase := 0x04020000, channelBase := 0x04030000, voiceTag := 1, enables := 0x3E
    silence := 0xD5, wrapCeiling := 1200, feeds := [ring, {}, {}, {}] }

def queue30 : Queue :=
  { state := .open
    settings :=
      { capacity := 50, shift := 4, queueProgram := 5, holdProgram := 255, target := 255, offerTimeout := 120
        wrapLength := 200, serviceLevel := 300 }
    entered := 10, answered := 10, answeredInSl := 9, staffed := 2, available := 1, handle := 3200, ewt := 100 }

def play9 : ProgramStep := { kind := .play, arg := 9 }

def program5 : Program := { steps := play9 :: List.replicate 15 {} }

/-- Just after tick 70,100, before call 1300 arrives. -/
def desk : State :=
  { State.reset with
    part := { state := .active, config := config }
    time := { tick := 70100, state := .external, history := List.replicate 8 true, silence := 0 }
    queues := [(30, queue30)]
    agents :=
      [(500, { state := .available, stateEntry := 70000, skills := [⟨30, 1⟩] }),
        (501, { state := .busy, currentCall := some 1200, lastQueue := some 30, stateEntry := 69900, callsHandled := 1
                flags := { autoReady := true }, skills := [⟨30, 1⟩] })]
    calls :=
      [(1200, { state := .connected, currentQueue := some 30, agent := some 501, attempts := 1, lastEnd := .answered
                firstEntry := 69850, queueEntry := 69850, answerTick := 69900, seniority := 7, priority := 5, targetQueue := 30
                queueProgram := 255, holdProgram := 255, channel := 899 })]
    seniority := 8
    playout :=
      { segments := [(9, { start := 0x04001002, length := 8000, loopStart := 0, defined := true })], programs := [(5, program5)] }
    events := { sequence := 120 } }

def at_ (tick : Tick) (s : State) : State := { s with time := { s.time with tick := tick } }

def call1300 : Call :=
  { state := .queued, currentQueue := some 30, firstEntry := 70100, queueEntry := 70100, seniority := 8, priority := 5
    targetQueue := 30, queueProgram := 255, channel := 900 }

/-- Call 1300 waits in queue 30, no context playing to it. -/
def waiting : State :=
  (desk.setCall 1300 call1300).setQueue 30 { queue30 with entered := 11, occupancy := 1, waiting := [1300] }

/-- Call 1300 rings at agent 500; it is tick 70,160. -/
def ringing : State :=
  let s := at_ 70160 (desk.setQueue 30 { queue30 with entered := 11, occupancy := 1, available := 0 })
  { (s.setCall 1300
        { call1300 with state := .offered, agent := some 500, attempts := 1, offerExpiry := some 70220 }).setAgent 500
      { desk.agent 500 with state := .offered, currentCall := some 1300, stateEntry := 70100 } with
    deadlines := [{ call := 1300, kind := .offerExpiry, due := 70220 }] }

/-- Agent 501 in another state, without a call. -/
def seat (state : AgentState) (s : State) : State := s.setAgent 501 { desk.agent 501 with state := state, currentCall := none }

/-- Agent 501 in the last tick of the wrap-up of call 1200, at 70,400. -/
def wrapping : State :=
  at_ 70400 (desk.setAgent 501
    { desk.agent 501 with
      state := .wrapUp, currentCall := none, wrapRemaining := 1, heldAnswer := 69900, stateEntry := 70200
      ticksTaken := 70399 })

/-- Call 1200 with a context on channel 899: it plays program 5's step 0. -/
def context0 : Context :=
  { state := .playing, call := 1200, channel := 899, program := 5, activity := .step 0, step := play9
    segment := { start := 0x04001002, length := 8000, loopStart := 0, defined := true } }

def onHold : State :=
  ((desk.setCall 1200 { desk.call 1200 with state := .agentHold, context := some 0 }).setContext 0 context0).setBinding 899
    (some 0)

def enqueue1300 : IntakeEntry := entry .call 1300 1 0 (callFields 5 30 255 255 900 0 0)

theorem test_enqueue :
    runs .enqueue (gets desk enqueue1300) = true ∧
      (after .enqueue (gets desk enqueue1300)).call 1300 =
        { call1300 with context := some 0, result := { code := 1, token := 0x11, result := .ok }, pendingCount := 0 } ∧
      (after .enqueue (gets desk enqueue1300)).queue 30 = { queue30 with entered := 11, occupancy := 1, waiting := [1300] } ∧
      (after .enqueue (gets desk enqueue1300)).engine.workList = [.call 1300] := by decide

/-- The worked sequence's read of the state word of call 1300 after its release. -/
theorem test_release :
    let s := ((desk.setCall 1300 { call1300 with state := .connected, agent := some 500, attempts := 1, answerTick := 70160 }).setAgent
      500 { desk.agent 500 with state := .busy, currentCall := some 1300, lastQueue := some 30 }).setQueue 30
        { queue30 with available := 0 }
    let t := after .release (gets (at_ 70300 s) (entry .call 1300 8 0 []))
    t.callWord 1300 5 = 0x0100FF00 ∧ (t.call 1300).answerTick = 70160 ∧
      t.agent 500 =
        { desk.agent 500 with
          state := .wrapUp, lastQueue := some 30, wrapRemaining := 200, heldAnswer := 70160, stateEntry := 70300 } := by
  decide

theorem test_abandon :
    let t := after .abandon (gets waiting (entry .call 1300 2 0 []))
    (t.call 1300).state = .free ∧ (t.queue 30).waiting = [] ∧ (t.queue 30).occupancy = 0 ∧ (t.queue 30).abandoned = 1 ∧
      (t.call 1300).result = { code := 2, token := 0x11, result := .ok } := by decide

theorem test_answer :
    let t := after .answer (gets ringing (entry .call 1300 3 0 (callFields 5 30 255 255 900 0 500)))
    (t.call 1300).state = .connected ∧ (t.call 1300).answerTick = 70160 ∧ t.deadlines = [] ∧
      t.agent 500 =
        { desk.agent 500 with
          state := .busy, currentCall := some 1300, lastQueue := some 30, callsHandled := 1, stateEntry := 70160 } ∧
      t.queue 30 = { queue30 with entered := 11, answered := 11, answeredInSl := 10, available := 0 } := by decide

theorem test_noAnswer :
    let t := after .noAnswer (gets ringing (entry .call 1300 4 0 (callFields 5 30 255 255 900 0 500)))
    (t.call 1300).state = .queued ∧ (t.queue 30).waiting = [1300] ∧ (t.agent 500).state = .notReady ∧
      (t.agent 500).flags.rnaMark = true ∧ (t.queue 30).staffed = 1 := by decide

theorem test_hold :
    let t := after .hold (gets desk (entry .call 1200 5 0 (callFields 5 30 255 5 0xFFFF 0 0)))
    (t.call 1200).state = .agentHold ∧ t.binding 899 = some 0 ∧ (t.context 0).state = .starting ∧
      (t.call 1200).result.result = .ok := by decide

theorem test_resume :
    let t := after .resume (gets onHold (entry .call 1200 6 0 []))
    (t.call 1200).state = .connected ∧ (t.call 1200).context = none ∧ t.binding 899 = none ∧
      (t.context 0).state = .free := by decide

theorem test_transfer :
    let t := after .transfer (gets onHold (entry .call 1200 7 0 (callFields 9 30 255 255 0xFFFF 0 0)))
    (t.call 1200).state = .queued ∧ (t.call 1200).agent = none ∧ (t.call 1200).seniority = 8 ∧ (t.call 1200).attempts = 1 ∧
      (t.queue 30).waiting = [1200] ∧ (t.agent 501).state = .wrapUp ∧ (t.agent 501).wrapRemaining = 200 := by decide

/-- A call of the same priority that came later stands behind; a higher priority passes it. -/
theorem test_priority :
    let s := (waiting.setCall 1301 { call1300 with seniority := 9 }).setQueue 30 { waiting.queue 30 with waiting := [1300, 1301] }
    ((after .priority (gets s (entry .call 1301 9 0 (callFields 6 30 255 255 900 0 0)))).queue 30).waiting = [1301, 1300] ∧
      ((after .priority (gets s (entry .call 1300 9 0 (callFields 5 30 255 255 900 0 0)))).queue 30).waiting = [1300, 1301] := by
  decide

theorem test_announce :
    let t := after .announce (gets onHold (entry .call 1200 10 0 (callFields 5 30 255 255 899 9 0)))
    (t.context 0).activity = .announcement ∧ (t.context 0).stack.length = 1 ∧ (t.call 1200).result.result = .ok ∧
      ((after .announce (gets desk (entry .call 1200 10 0 (callFields 5 30 255 255 899 9 0)))).call 1200).result.result =
        .noPlayout := by decide

/-! ### Agents and queues -/

def login7 : IntakeEntry := entry .agent 7 1 0 [0x02030105, 0, 0, 0, 0]

/-- Queue 5 at level 1 and queue 3 at level 2. -/
theorem test_login :
    let t := after .login (gets desk login7)
    (t.agent 7).state = .notReady ∧ (t.agent 7).skills = [⟨5, 1⟩, ⟨3, 2⟩] ∧ (t.agent 7).stateEntry = 70100 ∧
      ((after .login (gets desk (entry .agent 7 1 0 [0x02050105, 0, 0, 0, 0]))).agent 7).result.result = .duplicateSkill := by
  decide

theorem test_ready :
    let t := after .ready (gets (seat .notReady desk) (entry .agent 501 2 0 []))
    (t.agent 501).state = .available ∧ t.engine.workList = [.agent 501] ∧ (t.queue 30).staffed = 3 ∧
      (t.queue 30).available = 2 := by decide

theorem test_notReady :
    let t := after .notReady (gets ringing (entry .agent 500 3 0 []))
    (t.agent 500).state = .notReady ∧ (t.agent 500).flags.rnaMark = false ∧ (t.call 1300).lastEnd = .withdrawn ∧
      t.events.dispatch =
        [{ sequence := 121, cls := .dispatch, kind := .offerWithdrawn, call := some 1300, agent := some 500, target := some 30
           detail := 2, tick := 70160 }] := by decide

theorem test_logout :
    let t := after .logout (gets desk (entry .agent 500 4 0 []))
    (t.agent 500).state = .loggedOut ∧ (t.queue 30).staffed = 1 ∧ (t.queue 30).available = 0 ∧
      ((after .logout (gets desk (entry .agent 501 4 0 []))).agent 501).result.result = .okPending := by decide

theorem test_skills :
    let t := after .skills (gets desk (entry .agent 500 5 0 [0x0000031F, 0, 0, 0, 100]))
    (t.agent 500).skills = [⟨31, 3⟩] ∧ (t.agent 500).wrapLength = 100 ∧ (t.queue 30).available = 0 ∧
      (t.queue 31).available = 1 ∧ t.engine.workList = [.agent 500] := by decide

/-- R89's own example: 40 ticks remain, an extension of 1,200 under a ceiling of 1,200. -/
theorem test_extendWrap :
    let s := desk.setAgent 500 { desk.agent 500 with state := .wrapUp, wrapRemaining := 40 }
    let t := after .extendWrap (gets s (entry .agent 500 6 0 [0, 0, 0, 0, 1200 * 65536]))
    (t.agent 500).wrapRemaining = 1200 ∧ (t.agent 500).result.result = .okClamped := by decide

theorem test_flagWrite :
    let t := after .flagWrite (gets desk (flagEntry 501 0x00020001))
    (t.agent 501).flags = { pendNotReady := true } ∧
      (t.agent 501).result = { code := 0x80, token := 0, result := .ok } ∧
      ((after .flagWrite (gets desk (flagEntry 501 0x00080000))).agent 501).result.result = .badField := by decide

/-- Capacity, lower limit and seed as staged; target 255, mode NONE. -/
def queueFields (capacity upper lower seed : Nat) : List Word :=
  [BitVec.ofNat 32 capacity, 0xFF000000, 0, 0, 0, BitVec.ofNat 32 seed, BitVec.ofNat 32 (upper + 65536 * lower), 0,
    0, 0, 0, 0, 0, 0, 0]

theorem test_openQueue :
    let t := after .openQueue (gets desk (entry .queue 31 1 0 (queueFields 5 10 10 20)))
    (t.queue 31).state = .open ∧ (t.queue 31).handle = 320 ∧ (t.queue 31).settings.lower = 9 ∧
      (t.queue 31).result.result = .okClamped := by decide

theorem test_closeQueue : ((after .closeQueue (gets desk (entry .queue 30 2 0 []))).queue 30).state = .closed := by decide

theorem test_pauseQueue : ((after .pauseQueue (gets desk (entry .queue 30 3 0 []))).queue 30).paused = true := by decide

theorem test_unpauseQueue :
    let t := after .unpauseQueue (gets (desk.setQueue 30 { queue30 with paused := true }) (entry .queue 30 4 0 []))
    (t.queue 30).paused = false ∧ t.engine.workList = [.queue 30] := by decide

theorem test_applyQueue :
    let t := after .applyQueue (gets waiting (entry .queue 30 5 0 (queueFields 1 0 0 20)))
    (t.queue 30).settings.capacity = 1 ∧ (t.queue 30).handle = 3200 ∧ (t.queue 30).waiting = [1300] := by decide

theorem test_resetCounters :
    let t := after .resetCounters (gets waiting (entry .queue 30 6 0 []))
    (t.queue 30).entered = 1 ∧ (t.queue 30).answered = 0 ∧ (t.queue 30).answeredInSl = 0 := by decide

/-! ### The part's commands and the intake -/

/-- The configuration block of 09's worked sequence, under straps 3, with the given writer tag of feed 0. -/
def bringUp (tag : Word) : State :=
  { State.reset with
    path := { straps := 3 }
    staging :=
      { config :=
          [(0, 0x20000000), (1, 0x20020000), (2, 0x20030000), (3, 0x00000001), (8, 0x21000000), (9, 0x21002000),
            (10, 0x00000001 + 256 * tag)] } }

def enable : IntakeEntry := entry .part 0 1 0 []

theorem test_enable_tagClash :
    let t := after .enable (gets (bringUp 1) enable)
    t.part.state = .pass ∧ t.part.error = .tagClash ∧ t.part.result = { code := 1, token := 0x11, result := .configError } := by
  decide

theorem test_enable :
    let t := after .enable (gets (bringUp 2) enable)
    t.part.state = .loading ∧ t.part.result.result = .ok ∧ t.part.cursor = some { table := .queue, index := 0, word := 0 } ∧
      t.part.config.wrapCeiling = 65535 := by decide

def loading : State :=
  { bringUp 2 with
    part :=
      { state := .loading, config := configOf (bringUp 2).staging.configWords, phase := .records
        cursor := some { table := .queue, index := 0, word := 0 } } }

theorem test_disable :
    let t := after .disable (gets waiting (entry .part 0 2 0 []))
    t.part.state = .pass ∧ t.calls = [] ∧ t.queues = [] ∧ t.part.result.result = .ok := by decide

theorem test_restart :
    let t := after .restart (gets desk (entry .part 0 3 0 []))
    t.part.state = .loading ∧ t.part.phase = .config ∧ t.part.restartToken = some 0x11 ∧ t.calls = desk.calls := by decide

set_option maxHeartbeats 1000000 in
theorem test_libraryApply :
    let s := { desk with staging := { segments := [(0, 0x04001002), (1, 0x01005DC0), (2, 0x00005DC0)] } }
    let t := after .libraryApply (gets s (entry .part 0 4 0 []))
    t.segment 0 = { start := 0x04001002, length := 24000, loopStart := 0, defined := true } ∧
      t.part.result.result = .okClamped := by decide

/-- The OFFER of the worked sequence, at the head of the dispatch queue. -/
def offer121 : EventRecord :=
  { sequence := 121, cls := .dispatch, kind := .offer, call := some 1300, agent := some 500, target := some 30, detail := 1
    tick := 70100 }

def told : State := { desk with events := { dispatch := [offer121], sequence := 121, summaries := { dispatch := true } } }

theorem test_eventPop :
    let t := after .eventPop (gets told (entry .part 0 5 121 []))
    t.events.dispatch = [] ∧ t.irq = false ∧ told.irq = true ∧ t.statusWord 1 = 0x01001105 ∧
      (after .eventPop (gets told (entry .part 0 5 120 []))).part.result.result = .stale := by decide

theorem test_summaryClear :
    (after .summaryClear (gets told (entry .part 0 6 1 []))).events.summaries = {} ∧
      (after .summaryClear (gets told (entry .part 0 6 0x7E []))).events.summaries = { dispatch := true } := by decide

def feed1 : Feed :=
  { latched :=
      { ringStart := 0x08000000, ringEnd := 0x08002000, enable := true, tag := 2, timeout := 5, settle := 20, delay := 800 }
    state := .missing, head := 0x08000130, lastWrite := 30140, ticksTaken := 30140 }

def feeds : State := at_ 30140 { desk with feeds := [(1, feed1)] }

theorem test_feedClear :
    let t := after .feedClear (gets feeds (entry .part 0 7 1 []))
    (t.feed 1).state = .live ∧ t.events.notices.map (·.detail) = [2] ∧
      (after .feedClear (gets (at_ 30142 feeds) (entry .part 0 7 1 []))).part.result.result = .stillMissing := by decide

theorem test_timebaseClear :
    let s := { desk with time := { desk.time with state := .substitute } }
    let t := after .timebaseClear (gets s (entry .part 0 8 0 []))
    t.time.state = .external ∧ t.events.notices.map (·.kind) = [.timebaseRestored] := by decide

theorem test_unknownCommand :
    ((after .unknownCommand (gets desk (entry .call 3 11 0 []))).call 3).result =
        { code := 11, token := 0x11, result := .unknown } ∧
      after .enqueue (gets desk (entry .call 3 11 0 [])) = gets desk (entry .call 3 11 0 []) := by decide

/-! ### Beats -/

def write (address data : Word) (enables : BitVec 4) : WriteBeat := { tag := 0, address := address, data := data, enables := enables }
def read (tag : BitVec 2) (address : Word) : ReadBeat := { tag := tag, address := address, enables := 0xF }

/-- ENQUEUE of call 1300 is written to its command word. -/
theorem test_commandWordWrite :
    let s := { desk with staging := { calls := [(16 * 1300, 0xFFFF1E05)] } }
    let t := after (.commandWordWrite (write (0x04000000 + 64 * 1300 + 16) 0x1101 0xF)) s
    t.intake = [entry .call 1300 1 0 [0xFFFF1E05, 0, 0, 0]] ∧ (t.call 1300).pendingCount = 1 ∧ t.path.forward.length = 1 := by
  decide

theorem test_heldCommandBeat :
    let b := write (0x04000000 + 64 * 1300 + 16) 0x1101 0x7
    let t := after .heldCommandBeat { desk with path := { waiting := [.write b] } }
    t.path.waiting = [] ∧ t.intake.map (·.torn) = [true] ∧ t.path.forward = [.write b] := by decide

theorem test_stagingWrite :
    let t := after (.stagingWrite (write (0x0FFF0000 + 0x2000 + 128 * 30) 0x00000032 0x3)) { desk with staging := { queues := [(960, 0x07000001)] } }
    t.staging.queues = [(960, 0x07000032)] := by decide

theorem test_feedCountedWrite :
    let b : WriteBeat := { tag := 2, address := 0x08001FFC, data := 0, enables := 0xF }
    let t := after (.feedCountedWrite b) { feeds with feeds := [(1, { feed1 with state := .arming })] }
    (t.feed 1).head = 0x08000000 ∧ (t.feed 1).settling = true ∧ (t.feed 1).lastWrite = 30140 := by decide

/-- Two samples left for four lanes. -/
theorem test_voiceRead :
    let s := onHold.setContext 0 { context0 with buffer := [0x11, 0x22] }
    let t := after (.voiceRead (read 1 (0x04030000 + 32 * 899))) s
    t.path.answer = .data 0xD5D52211 ∧ (t.call 1200).underruns = 1 ∧ (t.context 0).buffer = [] := by decide

/-- The event window shows the OFFER of the worked sequence, word by word. -/
theorem test_eventWindowRead :
    let t := after (.eventWindowRead (read 0 (0x0FFF0000 + 0x180))) told
    let word := fun (w : Word) => (after (.eventWindowRead (read 0 (0x0FFF0180 + 4 * w))) t).path.answer
    t.path.answer = .data 0x01010079 ∧ word 1 = .data 0x01F40514 ∧ word 2 = .data 0x0001001E ∧ word 3 = .data 0x000111D4 := by
  decide

/-! ### Time -/

theorem test_fsyncPulse :
    let s := { desk with time := { desk.time with frames := 799 } }
    (after (.fsyncPulse false) s).time.tick = 70101 ∧ (after (.fsyncPulse false) s).time.frames = 0 ∧
      (after (.fsyncPulse true) s).time.frames = 799 ∧ (after .tick s).time.tick = 70101 := by decide

/-- The 800th frame of a tick, by a pulse and by the end of a reference period. -/
theorem test_tick :
    (after .tick { desk with time := { desk.time with frames := 799 } }).time.tick = 70101 ∧
      (after .tick { desk with time := { desk.time with state := .substitute, frames := 799 } }).time.frames = 0 ∧
      after .tick desk = desk := by decide

/-- The eighth pulse locks. -/
theorem test_referencePeriodEnd :
    let s := { desk with time := { state := .starting, history := false :: List.replicate 7 true, silence := 0, pulseSeen := true } }
    (after .referencePeriodEnd s).time.state = .external ∧ (after .referencePeriodEnd s).time.frames = 1 := by decide

theorem test_timebaseSubst :
    let s := { desk with time := { desk.time with frames := 798, silence := 2 } }
    let t := after .timebaseSubst s
    t.time.state = .substitute ∧ t.time.frames = 1 ∧ t.time.tick = 70101 ∧ t.events.notices.map (·.tick) = [70101] := by decide

theorem test_offerExpiry :
    let t := after .offerExpiry (at_ 70220 ringing)
    (t.call 1300).state = .queued ∧ (t.call 1300).lastEnd = .expired ∧ (t.agent 500).flags.rnaMark = true ∧
      after .offerExpiry (at_ 70219 ringing) = at_ 70219 ringing := by decide

/-- A due tick 2^31 ahead comes after every other, one just reached before those to come. -/
theorem test_frontDeadline :
    let d := fun (due : Tick) => Deadline.mk 0 .maxWaitDue due
    frontDeadline 100 [d (100 + 0x80000000), d (100 + 0x7FFFFFFF)] = some (d (100 + 0x7FFFFFFF)) ∧
      frontDeadline 100 [d 102, ⟨1, .overflowDue, 101⟩, d 101] = some ⟨1, .overflowDue, 101⟩ ∧
      frontDeadline 100 [d 101, d 100, d (100 - 0x7FFFFFFF)] = some (d (100 - 0x7FFFFFFF)) := by decide

/-- Call 1300 waits with a due tick of the kind given; queue 30 overflows to the open queue 31. -/
def due (kind : DeadlineKind) : State :=
  at_ 70200
    { ((waiting.setCall 1300
          { call1300 with
            overflowDue := if kind = .overflowDue then some 70200 else none
            maxWaitDue := if kind = .maxWaitDue then some 70200 else none }).setQueue 30
        { waiting.queue 30 with settings := { queue30.settings with mode := .time, target := 31, overflowAfter := 100 } }).setQueue 31
      { state := .open, settings := { capacity := 9, target := 255 } } with
      deadlines := [{ call := 1300, kind := kind, due := 70200 }] }

/-- At a tie MAX_WAIT_DUE wins; an earlier OVERFLOW_DUE goes first; an OFFERED call's entry is its offer expiry's. -/
theorem test_deadlineOf :
    let s := fun (o m : Nat) =>
      waiting.setCall 1300 { call1300 with overflowDue := some (BitVec.ofNat 32 o), maxWaitDue := some (BitVec.ofNat 32 m) }
    (s 70200 70200).deadlineOf 1300 = some ⟨1300, .maxWaitDue, 70200⟩ ∧
      (s 70199 70200).deadlineOf 1300 = some ⟨1300, .overflowDue, 70199⟩ ∧ desk.deadlineOf 1200 = none ∧
      (ringing.call 1300).state = .offered ∧ ringing.deadlineOf 1300 = some ⟨1300, .offerExpiry, 70220⟩ := by decide

theorem test_overflowDue :
    let t := after .overflowDue (due .overflowDue)
    (t.call 1300).currentQueue = some 31 ∧ (t.call 1300).hops = 1 ∧ (t.queue 31).waiting = [1300] ∧ (t.queue 30).waiting = [] ∧
      (t.queue 30).overflowedOut = 1 ∧ t.events.notices.map (·.kind) = [.overflowed] := by decide

theorem test_maxWaitDue :
    let t := after .maxWaitDue (due .maxWaitDue)
    (t.call 1300).maxWaitDue = none ∧ t.deadlines = [] ∧ t.events.notices.map (·.detail) = [100] := by decide

/-- The end of agent 501's wrap-up in the worked sequence: sample 500, WRAP_END with sequence 121 here. -/
theorem test_agentTick :
    let t := after (.agentTick 501) wrapping
    (t.agent 501).state = .available ∧ t.samples = [{ queue := 30, ticks := 500 }] ∧ (t.queue 30).available = 2 ∧
      t.events.notices.map (·.detail) = [500] ∧ t.engine.workList = [.agent 501] := by decide

theorem test_wrapCountdownEnd :
    after (.wrapCountdownEnd 501) wrapping = after (.agentTick 501) wrapping ∧
      after (.wrapCountdownEnd 500) wrapping = wrapping := by decide

/-- 06's queue 17: two samples smoothed with k = 5. -/
theorem test_handleTimeSample :
    let queue17 : Queue := { state := .open, settings := { shift := 5 }, staffed := 11, handle := 46080 }
    let s := { (desk.setQueue 17 queue17) with samples := [{ queue := 17, ticks := 3105 }, { queue := 17, ticks := 2002 }] }
    ((after (.handleTimeSample 0) s).queue 17).handle = 46192 ∧
      ((after (.handleTimeSample 1) (s.setQueue 17 { queue17 with handle := 46192 })).queue 17).handle = 45750 ∧
      expectedWait 7 46080 11 = 1833 := by decide

theorem test_ewtRepublish :
    let s := desk.setQueue 30 { queue30 with handle := 3500, staffed := 2, settings := { queue30.settings with upper := 109, lower := 50 } }
    ((after (.ewtRepublish 30) s).queue 30).ewt = 110 ∧ ((after (.ewtRepublish 30) s).queue 30).alarm = .high ∧
      ((after (.ewtRepublish 30) (desk.setQueue 30 { queue30 with handle := 3621, staffed := 1 })).queue 30).ewt = 227 := by decide

/-! ### The Match Engine -/

def proposal : Proposal := { call := 1300, agent := 500, queue := 30, trigger := .call 1300 }

theorem test_agentTrigger :
    let s := { waiting with engine := { workList := [.agent 500] } }
    (after .agentTrigger s).engine = { proposal := some { proposal with trigger := .agent 500 }, reserved := true } ∧
      (after .agentTrigger { desk with engine := { workList := [.agent 500] } }).engine = {} := by decide

theorem test_callTrigger :
    (after .callTrigger { waiting with engine := { workList := [.call 1300] } }).engine =
      { proposal := some proposal, reserved := true } := by decide

theorem test_queueTrigger :
    let s := (seat .available waiting).setAgent 7 { state := .available, stateEntry := 70000, skills := [⟨30, 2⟩] }
    (after .queueTrigger { s with engine := { workList := [.queue 30] } }).engine.workList = [.agent 501, .agent 7, .agent 500] := by
  decide

/-- The OFFER of the worked sequence. -/
theorem test_commit :
    let t := after .commit { waiting with engine := { proposal := some proposal, reserved := true } }
    (t.call 1300).state = .offered ∧ (t.call 1300).offerExpiry = some 70220 ∧ (t.queue 30).available = 0 ∧
      (t.queue 30).waiting = [] ∧ t.events.dispatch = [offer121] ∧ t.engine = {} := by decide

theorem test_commit_fails :
    let s := { desk with engine := { proposal := some proposal, reserved := true } }
    after .commit s = { s with engine := {} } := by decide

/-! ### Playout -/

/-- Quiet, tone and feed steps for one context; `desk`'s silence code is 0xD5. -/
def on (step : ProgramStep) (x : Context) : State := desk.setContext 0 { x with step := step }

theorem test_generatedGroup :
    let t := after (.generatedGroup 0) (on { kind := .quiet, count := 1 } { context0 with position := 790 })
    (t.context 0).buffer = List.replicate 8 0xD5 ∧ (t.context 0).position = 798 ∧
      -- two samples are left, and the step after it is STOP
      ((after (.generatedGroup 0) t).context 0).state = .free := by decide

/-- 07's first burst: the words at 0x04001000 and 0x04001004, six samples. -/
theorem test_fetchGrant :
    let t := after .fetchGrant onHold
    t.playout.fetch = some { context := 0, address := 0x04001000, beats := 2, skip := 2, count := 6 } ∧
      (t.context 0).inFlight = true ∧ t.path.port = .fetch 0x04001000 2 := by decide

def fetching : State :=
  let s := onHold.setContext 0 { context0 with inFlight := true, state := .starting }
  { s with playout := { s.playout with fetch := some { context := 0, address := 0x04001000, beats := 2, skip := 2, count := 6 } } }

theorem test_burstArrival :
    let t := after (.burstArrival 0x44332211 0x88776655) fetching
    t.context 0 = { context0 with buffer := [0x33, 0x44, 0x55, 0x66, 0x77, 0x88], position := 6 } ∧ t.playout.fetch = none := by
  decide

/-- The step after the failed PLAY is STOP: the fault, then the program's end. -/
theorem test_fetchError :
    let t := after .fetchError fetching
    t.events.notices.map (fun r => (r.kind, r.detail)) = [(.playoutFault, 4), (.programEnd, 5)] ∧
      (t.context 0).state = .free ∧ (t.call 1200).context = none := by decide

theorem test_interjection :
    let s := ({ onHold with playout := { onHold.playout with programs := [(5, { program5 with interjectionStep := 1, period := 50, steps := play9 :: play9 :: List.replicate 14 {} })] } }).setContext
      0 { context0 with timer := 1, position := 100 }
    let t := after (.interjection 0) s
    (t.context 0).activity = .step 1 ∧ (t.context 0).stack.map (·.position) = [100] ∧ (t.context 0).timer = 0 := by decide

theorem test_interjectionTick :
    ((after (.interjectionTick 0) (onHold.setContext 0 { context0 with timer := 2 })).context 0).timer = 1 := by decide

/-- 08's join: 800 samples behind a head at 0x08001A40; and a fetch of 8 samples from there. -/
theorem test_feed_join :
    let s := feeds.setFeed 1 { feed1 with state := .live, head := 0x08001A40 }
    ((after (.generatedGroup 0) (s.setContext 0 { context0 with step := { kind := .feed, arg := 70, feed := 1 }, source := .silence })).context
      0).pointer = 0x08001720 := by decide

theorem test_feedArmingTick :
    let s := at_ 30004 (desk.setFeed 1 { feed1 with state := .arming, settling := true, lastWrite := 30003, ticksTaken := 30003 })
    ((after (.feedArmingTick 1) s).feed 1).settleCount = 1 := by decide

theorem test_feedArmed :
    let s := at_ 30023
      (desk.setFeed 1 { feed1 with state := .arming, settling := true, settleCount := 19, lastWrite := 30022, ticksTaken := 30022 })
    let t := after (.feedArmed 1) s
    (t.feed 1).state = .live ∧ t.events.notices.map (fun r => (r.kind, r.detail)) = [(.feedLive, 1)] := by decide

theorem test_armingRestart :
    let s := at_ 30010 (desk.setFeed 1 { feed1 with state := .arming, settling := true, lastWrite := 30004, ticksTaken := 30009 })
    ((after (.armingRestart 1) s).feed 1).settling = false := by decide

/-- The last write at 30,100: at 30,105 the feed is still LIVE, at 30,106 it is MISSING. -/
theorem test_feedMissing :
    let f : Feed := { feed1 with state := .live, lastWrite := 30100 }
    ((after (.feedMissing 1) (at_ 30105 (desk.setFeed 1 { f with ticksTaken := 30104 }))).feed 1).state = .live ∧
      ((after (.feedMissing 1) (at_ 30106 (desk.setFeed 1 { f with ticksTaken := 30105 }))).feed 1).state = .missing := by decide

/-! ### Loading and the pins -/

theorem test_loadingReadGrant :
    let t := after (.loadingReadGrant 4) loading
    t.path.port = .load 0x3FFF2000 4 ∧ t.part.cursor = some { table := .queue, index := 0, word := 4 } := by decide

/-- A write that is accepted and has not reached memory when the read of its word is granted. -/
theorem test_loadingReadGrant_pending :
    let b := write 0x3FFF2008 7 0xF
    let t := after (.loadingReadGrant 4) { loading with path := { loading.path with forward := [.write b], passCount := 8 } }
    t.part.burst = some { first := { table := .queue, index := 0, word := 0 }, beats := 4, hostWrote := [(2, b)] } := by decide

/-- The host wrote byte 1 of the first word, and no byte of the second. -/
theorem test_loadingReadDone :
    let noted := [(0, write 0 0xAAAAAAAA 0x2), (1, write 0 0xAAAAAAAA 0x0)]
    let burst : LoadBurst := { first := { table := .agent, index := 17, word := 0 }, beats := 2, hostWrote := noted }
    let t := after (.loadingReadDone [0x11223344, 0x55]) { loading with part := { loading.part with burst := some burst } }
    t.staging.agents = [(16 * 17, 0x1122AA44), (16 * 17 + 1, 0x55)] ∧ t.part.burst = none := by decide

def restarting : State :=
  { bringUp 2 with
    part :=
      { state := .loading, phase := .config, restartToken := some 9
        burst := some { first := { table := .config, index := 0, word := 63 }, beats := 1, hostWrote := [] } } }

theorem test_configReadDone :
    let t := after (.configReadDone [0]) restarting
    t.part.phase = .records ∧ t.part.result = { code := 3, token := 9, result := .ok } := by decide

theorem test_loadFault :
    let t := after .loadFault restarting
    t.part.state = .pass ∧ t.part.error = .loadFault ∧ t.part.result = { code := 3, token := 9, result := .configError } := by decide

theorem test_reset :
    let t := after .reset { waiting with path := { forward := [.read (read 0 0)] } }
    t.path.answer = .errors [.read (read 0 0)] ∧ t.path.resetAsserted = true := by decide

theorem test_resetRelease :
    let t := after (.resetRelease 3) { waiting with path := { resetAsserted := true } }
    t = { State.reset with path := { straps := 3 } } := by decide

theorem test_passThroughBeatGrant :
    let s := { desk with path := { forward := [.read (read 0 0), .read (read 0 4)] } }
    (after .passThroughBeatGrant s).path = { forward := [.read (read 0 4)], port := .passThrough (.read (read 0 0)) } := by decide

theorem test_step :
    step { desk with pending := [.tick, .commit] } = exec .tick { desk with pending := [.commit] } ∧
      step State.reset = .next State.reset := ⟨rfl, rfl⟩

/-! ### States and operands that meet the hypotheses of the statements, clause by clause -/

/-! #### Queues -/

def open31 (capacity : Nat) : IntakeEntry := entry .queue 31 1 0 (queueFields capacity 65535 65535 65535)
def apply30 (capacity : Nat) : IntakeEntry := entry .queue 30 5 0 (queueFields capacity 0 0 0)

theorem witness_QueueCommandsSetStateAndSettings_open :
    Taken (gets desk (open31 2048)) (open31 2048) .queue 1 ∧ ((gets desk (open31 2048)).queue 31).state = .idle ∧
      (queueSettings 31 (open31 2048).snapshot).isSome = true ∧ (queueSettings 31 (open31 2049).snapshot) = none ∧
      Taken (gets desk (open31 2049)) (open31 2049) .queue 1 := ⟨taken rfl rfl, by decide, by decide, by decide, taken rfl rfl⟩

/-- Its own queue as target, mode 4, level 8, program 64: out of the table; target 63, mode 3, level 7, program 63: in it. -/
theorem witness_QueueCommandsSetStateAndSettings_table :
    let ws := fun (target mode program level : Nat) =>
      [BitVec.ofNat 32 (1 + 65536 * level), BitVec.ofNat 32 (program + 65280 + 65536 * mode + 16777216 * target)]
    queueSettings 31 (ws 31 3 63 7) = none ∧ queueSettings 31 (ws 64 3 63 7) = none ∧ queueSettings 31 (ws 63 4 63 7) = none ∧
      queueSettings 31 (ws 63 3 64 7) = none ∧ queueSettings 31 (ws 63 3 63 8) = none ∧
      queueSettings 31 (ws 63 3 63 7) =
        some { capacity := 1, arbitration := 7, queueProgram := 63, holdProgram := 255, mode := .both, target := 63 } := by decide

theorem witness_QueueCommandsSetStateAndSettings_apply :
    Taken (gets waiting (apply30 1)) (apply30 1) .queue 5 ∧ ((gets waiting (apply30 1)).queue 30).state ≠ .idle ∧
      (queueSettings 30 (apply30 1).snapshot).isSome = true ∧ queueSettings 30 (apply30 0).snapshot = none ∧
      Taken (gets waiting (apply30 0)) (apply30 0) .queue 5 := ⟨taken rfl rfl, by decide, by decide, by decide, taken rfl rfl⟩

theorem witness_QueueCommandsSetStateAndSettings_close :
    (desk.queue 30).state ≠ .idle ∧ Taken (gets desk (entry .queue 30 2 0 [])) (entry .queue 30 2 0 []) .queue 2 ∧
      Taken (gets desk (entry .queue 30 3 0 [])) (entry .queue 30 3 0 []) .queue 3 ∧
      Taken (gets desk (entry .queue 30 4 0 [])) (entry .queue 30 4 0 []) .queue 4 :=
  ⟨by decide, taken rfl rfl, taken rfl rfl, taken rfl rfl⟩

/-- OPEN of an OPEN queue, and the four commands an IDLE one refuses. -/
theorem witness_QueueCommandsSetStateAndSettings_wrong_state :
    let e := fun q code => entry .queue q code 0 []
    (desk.queue 30).state = .open ∧ Taken (gets desk (e 30 1)) (e 30 1) .queue 1 ∧ (desk.queue 31).state = .idle ∧
      Taken (gets desk (e 31 2)) (e 31 2) .queue 2 ∧ Taken (gets desk (e 31 3)) (e 31 3) .queue 3 ∧
      Taken (gets desk (e 31 4)) (e 31 4) .queue 4 ∧ Taken (gets desk (e 31 5)) (e 31 5) .queue 5 :=
  ⟨by decide, taken rfl rfl, by decide, taken rfl rfl, taken rfl rfl, taken rfl rfl, taken rfl rfl⟩

theorem witness_ResetCountersStartsANewPeriod :
    Taken (gets desk (entry .queue 63 6 0 [])) (entry .queue 63 6 0 []) .queue 6 := taken rfl rfl

/-! #### Agents -/

/-- The eighth skill entry names queue 64; the second names the first's queue. -/
theorem witness_LoginValidatesAndSignsIn :
    Taken (gets desk login7) login7 .agent 1 ∧ ((gets desk login7).agent 7).state = .loggedOut ∧
      skillError login7.snapshot = none ∧ skillError [0x0F3F0105, 0, 0, 0, 0] = none ∧
      skillError [0, 0, 0, 0x01400000, 0] = some .badField ∧ skillError [0x10050000, 0, 0, 0, 0] = some .badField ∧
      skillError [0x02050105, 0, 0, 0, 0] = some .duplicateSkill ∧ (desk.agent 500).state ≠ .loggedOut ∧
      Taken (gets desk { login7 with index := 500 }) { login7 with index := 500 } .agent 1 :=
  ⟨taken rfl rfl, by decide, by decide, by decide, by decide, by decide, by decide, by decide, taken rfl rfl⟩

def order (a code : Nat) : IntakeEntry := entry .agent a code 0 []

theorem witness_ReadyMakesAvailableOrEndsWrapUp :
    Taken (gets (seat .notReady desk) (order 501 2)) (order 501 2) .agent 2 ∧
      ((seat .notReady desk).agent 501).state = .notReady ∧ ((seat .notReady desk).agent 501).flags.rnaMark = false ∧
      duplicateSkill ((seat .notReady desk).agent 501).skills = false ∧
      Taken (gets wrapping (order 501 2)) (order 501 2) .agent 2 ∧ (wrapping.agent 501).state = .wrapUp ∧
      (wrapping.agent 501).lastQueue = some 30 ∧ duplicateSkill (wrapping.agent 501).skills = false :=
  ⟨taken rfl rfl, by decide, by decide, by decide, taken rfl rfl, by decide⟩

theorem witness_ReadyMakesAvailableOrEndsWrapUp_others :
    let s := desk.setAgent 500 { desk.agent 500 with state := .notReady, flags := { rnaMark := true } }
    Taken (gets s (order 500 2)) (order 500 2) .agent 2 ∧ (s.agent 500).state = .notReady ∧ (s.agent 500).flags.rnaMark = true ∧
      (desk.agent 500).state = .available ∧ (desk.agent 501).state = .busy ∧ (desk.agent 1023).state = .loggedOut ∧
      (ringing.agent 500).state = .offered := ⟨taken rfl rfl, by decide⟩

theorem witness_NotReadyAndLogoutLeaveEveryState :
    Taken (gets desk (order 500 3)) (order 500 3) .agent 3 ∧ Taken (gets desk (order 500 4)) (order 500 4) .agent 4 ∧
      (desk.agent 500).state = .available ∧ duplicateSkill (desk.agent 500).skills = false ∧
      (desk.agent 501).state = .busy ∧ (wrapping.agent 501).state = .wrapUp ∧
      ((seat .notReady desk).agent 501).state = .notReady ∧ (desk.agent 0).state = .loggedOut :=
  ⟨taken rfl rfl, taken rfl rfl, by decide⟩

theorem witness_NotReadyAndLogoutLeaveEveryState_offered :
    Taken (gets ringing (order 500 3)) (order 500 3) .agent 3 ∧ Taken (gets ringing (order 500 4)) (order 500 4) .agent 4 ∧
      (ringing.agent 500).state = .offered ∧ (ringing.agent 500).currentCall = some 1300 ∧
      (ringing.call 1300).currentQueue = some 30 ∧ duplicateSkill (ringing.agent 500).skills = false :=
  ⟨taken rfl rfl, taken rfl rfl, by decide⟩

theorem witness_SkillsReplaceTheActiveList :
    let e := entry .agent 500 5 0 [0x0000031F, 0, 0, 0, 100]
    Taken (gets desk e) e .agent 5 ∧ skillError e.snapshot = none ∧ duplicateSkill (desk.agent 500).skills = false ∧
      skillError [0x00001001, 0, 0, 0, 0] = some .badField := ⟨taken rfl rfl, by decide⟩

/-- The sum meets the ceiling of 1,200, and passes it by 1. -/
theorem witness_ExtendWrapLengthensARunningWrapUp :
    let e := entry .agent 501 6 0 [0, 0, 0, 0, 0x04AF0000]
    Taken (gets wrapping e) e .agent 6 ∧ (wrapping.agent 501).state = .wrapUp ∧
      (wrapping.agent 501).wrapRemaining + agentExtension e.snapshot = 1200 ∧
      (wrapping.agent 501).wrapRemaining + agentExtension [0, 0, 0, 0, 0x04B00000] = 1201 ∧
      (desk.agent 501).state ≠ .wrapUp := ⟨taken rfl rfl, by decide⟩

theorem witness_FlagWriteActsByItsRequests :
    let e := flagEntry 501 0x0007000F
    let s := gets desk e
    s.path.resetAsserted = false ∧ s.intake.head? = some e ∧ e.kind = .agent ∧ e.flagWord = true ∧ e.torn = false ∧
      s.part.state = .active ∧ (∀ n, (4 ≤ n ∧ n < 16 ∨ 19 ≤ n ∧ n < 32) → e.word.getLsbD n = false) ∧
      (flagEntry 501 0x00080000).word.getLsbD 19 = true := by
  refine ⟨rfl, rfl, rfl, rfl, rfl, rfl, ?_, by decide⟩
  intro n hn
  have h : n < 32 := by omega
  have all : ∀ n < 32, (4 ≤ n ∧ n < 16 ∨ 19 ≤ n ∧ n < 32) → (flagEntry 501 0x0007000F).word.getLsbD n = false := by decide
  exact all n h hn

/-! #### Calls -/

def fields (priority target queueProgram channel offerAgent : Nat) : List Word :=
  callFields priority target queueProgram 255 channel 9 offerAgent

/-- Priority and program at the ends of their ranges; queue 63 with room for one more. -/
theorem witness_EnqueuePlacesANewCaller :
    let s := desk.setQueue 63 { state := .open, settings := { capacity := 1, target := 255 } }
    let e := entry .call 2047 1 0 (fields 15 63 63 0xFFFF 0)
    Taken (gets s e) e .call 1 ∧ (s.call 2047).state = .free ∧ callPriority e.snapshot ≤ 15 ∧
      callQueueProgram e.snapshot < 64 ∧ callTarget e.snapshot = 63 ∧ (s.queue 63).state = .open ∧
      (s.queue 63).occupancy < (s.queue 63).settings.capacity ∧
      KeepsEntering (gets s e) 63 2047 (callPriority e.snapshot) (s.queue 63).staffed :=
  ⟨taken rfl rfl, by unfold KeepsEntering; decide⟩

/-- Queue 30 carries on above an expected wait of 99 ticks to queue 31; position 1 with H = 3,200 and N = 2 gives 100. -/
def overflowing : State :=
  (desk.setQueue 30 { queue30 with settings := { queue30.settings with mode := .ewt, threshold := 99, target := 31 } }).setQueue 31
    { state := .open, settings := { capacity := 1, target := 255 } }

/-- A wait equal to the threshold, a full target and one not OPEN keep the call; a channel is free for its playout. -/
theorem witness_EnqueuePlacesANewCaller_keeps :
    let at100 := overflowing.setQueue 30 { queue30 with settings := { queue30.settings with mode := .both, threshold := 100, target := 31 } }
    let full := overflowing.setQueue 31 { state := .open, occupancy := 1, settings := { capacity := 1, target := 255 } }
    KeepsEntering at100 30 1300 0 2 ∧ KeepsEntering full 30 1300 0 2 ∧ KeepsEntering (overflowing.setQueue 31 {}) 30 1300 0 2 ∧
      desk.binding 2047 = none ∧ (desk.context 0).state = .free ∧ (program5.steps.getD 0 {}).kind = .play ∧
      (desk.segment 9).defined = true := by unfold KeepsEntering; decide

theorem witness_EntryOverflowKeepsTheBalance :
    let s := overflowing
    let e := entry .call 1300 1 0 (fields 0 30 255 0xFFFF 0)
    let f := entry .call 1200 7 0 (fields 0 30 255 0xFFFF 0)
    Taken (gets s e) e .call 1 ∧ (s.call 1300).state = .free ∧ callPriority e.snapshot ≤ 15 ∧
      callQueueProgram e.snapshot = 255 ∧ callTarget e.snapshot = 30 ∧ (s.queue 30).state = .open ∧
      (s.queue 30).occupancy < (s.queue 30).settings.capacity ∧ (s.queue 30).settings.target = 31 ∧
      PassesOn (gets s e) 30 1300 (callPriority e.snapshot) (s.queue 30).staffed ∧
      KeepsEntering (gets s e) 31 1300 (callPriority e.snapshot) (s.queue 31).staffed ∧
      s.entryError e.snapshot = none ∧ Taken (gets s f) f .call 7 ∧ (s.call 1200).state = .connected ∧
      (s.call 1200).agent = some 501 ∧ duplicateSkill (s.agent 501).skills = false ∧ s.entryError f.snapshot = none :=
  ⟨taken rfl rfl, by decide, by decide, by decide, by decide, by decide, by decide, by decide, by unfold PassesOn; decide,
    by unfold KeepsEntering; decide, by decide, taken rfl rfl, by decide⟩

theorem witness_AbandonFreesTheCall :
    let e := entry .call 1300 2 0 []
    Taken (gets waiting e) e .call 2 ∧ (waiting.call 1300).state = .queued ∧ (waiting.call 1300).currentQueue = some 30 ∧
      Taken (gets ringing e) e .call 2 ∧ (ringing.call 1300).state = .offered ∧ (ringing.call 1300).currentQueue = some 30 ∧
      (ringing.call 1300).agent = some 500 ∧ (ringing.agent 500).state = .offered ∧
      duplicateSkill (ringing.agent 500).skills = false := ⟨taken rfl rfl, by decide, by decide, taken rfl rfl, by decide⟩

theorem witness_AnswerConnectsTheCall :
    let e := entry .call 1300 3 0 (fields 5 30 255 900 500)
    Taken (gets ringing e) e .call 3 ∧ callOfferAgent e.snapshot = 500 ∧ (ringing.call 1300).state = .offered ∧
      (ringing.call 1300).agent = some 500 ∧ (ringing.call 1300).currentQueue = some 30 ∧
      (ringing.agent 500).state = .offered ∧ duplicateSkill (ringing.agent 500).skills = false := ⟨taken rfl rfl, by decide⟩

theorem witness_NoAnswerRestoresTheCall :
    let e := entry .call 1300 4 0 (fields 5 30 255 900 500)
    Taken (gets ringing e) e .call 4 ∧ callOfferAgent e.snapshot = 500 ∧ (ringing.call 1300).state = .offered ∧
      (ringing.call 1300).agent = some 500 ∧ (ringing.call 1300).currentQueue = some 30 ∧
      (ringing.agent 500).state = .offered ∧ duplicateSkill (ringing.agent 500).skills = false := ⟨taken rfl rfl, by decide⟩

/-- No program of its own and none of the queue's; and the highest channel with a context to take. -/
theorem witness_HoldAndResumeKeepTheAgent :
    let e := entry .call 1200 5 0 (callFields 5 30 255 255 899 0 0)
    let s := desk.setCall 1200 { desk.call 1200 with channel := 2047 }
    let f := entry .call 1200 5 0 (callFields 5 30 255 5 899 0 0)
    let r := entry .call 1200 6 0 []
    Taken (gets desk e) e .call 5 ∧ (desk.call 1200).state = .connected ∧ (desk.call 1200).currentQueue = some 30 ∧
      callHoldProgram e.snapshot = 255 ∧ 64 ≤ (desk.queue 30).settings.holdProgram ∧ Taken (gets onHold r) r .call 6 ∧
      (onHold.call 1200).state = .agentHold ∧ Taken (gets s f) f .call 5 ∧ callHoldProgram f.snapshot = 5 ∧
      (s.call 1200).channel < 2048 ∧ s.binding 2047 = none ∧ (s.context 0).state = .free :=
  ⟨taken rfl rfl, by decide, by decide, by decide, by decide, taken rfl rfl, by decide, taken rfl rfl, by decide⟩

theorem witness_ReleaseEndsTheCall :
    let e := entry .call 1200 8 0 []
    let s := desk.setQueue 30 { queue30 with settings := { queue30.settings with wrapLength := 0 } }
    Taken (gets desk e) e .call 8 ∧ (desk.call 1200).state = .connected ∧ (desk.call 1200).agent = some 501 ∧
      (desk.agent 501).state = .busy ∧ (desk.agent 501).lastQueue = some 30 ∧ duplicateSkill (desk.agent 501).skills = false ∧
      min (desk.queue 30).settings.wrapLength desk.part.config.wrapCeiling = 200 ∧ (onHold.call 1200).state = .agentHold ∧
      Taken (gets s e) e .call 8 ∧ (s.agent 501).wrapLength = 0 ∧ (s.queue 30).settings.wrapLength = 0 :=
  ⟨taken rfl rfl, by decide, by decide, by decide, by decide, by decide, by decide, by decide, taken rfl rfl, by decide⟩

theorem witness_TransferSendsTheCallBackIntoAQueue :
    let e := entry .call 1200 7 0 (fields 15 30 255 0xFFFF 0)
    let s := desk.setCall 1200 { desk.call 1200 with channel := 0xFFFF }
    Taken (gets s e) e .call 7 ∧ (s.call 1200).state = .connected ∧ (s.call 1200).agent = some 501 ∧
      (s.agent 501).state = .busy ∧ (s.agent 501).lastQueue = some 30 ∧ duplicateSkill (s.agent 501).skills = false ∧
      min (s.queue 30).settings.wrapLength s.part.config.wrapCeiling = 200 ∧ callPriority e.snapshot = 15 ∧
      callQueueProgram e.snapshot = 255 ∧ callTarget e.snapshot = 30 ∧ (s.queue 30).state = .open ∧
      (s.queue 30).occupancy < (s.queue 30).settings.capacity ∧
      KeepsEntering (gets s e) 30 1200 (callPriority e.snapshot) (s.queue 30).staffed :=
  ⟨taken rfl rfl, by unfold KeepsEntering; decide⟩

/-- Without a wrap-up length, to a queue the agent serves. -/
theorem witness_TransferSendsTheCallBackIntoAQueue_at_once :
    let e := entry .call 1200 7 0 (fields 15 30 255 0xFFFF 0)
    let s := desk.setQueue 30 { queue30 with settings := { queue30.settings with wrapLength := 0 } }
    let out : AgentState := .available
    Taken (gets s e) e .call 7 ∧ (s.call 1200).state = .connected ∧ (s.agent 501).wrapLength = 0 ∧
      (s.agent 501).flags.autoReady = true ∧ (s.queue 30).settings.wrapLength = 0 ∧ (s.queue 30).state = .open ∧
      (s.agent 501).state = .busy ∧ (s.agent 501).lastQueue = some 30 ∧
      KeepsEntering (gets s e) 30 1200 (callPriority e.snapshot)
        (if (s.agent 501).names 30 ∧ out ≠ .available then (s.queue 30).staffed - 1 else (s.queue 30).staffed) :=
  ⟨taken rfl rfl, by unfold KeepsEntering; decide⟩

theorem witness_PriorityMovesAndAnnounceCutsIn :
    let e := entry .call 1300 9 0 (fields 15 30 255 900 0)
    let a := entry .call 1200 10 0 (fields 5 30 255 899 0)
    Taken (gets waiting e) e .call 9 ∧ callPriority e.snapshot = 15 ∧ (waiting.call 1300).state = .queued ∧
      (waiting.call 1300).currentQueue = some 30 ∧ (ringing.call 1300).state = .offered ∧ Taken (gets onHold a) a .call 10 ∧
      (onHold.call 1200).context = some 0 ∧ (onHold.context 0).state = .playing ∧ (onHold.context 0).activity = .step 0 ∧
      (onHold.context 0).stack.length < 4 ∧ (onHold.segment (callSegment a.snapshot)).defined = true ∧
      (desk.call 1200).context = none :=
  ⟨taken rfl rfl, by decide, by decide, by decide, by decide, taken rfl rfl, by decide⟩

/-- By priority 9, 5, 5, 1 and seniority: a call of priority 5 goes between its two equals, one of priority 10 first, and one
that stands in the list's last place but for its seniority last. -/
theorem test_insertByKeys :
    let x := fun (priority seniority : Nat) => { call1300 with priority := priority, seniority := BitVec.ofNat 48 seniority }
    let s := { desk with calls := [(1, x 9 40), (2, x 5 3), (3, x 5 9), (4, x 1 2), (5, x 5 4), (6, x 10 99), (7, x 1 3)] }
    s.insertByKeys 5 [1, 2, 3, 4] = [1, 2, 5, 3, 4] ∧ s.insertByKeys 6 [1, 2, 3, 4] = [6, 1, 2, 3, 4] ∧
      s.insertByKeys 7 [1, 2, 3, 4] = [1, 2, 3, 4, 7] ∧
      [1, 2, 3, 4].Pairwise (fun c d => (s.call c).ahead (s.call d) = true) := by decide

def saved : ReturnRecord :=
  { step := 0, position := 5, passes := 0, phase := 0, bursts := 0, announcement := true, fallback := false }

/-- An announcement plays at depth 1; a step plays at depth 4; segment 8 is not DEFINED; a context DRAINING. -/
theorem witness_PriorityMovesAndAnnounceCutsIn_depths :
    let s := onHold.setContext 0 { context0 with activity := .announcement, stack := [saved] }
    let d := onHold.setContext 0 { context0 with stack := [saved, saved, saved, saved] }
    let a := entry .call 1200 10 0 (callFields 5 30 255 255 899 8 0)
    (s.context 0).activity = .announcement ∧ (s.call 1200).context = some 0 ∧ (s.context 0).stack = [saved] ∧
      (d.context 0).activity = .step 0 ∧ 4 ≤ (d.context 0).stack.length ∧ Taken (gets onHold a) a .call 10 ∧
      (onHold.segment (callSegment a.snapshot)).defined = false ∧ (onHold.context 0).call = 1200 ∧
      onHold.binding (onHold.context 0).channel = some 0 ∧
      ((onHold.setContext 0 { context0 with state := .draining }).context 0).state = .draining :=
  ⟨by decide, by decide, by decide, by decide, by decide, taken rfl rfl, by decide⟩

theorem witness_RefusedCallCommandsChangeNothing :
    let e := fun code agent => entry .call 1300 code 0 (fields 5 30 255 900 agent)
    let f := fun code => entry .call 1200 code 0 []
    Taken (gets waiting (e 1 0)) (e 1 0) .call 1 ∧ (waiting.call 1300).state ≠ .free ∧
      Taken (gets desk (f 2)) (f 2) .call 2 ∧ (desk.call 1200).state = .connected ∧
      Taken (gets ringing (e 3 1024)) (e 3 1024) .call 3 ∧ 1023 < callOfferAgent (e 3 1024).snapshot ∧
      Taken (gets ringing (e 4 1023)) (e 4 1023) .call 4 ∧ callOfferAgent (e 4 1023).snapshot = 1023 ∧
      (ringing.call 1300).state = .offered ∧ (ringing.call 1300).agent ≠ some 1023 ∧
      Taken (gets waiting (e 5 0)) (e 5 0) .call 5 ∧ Taken (gets waiting (e 6 0)) (e 6 0) .call 6 ∧
      Taken (gets waiting (e 7 0)) (e 7 0) .call 7 ∧ Taken (gets waiting (e 8 0)) (e 8 0) .call 8 ∧
      Taken (gets desk (e 9 0)) (e 9 0) .call 9 ∧ (desk.call 1300).state = .free :=
  ⟨taken rfl rfl, by decide, taken rfl rfl, by decide, taken rfl rfl, by decide, taken rfl rfl, by decide, by decide, by decide,
    taken rfl rfl, taken rfl rfl, taken rfl rfl, taken rfl rfl, taken rfl rfl, by decide⟩

/-- Fields just past their ranges; the target queue IDLE, CLOSED and full. -/
theorem witness_RefusedCallCommandsChangeNothing_fields :
    let e := fun code priority target program => entry .call 1200 code 0 (fields priority target program 899 0)
    let h := entry .call 1200 5 0 (callFields 5 30 255 64 899 0 0)
    let n := entry .call 1300 1 0 (fields 15 64 63 900 0)
    let q := fun s => ((desk.setQueue 31 s).queue 31)
    Taken (gets desk (e 9 16 30 255)) (e 9 16 30 255) .call 9 ∧ 15 < callPriority (e 9 16 30 255).snapshot ∧
      Taken (gets desk h) h .call 5 ∧ (desk.call 1200).state = .connected ∧ callHoldProgram h.snapshot = 64 ∧
      Taken (gets desk n) n .call 1 ∧ (desk.call 1300).state = .free ∧ ¬ 15 < callPriority n.snapshot ∧
      callQueueProgram n.snapshot = 63 ∧ 64 ≤ callTarget n.snapshot ∧ Taken (gets desk (e 7 15 31 64)) (e 7 15 31 64) .call 7 ∧
      callQueueProgram (e 7 15 31 64).snapshot = 64 ∧ callTarget (e 7 15 31 255).snapshot < 64 ∧ (desk.queue 31).state = .idle ∧
      (q { state := .closed }).state = .closed ∧
      (q { state := .open, occupancy := 1, settings := { capacity := 1 } }).settings.capacity ≤ 1 :=
  ⟨taken rfl rfl, by decide, taken rfl rfl, by decide, by decide, taken rfl rfl, by decide, by decide, by decide, by decide,
    taken rfl rfl, by decide⟩

/-! #### The hand-over and the part's commands -/

def passing : State := { desk with part := { desk.part with state := .pass } }

theorem witness_HandOverSettlesTornNotActiveAndUnknown :
    let e := entry .call 1300 1 0 []
    let f := flagEntry 501 0
    let p := entry .part 0 4 0 []
    (gets desk { e with torn := true }).intake.head? = some { e with torn := true } ∧
      (Instr.enqueue, RecordKind.call, e.code) ∈ recordRows ∧ (gets passing e).part.state ≠ .active ∧
      (gets desk f).intake.head? = some f ∧ f.flagWord = true ∧
      (Instr.libraryApply, p.code, [PartState.pass, .loading]) ∈ partRows ∧ (gets passing p).intake.head? = some p ∧
      passing.part.state ∈ [PartState.pass, .loading] := by decide

theorem witness_HandOverSettlesTornNotActiveAndUnknown_codes :
    let e := fun (kind : RecordKind) code => entry kind 0 code 0 []
    (gets desk (e .call 0)).intake.head? = some (e .call 0) ∧ (e .call 0).code = 0 ∧ 10 < (e .call 11).code.toNat ∧
      6 < (e .agent 7).code.toNat ∧ 6 < (e .queue 255).code.toNat ∧ 8 < (e .part 9).code.toNat := by decide

theorem witness_EnableLatchesAndValidates :
    Handed (gets desk enable) enable .part 1 ∧ desk.part.state ≠ .pass ∧ Handed (gets (bringUp 2) enable) enable .part 1 ∧
      (bringUp 2).part.state = .pass ∧
      validate (bringUp 2).path.straps (configOf (bringUp 2).staging.configWords) = .none ∧
      validate (bringUp 1).path.straps (configOf (bringUp 1).staging.configWords) = .tagClash ∧ Canonical (bringUp 1) :=
  ⟨handed rfl, by decide, handed rfl, by decide, by decide, by decide, by unfold Canonical; decide⟩

/-- Zeros in the block; and a feed 3 whose delay exceeds what its ring of 1 KiB leaves. -/
theorem test_configOf :
    let z := configOf []
    let c := configOf (List.replicate 20 0 ++ [0x1000, 0x1400, 0x07050301, 0xFFFF])
    z.wrapCeiling = 65535 ∧ (z.feeds.getD 3 {}).timeout = 1 ∧ (z.feeds.getD 3 {}).settle = 1 ∧ (z.feeds.getD 3 {}).delay = 64 ∧
      c.feeds.getD 3 {} =
        { ringStart := 0x1000, ringEnd := 0x1400, enable := true, tag := 3, timeout := 5, settle := 7, delay := 960 } := by decide

/-- One configuration for each answer. -/
theorem witness_ValidationFindsTheFirstFailure :
    let c : PartConfig := { callBase := 0x20000000, agentBase := 0x20020000, channelBase := 0x20030000, voiceTag := 1 }
    let f : FeedConfig := { enable := true, ringStart := 0x21000000, ringEnd := 0x21000400, tag := 2 }
    validate 3 c = .none ∧ validate 3 { c with feeds := [f] } = .none ∧
      validate 3 { c with callBase := 0x20010000 } = .windowAlign ∧ validate 2 { c with agentBase := 0x2FFF0000 } = .windowOverlap ∧
      validate 3 { c with feeds := [{ f with ringEnd := 0x210003FC }] } = .feedRing ∧
      validate 3 { c with feeds := [{ f with tag := 1 }] } = .tagClash := by decide

theorem witness_RestartAndDisableByState :
    let r := entry .part 0 3 0 []
    let d := entry .part 0 2 0 []
    Handed (gets loading r) r .part 3 ∧ Handed (gets State.reset d) d .part 2 ∧ State.reset.part.state = .pass ∧
      Handed (gets waiting d) d .part 2 ∧ waiting.part.state ≠ .pass ∧ Canonical waiting :=
  ⟨handed rfl, handed rfl, by decide, handed rfl, by decide, by unfold Canonical; decide⟩

theorem witness_LibraryApplyLatchesTheLibrary :
    Taken (gets desk (entry .part 0 4 0 [])) (entry .part 0 4 0 []) .part 4 := taken rfl rfl

def noticed : State := { desk with events := { notices := [{ offer121 with cls := .call, kind := .maxWait }], sequence := 121 } }

theorem witness_EventPopAndSummaryClear :
    let p := fun n => entry .part 0 5 n []
    Handed (gets told (p 121)) (p 121) .part 5 ∧ told.part.state ≠ .loading ∧ told.events.dispatch = [offer121] ∧
      offer121.sequence = (p 121).argument ∧ Handed (gets noticed (p 121)) (p 121) .part 5 ∧ noticed.events.dispatch = [] ∧
      noticed.events.notices = [{ offer121 with cls := .call, kind := .maxWait }] ∧
      Handed (gets desk (p 0)) (p 0) .part 5 ∧ (p 0).argument = 0 ∧ Handed (gets desk (p 65535)) (p 65535) .part 5 ∧
      desk.events.dispatch = [] ∧ desk.events.notices = [] ∧
      Handed (gets told (entry .part 0 6 127 [])) (entry .part 0 6 127 []) .part 6 :=
  ⟨handed rfl, by decide, by decide, by decide, handed rfl, by decide, by decide, handed rfl, by decide, handed rfl, by decide,
    by decide, handed rfl⟩

theorem witness_TimebaseClearJudgesTheHistory :
    let e := entry .part 0 8 0 []
    let s := { desk with time := { desk.time with state := .substitute } }
    let m := { s with time := { s.time with history := false :: List.replicate 7 true } }
    Handed (gets loading e) e .part 8 ∧ loading.part.state = .loading ∧ Handed (gets s e) e .part 8 ∧
      s.part.state ≠ .loading ∧ s.time.state = .substitute ∧ (∀ p ∈ s.time.history, p = true) ∧
      (∃ p ∈ m.time.history, p = false) ∧ Handed (gets desk e) e .part 8 ∧ desk.time.state = .external ∧
      Handed (gets State.reset e) e .part 8 ∧ State.reset.time.state = .starting :=
  ⟨handed rfl, by decide, handed rfl, by decide, by decide, by decide, by decide, handed rfl, by decide, handed rfl, by decide⟩

/-! #### Beats -/

/-- The last word of each region, in ACTIVE with straps 0. -/
theorem witness_AddressesNameTheirWords :
    let anchor := 0x0FFF0000
    (0x04000000 + 64 * 2047 + 4 * 15 < anchor ∧ desk.classify (BitVec.ofNat 32 (0x04000000 + 64 * 2047 + 4 * 15)) = .callPart 2047 15) ∧
      (0x04000000 + 0x20000 ≤ 0x04020000 + 64 * 1023 + 4 * 6 ∧
        desk.classify (BitVec.ofNat 32 (0x04020000 + 64 * 1023 + 4 * 6)) = .agentFlags 1023) ∧
      desk.classify (BitVec.ofNat 32 (0x04030000 + 32 * 2047 + 4 * 7)) = .channel 2047 ∧
      desk.classify (BitVec.ofNat 32 (anchor + 4 * 63)) = .configWord 63 ∧
      desk.classify (BitVec.ofNat 32 (anchor + 0x140 + 4 * 15)) = .statusWord 15 ∧
      desk.classify (BitVec.ofNat 32 (anchor + 0x1000 + 4 * 1023)) = .segmentWord 1023 ∧
      desk.classify (BitVec.ofNat 32 (anchor + 0x2000 + 128 * 63 + 4 * 31)) = .queuePart 63 31 ∧
      desk.classify (BitVec.ofNat 32 (anchor + 0x4000 + 4 * 4095)) = .programWord 4095 ∧
      (∀ o ∈ [0x104, 0x13F, 0x190, 0xFFF, 0x8000, 0xFFFF], desk.classify (BitVec.ofNat 32 (anchor + o)) = .outside) ∧
      passing.classify 0x04000000 = .outside ∧ desk.classify 0x04040000 = .outside ∧
      loading.classify 0x20000010 = .callCommand 0 ∧ loading.classify 0x20030000 = .outside := by decide +kernel

def full : State := { desk with intake := List.replicate 32 (entry .part 0 5 0 []) }

theorem witness_CommandWordWritesMakeEntries :
    let s := { desk with intake := List.replicate 31 (entry .part 0 5 0 []) }
    presents (.commandWordWrite (write 0x04000010 0 0xF)) (.write (write 0x04000010 0 0xF)) ∧
      s.path.resetAsserted = false ∧ s.path.waiting = [] ∧ s.intake.length < 32 ∧
      s.classify 0x04000010 = .callCommand 0 ∧ s.classify (0x04020000 + 64 * 1023 + 20) = .agentCommand 1023 ∧
      s.classify 0x04020018 = .agentFlags 0 ∧ s.classify (0x0FFF2000 + 128 * 63 + 32) = .queueCommand 63 ∧
      s.classify 0x0FFF0100 = .partCommand := ⟨Or.inl ⟨_, rfl, Or.inl rfl⟩, by decide +kernel⟩

theorem witness_AFullIntakeHoldsTheBeat :
    let b := write 0x04000010 0x1101 0xF
    let held := { full with path := { waiting := [.write b] } }
    let room := { desk with path := { waiting := [.write b] } }
    presents (.voiceRead (read 1 0)) (.read (read 1 0)) ∧ presents (.stagingWrite b) (.write b) ∧
      full.path.resetAsserted = false ∧ held.path.waiting ≠ [] ∧ (full.classify b.address).command.isSome = true ∧
      32 ≤ full.intake.length ∧ full.path.waiting = [] ∧ held.path.waiting = [.write b] ∧
      (held.classify b.address).command.isSome = true ∧ 32 ≤ held.intake.length ∧
      (room.classify b.address).command = some (.call, 0, false) ∧ room.intake.length < 32 :=
  ⟨Or.inr ⟨_, rfl, Or.inl rfl⟩, Or.inl ⟨_, rfl, Or.inr (Or.inl rfl)⟩, by decide +kernel⟩

/-- A voice read and a write to the configuration at the front while the intake is full; a command word beat stays behind. -/
theorem witness_AFullIntakeHoldsTheBeat_others :
    let b : Beat := .read (read 1 (0x04030000 + 32 * 899))
    let c := write 0x0FFF0000 7 0xF
    let s := { full with path := { waiting := [b, .write (write 0x04000010 0x1101 0xF)] } }
    presents (.voiceRead (read 1 (0x04030000 + 32 * 899))) b ∧ presents (.stagingWrite c) (.write c) ∧
      (full.classify c.address).command = none ∧
      (after .heldCommandBeat s).path.waiting = [.write (write 0x04000010 0x1101 0xF)] ∧
      (after .heldCommandBeat s).path.forward = [b] ∧
      (after .heldCommandBeat (after .heldCommandBeat s)).path.waiting = [.write (write 0x04000010 0x1101 0xF)] :=
  ⟨Or.inr ⟨_, rfl, Or.inl rfl⟩, Or.inl ⟨_, rfl, Or.inr (Or.inl rfl)⟩, by decide +kernel⟩

theorem witness_StagingFollowsWriteBeats :
    let b := write 0x0400000C 7 0x4
    let burst : LoadBurst := { first := { table := .call, index := 0, word := 0 }, beats := 4, hostWrote := [] }
    let s := { desk with part := { desk.part with burst := some burst } }
    presents (.stagingWrite b) (.write b) ∧ desk.path.resetAsserted = false ∧ desk.path.waiting = [] ∧
      (desk.classify b.address).command = none ∧ desk.classify b.address = .callHost 0 3 ∧
      desk.classify 0x04020010 = .agentHost 0 4 ∧ desk.classify 0x0FFF203C = .queueHost 0 15 ∧
      desk.classify 0x0FFF00FC = .configWord 63 ∧ desk.classify 0x0FFF1000 = .segmentWord 0 ∧
      desk.classify 0x0FFF4000 = .programWord 0 ∧ desk.classify 0x04000014 = .callPart 0 5 ∧
      (desk.classify 0x04000014).command = none ∧ desk.part.burst = none ∧ s.classify b.address = .callHost 0 3 ∧
      s.part.burst = some burst ∧ (s.classify b.address).command = none ∧ s.path.resetAsserted = false ∧ s.path.waiting = [] ∧
      (desk.classify 0x04020010).command = none ∧ (desk.classify 0x0FFF203C).command = none ∧
      (desk.classify 0x0FFF00FC).command = none :=
  ⟨Or.inl ⟨_, rfl, Or.inr (Or.inl rfl)⟩, by decide +kernel⟩

/-- The last byte of feed 1's ring, while ARMING and while MISSING; feed 0 is OFF. -/
theorem witness_CountedWritesMoveTheHead :
    let b : WriteBeat := { tag := 2, address := 0x08001FFC, data := 0, enables := 0x8 }
    let s := feeds.setFeed 1 { feed1 with state := .arming }
    s.path.resetAsserted = false ∧ s.path.waiting = [] ∧ (s.classify b.address).command = none ∧
      (s.feed 1).Counts b ∧ (s.feed 1).state = .arming ∧ (s.feed 1).settling = false ∧ (feeds.feed 1).Counts b ∧
      (feeds.feed 1).state ≠ .arming ∧ ¬ (s.feed 0).Counts b := by unfold Feed.Counts; decide

theorem witness_VoiceReadsTakeTheNextSamples :
    let b := read 1 (0x04030000 + 32 * 899 + 28)
    let s := onHold.setContext 0 { context0 with state := .starting }
    presents (.voiceRead b) (.read b) ∧ onHold.path.resetAsserted = false ∧ onHold.path.waiting = [] ∧
      onHold.part.state = .active ∧ b.tag = onHold.part.config.voiceTag ∧ onHold.classify b.address = .channel 899 ∧
      onHold.binding 899 = some 0 ∧ (onHold.context 0).state = .playing ∧ (∀ f, ¬ (onHold.context 0).reads f) ∧
      (s.context 0).state = .starting ∧ s.binding 899 = some 0 :=
  ⟨Or.inr ⟨_, rfl, Or.inl rfl⟩, by decide +kernel, by decide +kernel, by decide +kernel, by decide +kernel, by decide +kernel,
    by decide +kernel, by decide +kernel, fun _ ⟨_, _, _, _, _, h, _⟩ => absurd h (by decide), by decide +kernel⟩

/-- Twelve samples, four of them read, leave a reader of feed 1 at a fill of 8: on a segment with the feed LIVE, and on the
ring with it lost, its fallback DEFINED and not. -/
theorem witness_VoiceReadsTakeTheNextSamples_feed :
    let x : Context := { context0 with step := { kind := .feed, arg := 9, feed := 1 }, buffer := List.replicate 12 0 }
    let s := (onHold.setContext 0 x).setFeed 1 { feed1 with state := .live }
    let lost := (onHold.setContext 0 { x with source := .ring }).setFeed 1 feed1
    { x with buffer := x.buffer.drop 4 }.reads 1 ∧ s.binding 899 = some 0 ∧ (s.context 0).source = .segment ∧
      (s.feed 1).state = .live ∧ (lost.context 0).source = .ring ∧ (lost.feed 1).state ≠ .live ∧
      (lost.segment 9).defined = true ∧ (lost.segment 8).defined = false :=
  ⟨⟨Or.inr rfl, rfl, by decide, 0, rfl, rfl, rfl⟩, by decide +kernel⟩

theorem witness_ReadsAreAnsweredFromLiveState :
    presents (.eventWindowRead (read 0 0x0FFF0180)) (.read (read 0 0x0FFF0180)) ∧ desk.path.resetAsserted = false ∧
      desk.path.waiting = [] ∧ desk.part.state = .active ∧ desk.classify 0x0FFF0140 = .statusWord 0 ∧
      desk.classify 0x0FFF2040 = .queuePart 0 16 ∧ desk.classify 0x04000014 = .callPart 0 5 ∧
      desk.classify 0x0402001C = .agentPart 0 7 ∧ loading.part.state ≠ .active ∧ loading.classify 0x20000014 = .callPart 0 5 ∧
      desk.classify 0x0FFF0180 = .eventWord 0 ∧ desk.classify 0x0FFF018C = .eventWord 3 ∧ desk.events.shown = none ∧
      { told with events := { told.events with shown := some offer121 } }.events.shown = some offer121 ∧
      desk.classify 0 = .outside ∧ desk.classify 0x04000000 = .callHost 0 0 ∧ desk.classify 0x0FFF0000 = .configWord 0 ∧
      desk.classify 0x04030000 = .channel 0 ∧ desk.binding 0 = none := ⟨Or.inr ⟨_, rfl, Or.inr rfl⟩, by decide +kernel⟩

theorem witness_PassThroughBeatsAreGranted :
    let b : Beat := .read (read 0 0)
    let own := { loading with path := { loading.path with forward := [b], passCount := 7 } }
    let s := { desk with path := { forward := [b] } }
    s.path.forward = [b] ∧ s.path.resetAsserted = false ∧ s.playout.contexts = [] ∧ s.part.state ≠ .loading ∧
      own.path.forward = [b] ∧ own.part.state = .loading ∧ own.part.burst = none ∧ own.part.cursor ≠ none ∧
      own.path.passCount < 8 ∧ 8 ≤ { own.path with passCount := 8 }.passCount := by decide

theorem witness_ResetGivesTheColdValues :
    desk.path.resetAsserted = false ∧ (after .reset desk).path.resetAsserted = true ∧
      presents (.voiceRead (read 1 0)) (.read (read 1 0)) := ⟨by decide, by decide, Or.inr ⟨_, rfl, Or.inl rfl⟩⟩

/-! #### Time -/

def clock (state : TimeBaseState) (frames silence : Nat) (seen : Bool) : State :=
  { desk with time := { desk.time with state := state, frames := frames, silence := silence, pulseSeen := seen } }

theorem witness_FramesMakeTicks :
    let s := clock .external 799 1 false
    s.path.resetAsserted = false ∧ s.time.frames < 800 ∧ s.time.history.length = 8 ∧ s.time.frames = 799 ∧
      s.time.state = .external ∧ s.time.silence < 2 ∧ (clock .substitute 799 8 false).time.state = .substitute ∧
      (clock .starting 0 8 true).time.state = .starting ∧ (clock .starting 0 8 true).time.history.length = 8 := by decide

theorem witness_LossMakesUpThreeFrames :
    let s := clock .external 797 2 false
    s.path.resetAsserted = false ∧ s.time.frames < 800 ∧ s.time.state = .external ∧ s.time.silence = 2 ∧
      s.time.pulseSeen = false ∧ 800 ≤ s.time.frames + 3 := by decide

/-- At the due tick itself. -/
theorem witness_ADueOfferExpires :
    let s := at_ 70220 ringing
    let d : Deadline := { call := 1300, kind := .offerExpiry, due := 70220 }
    s.path.resetAsserted = false ∧ frontDeadline s.tick s.deadlines = some d ∧ (s.tick - d.due).toNat < 2 ^ 31 ∧
      (s.call 1300).state = .offered ∧ (s.call 1300).offerExpiry = some 70220 ∧ (s.call 1300).agent = some 500 ∧
      (s.call 1300).currentQueue = some 30 ∧ (s.agent 500).state = .offered ∧
      duplicateSkill (s.agent 500).skills = false := by decide

theorem witness_ADueWaitIsReportedOrOverflows :
    let m := due .maxWaitDue
    let o := due .overflowDue
    let refused := o.setQueue 31 { state := .closed, settings := { capacity := 9, target := 255 } }
    let untimed := o.setCall 1300 { o.call 1300 with hops := 3 }
    let both := { (o.setCall 1300 { o.call 1300 with maxWaitDue := some 70200 }) with
      deadlines := [{ call := 1300, kind := .maxWaitDue, due := 70200 }] }
    m.path.resetAsserted = false ∧ frontDeadline m.tick m.deadlines = some { call := 1300, kind := .maxWaitDue, due := 70200 } ∧
      (m.call 1300).state = .queued ∧ (m.call 1300).currentQueue = some 30 ∧ (m.call 1300).maxWaitDue = some m.tick ∧
      (m.call 1300).overflowDue = none ∧
      frontDeadline o.tick o.deadlines = some { call := 1300, kind := .overflowDue, due := 70200 } ∧
      (o.call 1300).overflowDue = some o.tick ∧ (o.call 1300).maxWaitDue = none ∧ (o.queue 30).settings.mode = .time ∧
      (o.queue 30).settings.overflowAfter ≠ 0 ∧ (o.queue 30).settings.target = 31 ∧ (o.call 1300).hops < 3 ∧
      (o.queue 31).state = .open ∧ (o.queue 31).occupancy < (o.queue 31).settings.capacity ∧
      (refused.queue 31).state ≠ .open ∧ ¬ (untimed.call 1300).hops < 3 ∧
      frontDeadline both.tick both.deadlines = some { call := 1300, kind := .maxWaitDue, due := 70200 } ∧
      (both.call 1300).maxWaitDue = some both.tick ∧ (both.call 1300).overflowDue = some both.tick := by decide

theorem witness_AgentTicksCountAndEndWrapUp :
    let s := wrapping.setAgent 501 { wrapping.agent 501 with wrapRemaining := 2 }
    wrapping.path.resetAsserted = false ∧ (wrapping.agent 501).ticksTaken ≠ wrapping.tick ∧
      (wrapping.agent 501).state = .wrapUp ∧ (wrapping.agent 501).wrapRemaining = 1 ∧
      (wrapping.agent 501).lastQueue = some 30 ∧ duplicateSkill (wrapping.agent 501).skills = false ∧
      1 < (s.agent 501).wrapRemaining ∧ (s.agent 501).state = .wrapUp ∧ (s.agent 501).ticksTaken ≠ s.tick ∧
      (wrapping.agent 1023).state ≠ .wrapUp ∧ (wrapping.agent 1023).ticksTaken ≠ wrapping.tick := by decide

theorem witness_SamplesAreSmoothed :
    let s := { desk with samples := [{ queue := 31, ticks := 0 }, { queue := 30, ticks := 65535 }] }
    s.path.resetAsserted = false ∧ s.samples[0]? = some { queue := 31, ticks := 0 } ∧ (s.queue 31).state = .idle ∧
      s.samples[1]? = some { queue := 30, ticks := 65535 } ∧ (s.queue 30).state ≠ .idle := by decide

theorem witness_TicksRepublishTheWait :
    let s := desk.setQueue 63 { queue30 with staffed := 0, alarm := .high, settings := { queue30.settings with upper := 99, lower := 100 } }
    let h := desk.setQueue 30 { queue30 with settings := { queue30.settings with upper := 99 } }
    let l := desk.setQueue 30 { queue30 with alarm := .high, settings := { queue30.settings with lower := 101 } }
    desk.path.resetAsserted = false ∧ (desk.queue 30).ticksTaken ≠ desk.tick ∧ (desk.queue 30).state ≠ .idle ∧
      (desk.queue 31).state = .idle ∧ (desk.queue 31).ticksTaken ≠ desk.tick ∧ (s.queue 63).staffed = 0 ∧
      (s.queue 63).state ≠ .idle ∧ ¬ 65535 < (s.queue 63).settings.lower ∧ 0 < (h.queue 30).staffed ∧
      min ((1 * (h.queue 30).handle + 16 * 2 - 1) / (16 * 2)) 65535 = 100 ∧ (h.queue 30).alarm = .normal ∧
      (h.queue 30).settings.upper ≠ 0 ∧ (h.queue 30).settings.upper < 100 ∧ (l.queue 30).alarm = .high ∧
      100 < (l.queue 30).settings.lower ∧ (desk.queue 30).alarm = .normal ∧ (desk.queue 30).settings.upper = 0 := by decide

/-! #### The Match Engine -/

/-- Every agent but the two of the desk is LOGGED_OUT. -/
theorem desk_agents (s : State) (h : s.agents = desk.agents) (a : Nat) : (s.agent a).state = .available ↔ a = 500 := by
  unfold State.agent
  rw [h]
  by_cases h0 : a = 500
  · subst h0; decide
  · by_cases h1 : a = 501
    · subst h1; decide
    · simp [desk, Table.read, Ne.symm h0, Ne.symm h1, Agent.cold, h0]

/-- The agent trigger of agent 500: its one queue has one call. -/
theorem witness_TriggersChooseTheBestPair_agent :
    let s := { waiting with engine := { workList := [.agent 500] } }
    s.path.resetAsserted = false ∧ s.part.state = .active ∧ s.engine.proposal = none ∧ s.events.dispatch.length < 128 ∧
      s.engine.workList = [.agent 500] ∧ (s.agent 500).state = .available ∧ (⟨30, 1⟩ : Skill) ∈ (s.agent 500).skills ∧
      (s.queue 30).paused = false ∧ (s.queue 30).waiting ≠ [] ∧ (∀ j ∈ (s.agent 500).skills, j = ⟨30, 1⟩) ∧
      -- dropped: agent 501 is BUSY, and with an empty queue no queue is eligible
      (s.agent 501).state ≠ .available ∧ (∀ k ∈ (desk.agent 500).skills, (desk.queue k.queue).waiting = []) := by decide

theorem witness_TriggersChooseTheBestPair_call :
    let s := { waiting with engine := { workList := [.call 1300] } }
    let paused := s.setQueue 30 { s.queue 30 with paused := true }
    Canonical s ∧ s.path.resetAsserted = false ∧ s.part.state = .active ∧ s.engine.proposal = none ∧
      s.events.dispatch.length < 128 ∧ s.engine.workList = [.call 1300] ∧ (s.call 1300).state = .queued ∧
      (s.call 1300).currentQueue = some 30 ∧ (s.queue 30).paused = false ∧ (s.agent 500).state = .available ∧
      (s.agent 500).names 30 = true ∧ (∀ b, (s.agent b).state = .available ∧ (s.agent b).names 30 = true → b = 500) ∧
      (s.queue 30).waiting.head? = some 1300 ∧ (paused.queue 30).paused = true ∧ (desk.call 1300).state ≠ .queued := by
  refine ⟨by unfold Canonical; decide, by decide, by decide, by decide, by decide, by decide, by decide, by decide, by decide,
    by decide, by decide, ?_, by decide, by decide, by decide⟩
  intro b hb
  exact (desk_agents _ rfl b).1 hb.1

theorem witness_QueueTriggersExpand :
    let s := { desk with engine := { workList := [.queue 30] }, events := { dispatch := List.replicate 127 offer121 } }
    let paused := s.setQueue 30 { queue30 with paused := true }
    Canonical s ∧ s.path.resetAsserted = false ∧ s.part.state = .active ∧ s.engine.proposal = none ∧
      s.events.dispatch.length < 128 ∧ s.engine.workList = [.queue 30] ∧ (s.queue 30).paused = false ∧
      (paused.queue 30).paused = true ∧ Canonical paused :=
  ⟨by unfold Canonical; decide, by decide, by decide, by decide, by decide, by decide, by decide, by decide,
    by unfold Canonical; decide⟩

theorem witness_CommitsMakeTheOffer :
    let s := { waiting with engine := { proposal := some proposal, reserved := true } }
    let gone := { desk with engine := { proposal := some { proposal with trigger := .agent 500 }, reserved := true } }
    s.path.resetAsserted = false ∧ s.engine.proposal = some proposal ∧ (s.call 1300).state = .queued ∧
      (s.call 1300).currentQueue = some 30 ∧ (s.queue 30).waiting.head? = some 1300 ∧ (s.agent 500).state = .available ∧
      (∃ k ∈ (s.agent 500).skills, k.queue = 30) ∧ duplicateSkill (s.agent 500).skills = false ∧
      gone.engine.proposal = some { proposal with trigger := .agent 500 } ∧ (gone.call 1300).state ≠ .queued ∧
      (gone.agent 500).state = .available := by decide

/-! #### Playout -/

/-- In these states context 0 is the only one that is not FREE, so no other stands with a request. -/
theorem only_context0 (s : State) (x : Context) (h : s.playout.contexts = [(0, x)]) (j : Nat) (hj : j ≠ 0) :
    s.context j = Context.cold := by
  unfold State.context
  rw [h]
  simp [Table.read, Ne.symm hj]

theorem cold_makes_no_request (s : State) : s.requests Context.cold = false := rfl

def tone : ProgramStep := { kind := .tone, arg := 9, count := 2, period := 4000, on := 2000 }
def feedStep : ProgramStep := { kind := .feed, arg := 9, feed := 1 }

/-- Context 0 on the ring of feed 1, one word before its end. -/
def reader : State :=
  (feeds.setFeed 1 { feed1 with state := .live, head := 0x08000010 }).setContext 0
    { context0 with step := feedStep, source := .ring, pointer := 0x08001FFC }

theorem witness_FetchesAreFormedAtTheGrant :
    let play := onHold.setContext 0 { context0 with position := 7999, buffer := List.replicate 8 0 }
    Canonical play ∧ play.path.resetAsserted = false ∧ play.playout.fetch = none ∧ play.path.forward = [] ∧
      (play.context 0).state = .playing ∧ (play.context 0).inFlight = false ∧ (play.context 0).buffer.length = 8 ∧
      (∀ j, j ≠ 0 → play.requests (play.context j) = true → False) ∧ (play.context 0).activity = .step 0 ∧
      (play.context 0).step.kind = .play ∧ (play.context 0).position < (play.context 0).segment.length := by
  refine ⟨by unfold Canonical; decide, by decide, by decide, by decide, by decide, by decide, by decide, ?_, by decide, by decide,
    by decide⟩
  intro j hj h
  rw [only_context0 _ _ rfl j hj, cold_makes_no_request] at h
  exact absurd h (by decide)

/-- No request: a fill of 9, a fetch in flight, DRAINING, QUIET, the silent part of a TONE period, a FEED step on silence, a
ring with nothing available. -/
theorem test_requests :
    let no := fun (x : Context) => onHold.requests x = false
    onHold.requests { context0 with buffer := List.replicate 8 0 } = true ∧ no { context0 with buffer := List.replicate 9 0 } ∧
      no { context0 with inFlight := true } ∧ no { context0 with state := .draining } ∧
      no { context0 with step := { kind := .quiet, count := 1 } } ∧ no { context0 with step := tone, phase := 2000 } ∧
      onHold.requests { context0 with step := tone, phase := 1999 } = true ∧
      no { context0 with step := feedStep, source := .silence } ∧ reader.requests (reader.context 0) = true ∧
      reader.requests { reader.context 0 with pointer := 0x08000010 } = false := by decide

/-- The last sample of a burst; a word at the ring's end; a pointer about to be overtaken. -/
theorem witness_FetchesAreFormedAtTheGrant_sources :
    let t := on tone { context0 with phase := 1999, position := 8000 }
    let lap := reader.setFeed 1 { feed1 with state := .live, head := 0x08001FFB }
    let available := fun (s : State) => ((s.feed 1).head.toNat - 0x08000000 + 8192 - ((s.context 0).pointer.toNat - 0x08000000)) % 8192
    (t.context 0).step.kind = .tone ∧ (t.context 0).phase < (t.context 0).step.on ∧
      (t.context 0).segment.loopStart < (t.context 0).segment.length ∧ (reader.context 0).step.kind = .feed ∧
      (reader.context 0).source = .ring ∧ 0 < available reader ∧ ¬ 8192 - 64 < available reader ∧
      8192 - 64 < available lap ∧ (reader.context 0).pointer + 4 = (reader.feed 1).latched.ringEnd := by decide

/-- One step of each kind, CALL and RETURN and SAY_POSITION among them. -/
def steps : List ProgramStep :=
  [play9, { kind := .quiet, count := 1 }, { kind := .tone, arg := 9, count := 2, period := 4000, on := 2000 },
    { kind := .feed, arg := 9, feed := 3 }, { kind := .sayWait }, { kind := .sayPosition }, { kind := .jump, arg := 15 },
    { kind := .call, arg := 15 }, { kind := .ret }, { kind := .stop }, { kind := .other 12 }, { kind := .tone, arg := 8, period := 0 },
    { kind := .feed, arg := 8, feed := 4 }, { kind := .play, arg := 8 }, { kind := .quiet }, { kind := .tone, arg := 8, period := 1 }]

/-- Segment 9 is DEFINED and segment 8 is not; the call on hold is in no line, and call 1300 is first in its queue; entry 1
holds segment 9, and every entry above falls to it. -/
theorem witness_ProgramStepsBeginAndResumeByKind :
    let s := { onHold with playout := { onHold.playout with programs := [(5, { program5 with steps := steps, bands := 9 :: List.replicate 7 255 })] } }
    let p := s.program (s.context 0).program
    let kind := fun i => (p.steps.getD i {}).kind
    let line := { waiting with playout := s.playout }
    (s.context 0).beginnings + 1 < 16 ∧ (List.range 11).map kind =
        [.play, .quiet, .tone, .feed, .sayWait, .sayPosition, .jump, .call, .ret, .stop, .other 12] ∧
      (s.segment 9).defined = true ∧ (s.segment 8).defined = false ∧ (p.steps.getD 11 {}).period = 0 ∧
      4 ≤ (p.steps.getD 12 {}).feed ∧ kind 13 = .play ∧ kind 14 = .quiet ∧ (p.steps.getD 15 {}).period ≠ 0 ∧
      (s.call 1200).state ≠ .queued ∧ (s.call 1200).state ≠ .offered ∧ InLine line 1300 30 1 ∧ EntryChosen p.bands 1 9 ∧
      EntryChosen p.bands 8 9 ∧ (∀ j, 1 ≤ j → j ≤ 8 → (List.replicate 8 255).getD (j - 1) 255 = 255) ∧
      (s.context 0).stack = [] ∧ ({ context0 with stack := [saved, saved, saved, saved] }).stack.length = 4 := by
  refine ⟨by decide, by decide, by decide, by decide, by decide, by decide, by decide, by decide, by decide, by decide,
    by decide, ⟨by decide, by decide⟩, ⟨1, by decide, by decide, by decide, by decide, fun i h g => by omega⟩,
    ⟨1, by decide, by decide, by decide, by decide, ?_⟩, ?_, by decide⟩
  · intro i h g
    have all : ∀ i ≤ 8, 1 < i → (9 :: List.replicate 7 255).getD (i - 1) 255 = 255 := by decide
    exact all i g h
  · intro j _ h
    have all : ∀ j ≤ 8, (List.replicate 8 255).getD (j - 1) 255 = 255 := by decide
    exact all j h

/-- Records at the last sample of a step and at its end, with passes and bursts to go, at the last, and none left. -/
theorem witness_ProgramStepsBeginAndResumeByKind_records :
    let s := { onHold with playout := { onHold.playout with programs := [(5, { program5 with steps := steps })] } }
    let g := fun i => (s.program 5).steps.getD i {}
    let r := { saved with position := 7999 }
    r.step < 16 ∧ (g 0).kind = .play ∧ r.position < (s.segment (g 0).arg).length ∧
      (s.segment (g 0).arg).length ≤ { r with position := 8000 }.position ∧ (g 0).count = 0 ∧
      ({ play9 with count := 2 } : ProgramStep).count ≠ 0 ∧ 1 < { r with passes := 2 }.passes ∧ { r with passes := 0 }.passes = 0 ∧
      799 < (g 1).count * 800 ∧ (g 1).count * 800 ≤ 800 ∧ 3999 < (g 2).period ∧ (g 2).period ≤ 4000 ∧ (g 2).count ≠ 0 ∧
      1 < { r with bursts := 2 }.bursts ∧ (g 3).feed < 4 ∧ (s.feed 3).state ≠ .live ∧
      (({ s with feeds := [(3, { feed1 with state := .live })] } : State).feed 3).state = .live ∧
      (s.segment (g 3).arg).defined = true ∧ (g 9).kind = .stop := by decide

/-- A PLAY that a RETURN names is the fifteenth beginning in a row, or the sixteenth, which stops the context. -/
theorem test_return_counts :
    let t := fun n => (onHold.setContext 0 { context0 with beginnings := n }).control 0 (.returned saved)
    ((onHold.program 5).steps.getD saved.step {}).kind = .play ∧ ((t 14).context 0).beginnings = 15 ∧
      ((t 14).context 0).activity = .step saved.step ∧ ((t 15).context 0).state = .free ∧
      (t 15).events.notices.map (fun r => (r.kind, r.detail)) = [(.playoutFault, 1)] := by decide

def burst0 : FetchBurst := { context := 0, address := 0x04001000, beats := 2, skip := 2, count := 6 }

def placing (x : Context) : State :=
  let s := onHold.setContext 0 x
  { s with playout := { s.playout with fetch := some burst0 } }

theorem witness_BurstsEndByArrivalOrError :
    let flying := { context0 with inFlight := true }
    (placing flying).path.resetAsserted = false ∧ (placing flying).playout.fetch = some burst0 ∧
      ((placing { flying with state := .draining }).context 0).state = .draining ∧
      ((placing { flying with redirected := true }).context 0).onFeed = false ∧
      ((placing flying).context 0).state ≠ .draining ∧ ((placing flying).context 0).redirected = false ∧
      ((placing flying).context 0).activity = .step 0 ∧ ((placing flying).context 0).step.kind = .play ∧
      ((placing flying).context 0).position + 6 < ((placing flying).context 0).segment.length ∧
      -- the end of a pass, of a step whose argument is 0, and of one with passes to go or none
      ((placing { flying with position := 7994 }).context 0).segment.length ≤
        ((placing { flying with position := 7994 }).context 0).position + 6 ∧
      ((placing flying).context 0).step.count = 0 ∧
      (placing { flying with step := { play9 with count := 2 }, passes := 2, position := 7994 }).playout.fetch = some burst0 := by
  decide

/-- A program whose next step plays, an announcement over it, and a reader of a ring that is LIVE or lost. -/
def twoPlays (x : Context) : State :=
  let s := placing x
  { s with playout := { s.playout with programs := [(5, { program5 with steps := play9 :: play9 :: List.replicate 14 {} })] } }

theorem witness_BurstsEndByArrivalOrError_goes_on :
    let last := twoPlays { context0 with inFlight := true, step := { play9 with count := 1 }, passes := 1, position := 7994 }
    let none_left := twoPlays { context0 with inFlight := true, step := { play9 with count := 1 }, passes := 0, position := 7994 }
    let ann := twoPlays
      { context0 with inFlight := true, activity := .announcement, stack := [{ saved with announcement := true }], position := 7994 }
    let say := twoPlays { context0 with inFlight := true, step := { kind := .sayWait }, position := 7994 }
    last.playout.fetch = some burst0 ∧ (last.context 0).step.count ≠ 0 ∧ (last.context 0).passes = 1 ∧
      (none_left.context 0).passes = 0 ∧ (ann.context 0).activity = .announcement ∧
      (ann.context 0).segment.length ≤ (ann.context 0).position + 6 ∧ (ann.context 0).stack = [saved] ∧
      (ann.context 0).redirected = false ∧ (say.context 0).step.kind = .sayWait ∧
      (say.context 0).segment.length ≤ (say.context 0).position + 6 := by decide

/-- The on part of a TONE period, its last samples, the period's end with bursts to go, at the last, and none left; a reader
on its fallback. -/
theorem witness_BurstsEndByArrivalOrError_tone :
    let at_ := fun phase on bursts =>
      (placing { context0 with inFlight := true, step := { tone with on := on }, phase := phase, bursts := bursts }).context 0
    let back := (placing { context0 with inFlight := true, step := feedStep }).setFeed 1 feed1
    (at_ 1999 2000 2).phase < (at_ 1999 2000 2).step.on ∧ (at_ 1993 2000 2).phase + 6 < tone.period ∧
      (at_ 3994 4000 2).phase < 4000 ∧ tone.period ≤ (at_ 3994 4000 2).phase + 6 ∧ 1 < (at_ 3994 4000 2).bursts ∧
      (at_ 3994 4000 1).bursts = 1 ∧ (at_ 3994 4000 0).bursts = 0 ∧ tone.count ≠ 0 ∧ (back.context 0).step.kind = .feed ∧
      (back.feed 1).state ≠ .live ∧ (back.context 0).source = .segment ∧ (back.context 0).redirected = false := by decide

theorem witness_BurstsEndByArrivalOrError_ring :
    let ring := { (reader.setContext 0 { reader.context 0 with inFlight := true }) with
      playout := { reader.playout with
        contexts := [(0, { reader.context 0 with inFlight := true })]
        fetch := some { context := 0, address := 0x08001FFC, beats := 1, skip := 0, count := 4 } } }
    let lost := ring.setFeed 1 { feed1 with state := .missing }
    ring.playout.fetch = some { context := 0, address := 0x08001FFC, beats := 1, skip := 0, count := 4 } ∧
      (ring.context 0).step.kind = .feed ∧ (ring.context 0).source = .ring ∧ (ring.feed 1).state = .live ∧
      (ring.context 0).redirected = false ∧ (lost.feed 1).state ≠ .live ∧ (lost.context 0).inFlight = true ∧
      (lost.segment 9).defined = true ∧ 0 < (lost.segment 9).length := by decide

theorem witness_GeneratedGroupsAreSilence :
    let s := on { kind := .quiet, count := 1 } context0
    let f := feeds.setContext 0 { context0 with step := feedStep, source := .silence }
    let live := f.setFeed 1 { feed1 with state := .live }
    s.path.resetAsserted = false ∧ (s.context 0).state = .playing ∧ (s.context 0).buffer.length ≤ 8 ∧
      (s.context 0).activity = .step 0 ∧ (s.context 0).step.kind = .quiet ∧
      (s.context 0).position + 8 < (s.context 0).step.count * 800 ∧
      min 8 (800 - 797) + 797 = 800 ∧
      ((on tone { context0 with phase := 3999 }).context 0).step.on ≤ 3999 ∧ 3999 < tone.period ∧
      3999 + min 8 (tone.period - 3999) = tone.period ∧ 1 < tone.count ∧ (f.context 0).source = .silence ∧
      (f.feed 1).state ≠ .live ∧ (live.feed 1).state = .live ∧ (live.context 0).inFlight = false := by decide

/-- The last QUIET group, and the end of the last TONE period with the count 1 and none left. -/
theorem witness_GeneratedGroupsAreSilence_end :
    let s := twoPlays { context0 with step := { kind := .quiet, count := 1 }, position := 792 }
    let t := fun bursts => (on tone { context0 with phase := 3999, bursts := bursts }).context 0
    (s.context 0).position + min 8 (800 - (s.context 0).position) = (s.context 0).step.count * 800 ∧
      (t 1).bursts = 1 ∧ (t 0).bursts = 0 ∧ (t 0).step.count ≠ 0 := by decide

theorem witness_TimersInterject :
    let s := twoPlays { context0 with timer := 1 }
    s.path.resetAsserted = false ∧ (s.context 0).ticksTaken ≠ s.tick ∧ (s.context 0).state = .playing ∧
      (s.context 0).stack = [] ∧ (s.context 0).timer = 1 ∧ (s.context 0).activity = .step 0 ∧
      (desk.context 511).state ≠ .playing ∧ (desk.context 511).ticksTaken ≠ desk.tick ∧
      1 < { context0 with timer := 2 }.timer := by decide

theorem witness_FeedsArmAreLostAndCleared :
    let arming : Feed := { feed1 with state := .arming, settling := true, settleCount := 18, lastWrite := 30135, ticksTaken := 30139 }
    let s := feeds.setFeed 1 arming
    let last := feeds.setFeed 1 { arming with settleCount := 19 }
    let late := feeds.setFeed 1 { arming with lastWrite := 30134 }
    let live := feeds.setFeed 1 { arming with state := .live, settling := false }
    let lost := late.setFeed 1 { late.feed 1 with state := .live }
    s.path.resetAsserted = false ∧ (s.feed 1).ticksTaken ≠ s.tick ∧ (s.feed 1).state = .arming ∧ (s.feed 1).settling = true ∧
      ¬ (s.feed 1).latched.timeout < (s.tick - (s.feed 1).lastWrite).toNat ∧
      (s.feed 1).settleCount + 1 < (s.feed 1).latched.settle ∧ (last.feed 1).latched.settle ≤ (last.feed 1).settleCount + 1 ∧
      (late.feed 1).latched.timeout < (late.tick - (late.feed 1).lastWrite).toNat ∧ (live.feed 1).state = .live ∧
      (lost.feed 1).latched.timeout < (lost.tick - (lost.feed 1).lastWrite).toNat ∧ (s.feed 3).state = .off ∧
      (s.feed 3).ticksTaken ≠ s.tick ∧ Canonical last ∧ Canonical lost := by unfold Canonical; decide

theorem witness_FeedsArmAreLostAndCleared_clear :
    let e := fun n => entry .part 0 7 n []
    let late := feeds.setFeed 1 { feed1 with lastWrite := 30138 }
    let early := feeds.setFeed 1 { feed1 with lastWrite := 30139 }
    Taken (gets feeds (e 4)) (e 4) .part 7 ∧ 3 < (e 4).argument ∧ Taken (gets feeds (e 3)) (e 3) .part 7 ∧
      (feeds.feed 3).state = .off ∧ Taken (gets feeds (e 1)) (e 1) .part 7 ∧ (feeds.feed 1).state = .missing ∧
      1 < (late.tick - (late.feed 1).lastWrite).toNat ∧ (early.tick - (early.feed 1).lastWrite).toNat = 1 ∧ Canonical early ∧
      (reader.feed 1).state = .live ∧ Taken (gets reader (e 1)) (e 1) .part 7 :=
  ⟨taken rfl rfl, by decide, taken rfl rfl, by decide, taken rfl rfl, by decide, by decide, by decide, by unfold Canonical; decide,
    by decide, taken rfl rfl⟩

/-! #### Loading -/

theorem witness_LoadingReadsGoRecordByRecord :
    let w := fun table index word => LoadWord.mk table index word
    Canonical loading ∧ loading.path.resetAsserted = false ∧ loading.part.state = .loading ∧ loading.part.burst = none ∧
      loading.part.cursor = some (w .queue 0 0) ∧ (∀ k, loading.requests (loading.context k) = false) ∧
      loading.path.forward = [] ∧ 8 ≤ { loading.path with forward := [.write (write 0x3FFF2008 7 0xF)], passCount := 8 }.passCount ∧
      (w .queue 0 7).Owned ∧ (w .queue 63 9).Owned ∧ (w .agent 1023 4).Owned ∧
      (w .call 2047 3).Owned ∧ (w .config 0 63).Owned ∧
      { loading with part := { loading.part with cursor := some (w .call 2047 3) } }.part.cursor = some (w .call 2047 3) := by
  refine ⟨by unfold Canonical; decide, by decide, by decide, by decide, by decide, fun k => rfl, by decide, by decide, ?_⟩
  unfold LoadWord.Owned; decide

/-- A read that ends agent 17's words, and the one that ends the last call record's. -/
theorem witness_LoadingDataFillsStaging :
    let agent : LoadBurst := { first := { table := .agent, index := 17, word := 1 }, beats := 4, hostWrote := [] }
    let call : LoadBurst := { first := { table := .call, index := 2047, word := 0 }, beats := 4, hostWrote := [(2, write 0 7 0x3)] }
    let s := fun b n => { loading with part := { loading.part with burst := some b, discard := n } }
    (s agent 0).path.resetAsserted = false ∧ (s agent 1).part.discard ≠ 0 ∧ (s agent 0).part.discard = 0 ∧
      (s agent 0).part.burst = some agent ∧ ([1, 2, 3, 4] : List Word).length = agent.beats ∧ agent.Within ∧ call.Within ∧
      call.first.table = .call ∧ call.first.word + call.beats = 4 ∧ Canonical (s call 0) ∧ (s call 0).part.burst = some call := by
  have within (t : LoadTable) (i w : Nat) (h : ∀ k < 5, w ≤ k → k < w + 4 → (LoadWord.mk t i k).Owned) (hw : w + 4 ≤ 5)
      (l : List (Nat × WriteBeat)) : (LoadBurst.mk ⟨t, i, w⟩ 4 l).Within := ⟨Nat.le_add_left 1 3, Nat.le_refl 4, fun k (h1 : w ≤ k) (h2 : k < w + 4) => h k (by omega) h1 h2⟩
  refine ⟨by decide, by decide, by decide, by decide, by decide, within _ _ _ (by unfold LoadWord.Owned; decide) (by decide) _,
    within _ _ _ (by unfold LoadWord.Owned; decide) (by decide) _, by decide, by decide, by unfold Canonical; decide, by decide⟩

theorem witness_ConfigurationReadsEndOrFail :
    let b : LoadBurst := { first := { table := .config, index := 0, word := 63 }, beats := 1, hostWrote := [] }
    let bad := { restarting with staging := (bringUp 1).staging }
    restarting.path.resetAsserted = false ∧ restarting.part.discard = 0 ∧ restarting.part.burst = some b ∧
      ([0] : List Word).length = b.beats ∧ b.Within ∧ b.first.table = .config ∧ b.first.word + b.beats = 64 ∧
      restarting.part.restartToken = some 9 ∧ validate 3 (configOf restarting.staging.configWords) = .none ∧
      validate 3 (configOf bad.staging.configWords) ≠ .none ∧ Canonical restarting ∧ Canonical bad := by
  refine ⟨by decide, by decide, by decide, by decide, ⟨by decide, by decide, fun k h1 h2 => ?_⟩, by decide, by decide, by decide,
    by decide, by decide, by unfold Canonical; decide, by unfold Canonical; decide⟩
  have h : k = 63 := by simp only at h1 h2; omega
  subst h
  unfold LoadWord.Owned
  decide

/-! #### Events, stops and invariants -/

/-- The counter at its end; a class not enabled; a full notice queue; the reserved last dispatch entry. -/
theorem witness_PostingSummarisesAndQueues :
    let s := { desk with events := { notices := List.replicate 256 offer121, dispatch := List.replicate 127 offer121, sequence := 65535 }
                         engine := { proposal := some proposal, reserved := true } }
    s.events.sequence = 65535 ∧ s.part.config.enables.getLsbD 1 = true ∧ State.reset.part.config.enables.getLsbD 1 = false ∧
      ¬ s.events.notices.length < 256 ∧ ¬ s.events.dispatch.length + 1 < 128 ∧ desk.events.dispatch.length + 0 < 128 ∧
      desk.events.notices.length < 256 ∧ desk.events.sequence ≤ 65535 := by decide

theorem witness_OnlyAbsentRecordsStop :
    WellFormed (.agentTick 1023) = true ∧ WellFormed (.loadingReadDone [0]) = true ∧
      exec (.feedMissing 4) State.reset = .fault (.noSuchRecord 4) := ⟨by decide, by decide, rfl⟩

theorem witness_StepsKeepTheTablesCanonical :
    Canonical waiting ∧ ∃ t, step { waiting with pending := [.callTrigger] } = .next t :=
  ⟨by unfold Canonical; decide, _, rfl⟩

theorem witness_StepsKeepTheCapacitiesAndRanges :
    let s := { waiting with pending := [.callTrigger] }
    (∃ t, step s = .next t) ∧ WithinCapacity s ∧ WorkListDistinct s ∧ ClockInRange s ∧ LoadingInRange s ∧ SkillsDistinct s ∧
      PassCountRests s := by
  refine ⟨⟨_, rfl⟩, by unfold WithinCapacity; decide, List.nodup_nil, by unfold ClockInRange; decide, ⟨?_, ?_⟩, ?_,
    fun _ => rfl⟩
  · intro w h; cases h
  · intro b h; cases h
  · intro a
    unfold State.agent
    show duplicateSkill (Table.read Agent.cold desk.agents a).skills = false
    by_cases h0 : a = 500
    · subst h0; decide
    · by_cases h1 : a = 501
      · subst h1; decide
      · simp [desk, Table.read, Ne.symm h0, Ne.symm h1, Agent.cold, duplicateSkill]

/-- The last servable request goes with its context, and the count with it. -/
theorem test_passCount :
    let s := { onHold with path := { passCount := 5 } }
    OwnServable s ∧ (after .tick s).path.passCount = 5 ∧
      (after .abandon (gets (s.setContext 0 Context.cold) (entry .call 1200 2 0 []))).path.passCount = 0 :=
  ⟨Or.inr ⟨rfl, (0, context0), List.mem_cons_self, by decide⟩, by decide, by decide⟩

theorem witness_PartOwnedWordsShowLiveState :
    (waiting.queue 30).waiting = [1300] ∧ (desk.queue 30).waiting = [] ∧
      ringing.shownDeadline 1300 = some { call := 1300, kind := .offerExpiry, due := 70220 } ∧ desk.shownDeadline 1300 = none := by
  decide

end Sys2Proof.Tests
end

section
/-! SUPPORT. Every step keeps the record tables canonical, and takes the front command of the queue. -/

namespace Sys2Proof.Machine

variable {s t : State}

/-- The components that hold the sparse tables. -/
def tables : List Component := [.calls, .queues, .agents, .feeds, .contexts, .bindings, .library, .staging]

/-- What touches no table keeps the canonical form. -/
theorem Canonical.of_changes {cs : List Component} (hc : Canonical s) (h : Changes cs s t) (hn : ∀ k ∈ tables, k ∉ cs) :
    Canonical t := by
  have same (k : Component) (hk : k ∈ tables) : k.agree s t := h.keeps k (hn k hk)
  have hcalls : t.calls = s.calls := same .calls (by decide)
  have hqueues : t.queues = s.queues := same .queues (by decide)
  have hagents : t.agents = s.agents := same .agents (by decide)
  have hfeeds : t.feeds = s.feeds := same .feeds (by decide)
  have hcontexts : t.playout.contexts = s.playout.contexts := same .contexts (by decide)
  have hbindings : t.playout.bindings = s.playout.bindings := same .bindings (by decide)
  have hlibrary : t.playout.segments = s.playout.segments ∧ t.playout.programs = s.playout.programs :=
    same .library (by decide)
  have hstaging : t.staging = s.staging := same .staging (by decide)
  unfold Canonical
  rw [hcalls, hqueues, hagents, hfeeds, hcontexts, hbindings, hlibrary.1, hlibrary.2, hstaging]
  exact hc

theorem touches_requeue (h : Touches s t) (p : Proposal) : Touches s (t.requeue p) := by
  unfold State.requeue
  split
  · split
    · exact h.trigger _
    · exact h
  · exact h
  · exact h

theorem canonical_makeOffer (p : Proposal) (hc : Canonical s) : Canonical (s.makeOffer p) := by
  unfold State.makeOffer
  refine (touches_requeue .refl p).canonical ?_
  refine Canonical.of_changes ?_ (changes_endProposal _) (by decide)
  refine Canonical.of_changes ?_ (changes_postOffer ..) (by decide)
  exact Touches.canonical (s := s) (by simp (maxDischargeDepth := 40) [Touches.refl]) hc

/-- The canonical form is kept by every plain update, and by each of the special commands. -/
theorem kept_canonical : Kept Canonical where
  touches hc ht := ht.canonical hc
  dropOldest hc := canonical_intake _ hc
  clock hc u _ := hc.of_changes (changes_setTime _ u) (by decide)
  accept hc b _ := canonical_accept b hc
  propose hc p _ _ := hc.of_changes (changes_propose _ p) (by decide)
  endProposal hc := hc.of_changes (changes_endProposal _) (by decide)
  makeOffer hc p _ := canonical_makeOffer p hc
  dispatchTail hc _ := hc
  noticesTail hc _ := hc
  summaries hc _ _ := hc
  dropLive hc := canonical_dropLive hc
  latchLibrary hc := canonical_latchLibrary hc
  part hc p _ := canonical_part p hc
  issueLoad hc _ _ _ _ _ := hc
  takeLoad hc b data _ := canonical_takeLoad b data hc
  coldPart _ _ _ := ⟨rfl, rfl, rfl, rfl, rfl, rfl, rfl, rfl, rfl, rfl, rfl, rfl, rfl, rfl⟩

/-- Settles O58: the canonical form is one of the properties `Kept` carries along every step. -/
theorem stepsKeepTheTablesCanonical : Obligations.StepsKeepTheTablesCanonical := by
  intro s t hc hstep
  exact kept_canonical.step hc hstep

theorem step_cons {c : Instr} {rest : List Instr} (h : s.pending = c :: rest) :
    step s = exec c { s with pending := rest } := by
  unfold step; rw [h]

theorem step_nil (h : s.pending = []) : step s = .next s := by
  unfold step; rw [h]

/-- Settles O19, by the two shapes of the queue. -/
theorem stepTakesTheFrontCommand : Obligations.StepTakesTheFrontCommand := by
  intro s
  refine ⟨fun c rest h => step_cons h, fun c => ?_, fun h => step_nil h⟩
  exact step_cons (s := { s with pending := c :: s.pending }) rfl

end Sys2Proof.Machine
end

section
/-! SUPPORT. The RESET pin: what its two edges leave (09 R157). -/

namespace Sys2Proof.Machine

variable {s : State}

/-- The part as the release of RESET leaves it (R157). -/
def State.released (s : State) (straps : BitVec 4) : State :=
  { State.reset with
    pending := s.pending, freeIndex := s.freeIndex
    path := { State.reset.path with straps := straps, forward := s.path.forward } }

theorem exec_resetRelease (straps : BitVec 4) (h : s.path.resetAsserted = true) :
    exec (.resetRelease straps) s = .next (s.released straps) := by
  show execResetRelease straps s = _
  unfold execResetRelease
  rw [if_pos h]; rfl

/-- While RESET is asserted every row that presents a beat forwards it (R157). -/
theorem exec_presents_asserted (h : s.path.resetAsserted = true) {i : Instr} {b : Beat} (hp : presents i b) :
    exec i s = .next (s.forwardBeat b) := by
  have forwards (b : Beat) : beatEvent b s = .next (s.forwardBeat b) := by
    unfold beatEvent; rw [if_pos h]
  rcases hp with ⟨w, rfl, rfl | rfl | rfl⟩ | ⟨r, rfl, rfl | rfl⟩ <;> exact forwards _

/-- Where every context is FREE none asks for a fetch (R126). -/
theorem fetchWaiting_of_free (h : ∀ k, (s.context k).state = .free) : s.fetchWaiting = 0 := by
  have quiet (k : Nat) : s.requests (s.context k) = false := by
    simp [State.requests, Context.hungry, Context.running, h k]
  simp [State.fetchWaiting, quiet]

theorem freeContexts_of_free (h : ∀ k, (s.context k).state = .free) : s.freeContexts = 512 := by
  unfold State.freeContexts
  rw [List.filter_eq_self.mpr fun k _ => by rw [h k]; rfl]
  exact List.length_range

theorem freeCalls_of_free (h : ∀ c, (s.call c).state = .free) : s.freeCalls = 2048 := by
  unfold State.freeCalls
  rw [List.filter_eq_self.mpr fun c _ => by rw [h c]; rfl]
  exact List.length_range

/-- Settles O35: the release's state is a fixed one, read field by field. -/
theorem resetGivesTheColdValues : Obligations.ResetGivesTheColdValues := by
  intro s straps noFeed
  refine ⟨fun h => ?_, fun h => ⟨fun i b hp => ?_, ?_⟩, fun h => ?_, fun h => ?_⟩
  · refine ⟨_, by show execReset s = _; unfold execReset; rw [if_neg (by simp [h])], rfl, rfl, rfl, rfl, rfl, rfl, rfl, rfl⟩
  · exact ⟨_, exec_presents_asserted h hp, rfl, changes_forwardBeat ..⟩
  · have calls : ∀ c, ((s.released straps).call c).state = .free := fun _ => rfl
    have contexts : ∀ k, ((s.released straps).context k).state = .free := fun _ => rfl
    refine ⟨_, exec_resetRelease straps h, rfl, rfl, rfl, rfl, rfl, rfl, rfl, rfl, rfl, rfl, rfl, rfl, rfl, rfl, rfl, rfl,
      rfl, fun _ => rfl, fun _ => rfl, fun _ => rfl, fun _ => rfl, fun _ => rfl, rfl, fun _ => rfl, fun _ => rfl,
      fun _ => rfl, rfl, rfl, rfl, rfl, rfl, rfl, rfl, rfl, rfl, rfl, rfl, rfl, rfl, rfl, rfl, ?_, ?_, rfl⟩
    · show packHalves 0 (s.released straps).freeContexts = _
      rw [freeContexts_of_free contexts]; decide
    · show packHalves (s.released straps).freeCalls (s.released straps).fetchWaiting = _
      rw [freeCalls_of_free calls, fetchWaiting_of_free contexts]; decide
  · show execReset s = _
    unfold execReset; rw [if_pos h]
  · show execResetRelease straps s = _
    unfold execResetRelease; rw [if_neg (by simp [h])]

end Sys2Proof.Machine
end

section
/-! SUPPORT. The part-owned words of the record images (11 R166 to R168): the packed codes, a call's place in its queue, and
the oldest caller of a queue (02 R38). -/

namespace Sys2Proof.Machine

/-! ### The oldest first-entry tick (R38) -/

/-- The older of two ticks at the present tick `now`; the first at a tie. -/
def older (now t u : Tick) : Tick := if age now t < age now u then u else t

theorem older_eq (now t u : Tick) : older now t u = t ∨ older now t u = u := by
  unfold older; split
  · exact .inr rfl
  · exact .inl rfl

theorem age_le_older (now t u : Tick) : age now t ≤ age now (older now t u) ∧ age now u ≤ age now (older now t u) := by
  unfold older; split <;> omega

/-- Of a list of ticks and a starting one, the fold keeps one, and the oldest. -/
theorem foldl_older (now : Tick) (f : Nat → Tick) (l : List Nat) (t : Tick) :
    (l.foldl (fun t c => older now t (f c)) t = t ∨ ∃ d ∈ l, l.foldl (fun t c => older now t (f c)) t = f d) ∧
      age now t ≤ age now (l.foldl (fun t c => older now t (f c)) t) ∧
      ∀ d ∈ l, age now (f d) ≤ age now (l.foldl (fun t c => older now t (f c)) t) := by
  induction l generalizing t with
  | nil => exact ⟨.inl rfl, Nat.le_refl _, fun d hd => by cases hd⟩
  | cons c l ih =>
    obtain ⟨hfrom, hstart, hall⟩ := ih (older now t (f c))
    obtain ⟨ht, hc⟩ := age_le_older now t (f c)
    refine ⟨?_, Nat.le_trans ht hstart, fun d hd => ?_⟩
    · rcases hfrom with h | ⟨d, hd, h⟩
      · rcases older_eq now t (f c) with ho | ho
        · exact .inl (h.trans ho)
        · exact .inr ⟨c, List.mem_cons_self, h.trans ho⟩
      · exact .inr ⟨d, List.mem_cons_of_mem _ hd, h⟩
    · rcases List.mem_cons.1 hd with rfl | hd
      · exact Nat.le_trans hc hstart
      · exact hall d hd

/-- A tick of age 0 is the present tick. -/
theorem eq_of_age_zero {now t : Tick} (h : age now t = 0) : t = now := by
  unfold age at h; bv_omega

namespace State

variable (s : State)

theorem oldestEntry_eq (q : Nat) : s.oldestEntry q =
    (s.queue q).waiting.foldl (fun t c => older s.tick t (s.call c).firstEntry) s.tick := rfl

theorem oldestEntry_nil (q : Nat) (h : (s.queue q).waiting = []) : s.oldestEntry q = s.tick := by
  rw [oldestEntry_eq, h]; rfl

theorem age_le_oldestEntry (q d : Nat) (h : d ∈ (s.queue q).waiting) :
    age s.tick (s.call d).firstEntry ≤ age s.tick (s.oldestEntry q) :=
  (foldl_older s.tick (fun c => (s.call c).firstEntry) _ s.tick).2.2 d h

theorem oldestEntry_mem (q : Nat) (h : (s.queue q).waiting ≠ []) :
    ∃ d ∈ (s.queue q).waiting, s.oldestEntry q = (s.call d).firstEntry := by
  rcases (foldl_older s.tick (fun c => (s.call c).firstEntry) (s.queue q).waiting s.tick).1 with hnow | hcall
  · -- The fold kept the present tick, of age 0: then no waiting call is older, and any of them has that tick.
    obtain ⟨d, hd⟩ := List.exists_mem_of_ne_nil _ h
    have hage := s.age_le_oldestEntry q d hd
    rw [oldestEntry_eq, hnow] at hage
    have hzero : age s.tick (s.call d).firstEntry = 0 := by
      have : age s.tick s.tick = 0 := by simp [age]
      omega
    exact ⟨d, hd, hnow.trans (eq_of_age_zero hzero).symm⟩
  · exact hcall

/-! ### Places and packed fields -/

/-- A QUEUED call's position is its place in its queue, from 1 (R4). -/
theorem position_queued {c q : Nat} (hs : (s.call c).state = .queued) (hq : (s.call c).currentQueue = some q) :
    s.position c = (s.queue q).waiting.idxOf c + 1 := by
  unfold position; rw [hs, hq]; rfl

theorem position_other {c : Nat} (h : (s.call c).state ≠ .queued ∨ (s.call c).currentQueue = none) : s.position c = 0 := by
  unfold position
  split
  · next hs hq => simp [hs, hq] at h
  · rfl

theorem queueWord_spare (q w : Nat) (h : 28 ≤ w) : s.queueWord q w = 0 := by
  obtain ⟨k, rfl⟩ := Nat.exists_eq_add_of_le' h
  rfl

theorem statusWord_spare (w : Nat) (h : 10 ≤ w) : s.statusWord w = 0 := by
  obtain ⟨k, rfl⟩ := Nat.exists_eq_add_of_le' h
  rfl

/-- The two words of a seniority number (R168). -/
theorem seniority_low (n : Seniority) : n.extractLsb' 0 32 = BitVec.ofNat 32 n.toNat := by
  apply BitVec.eq_of_toNat_eq; simp

theorem seniority_high (n : Seniority) :
    packHalves (n.extractLsb' 32 16).toNat 0 = BitVec.ofNat 32 (n.toNat / 4294967296) := by
  have hn := n.isLt
  unfold packHalves
  apply BitVec.eq_of_toNat_eq
  simp only [BitVec.extractLsb'_toNat, BitVec.toNat_ofNat, Nat.shiftRight_eq_div_pow]
  omega

end State

/-- Settles O60: each word is the model's packing of the record's fields; what the packing does not show at once is a place
in a queue, the oldest caller, and the halves of a seniority number. -/
theorem partOwnedWordsShowLiveState : Obligations.PartOwnedWordsShowLiveState := by
  intro s c a q bytes halves code result x g u
  have hcode (r : CommandResult) : r.result.code = code r := by
    show r.result.code = _
    cases h : r.result <;> simp only [code, h] <;> rfl
  have hresult (r : CommandResult) : r.image = result r := by
    show packBytes _ _ r.result.code 0 = _
    rw [hcode]
    rfl
  have hfeed (f : Nat) : (s.feed f).state.code = match (s.feed f).state with
      | .off => 0 | .arming => 1 | .live => 2 | .missing => 3 := by
    cases (s.feed f).state <;> rfl
  refine ⟨⟨x.state.code, x.lastEnd.code, ((s.shownDeadline c).map fun d => d.kind.code).getD 0, s.position c, rfl, rfl, rfl,
      rfl, rfl, rfl, rfl, State.seniority_low _, State.seniority_high _, hresult _, ?_, ?_,
      fun q hs hq => s.position_queued hs hq, s.position_other, fun h => ?_, fun d h => ⟨?_, ?_⟩⟩,
    ⟨g.state.code, rfl, rfl, rfl, rfl, rfl, rfl, rfl, rfl, hresult _, ?_⟩,
    ⟨u.state.code, u.alarm.code, rfl, rfl, rfl, rfl, rfl, rfl, rfl, rfl, rfl, rfl, s.oldestEntry_nil q, s.oldestEntry_mem q,
      s.age_le_oldestEntry q, hresult _, s.queueWord_spare q, ?_, ?_⟩,
    ⟨s.part.state.code, s.part.error.code, s.time.state.code, _, rfl, ?_, rfl, rfl, rfl, rfl, rfl, rfl, s.statusWord_spare,
      rfl, rfl, ?_, ?_, ?_, ?_⟩⟩
  case refine_1 => cases x.state <;> rfl
  case refine_2 => cases x.lastEnd <;> rfl
  case refine_3 =>
    have hword : s.callWord c 14 = ((s.shownDeadline c).map fun d => d.due).getD 0 := rfl
    rw [hword, h]
    exact ⟨rfl, rfl⟩
  case refine_4 => rw [h]; cases hk : d.kind <;> simp [hk, DeadlineKind.code]
  case refine_5 =>
    have hword : s.callWord c 14 = ((s.shownDeadline c).map fun d => d.due).getD 0 := rfl
    rw [hword, h]; rfl
  case refine_6 => cases g.state <;> rfl
  case refine_7 => cases u.state <;> rfl
  case refine_8 => cases u.alarm <;> rfl
  case refine_9 =>
    show packBytes _ _ s.part.result.result.code _ = _
    rw [hcode]; rfl
  case refine_10 => cases s.part.state <;> rfl
  case refine_11 => cases s.part.error <;> rfl
  case refine_12 => cases s.time.state <;> rfl
  case refine_13 => simp only [hfeed] <;> rfl

end Sys2Proof.Machine
end

section
/-! SUPPORT. A call command as the intake hands it over: the state its body runs in, the state its answer leaves, and what a
refusal leaves (09 R150; 01 R7). -/

namespace Sys2Proof.Machine

variable {s : State} {e : IntakeEntry}

/-! ### The state a call's body runs in -/

/-- The call of an entry just handed over: one entry fewer is pending (R148). -/
theorem call_handed (hk : e.kind = .call) : (s.dropEntry e).call e.index =
    { s.call e.index with pendingCount := (s.call e.index).pendingCount - 1 } := by simp [hk]

theorem otherCall_handed {d : Nat} (hd : d ≠ e.index) : (s.dropEntry e).call d = s.call d := by simp [hd]

theorem queue_handed (hk : e.kind = .call) (q : Nat) : (s.dropEntry e).queue q = s.queue q := by simp [hk]

theorem agent_handed (hk : e.kind = .call) (a : Nat) : (s.dropEntry e).agent a = s.agent a := by simp [hk]

theorem state_handed (d : Nat) : ((s.dropEntry e).call d).state = (s.call d).state := by
  rw [call_dropEntry]; split <;> rfl

theorem callAgent_handed (d : Nat) : ((s.dropEntry e).call d).agent = (s.call d).agent := by
  rw [call_dropEntry]; split <;> rfl

theorem entryError_handed (hk : e.kind = .call) (ws : List Word) : (s.dropEntry e).entryError ws = s.entryError ws := by
  unfold State.entryError State.queueError
  simp only [queue_handed hk]

/-! ### The state its answer leaves -/

/-- A call's result written, and the arbiter's count settled: the end of a call command (R150). -/
def State.answered (s : State) (e : IntakeEntry) (r : ResultCode) : State :=
  (s.setCall e.index { s.call e.index with result := e.answer r }).settle

namespace State

variable (s : State) (e : IntakeEntry) (r : ResultCode)

@[simp] theorem call_answered (d : Nat) : (s.answered e r).call d =
    if d = e.index then { s.call e.index with result := e.answer r } else s.call d := by simp [answered]
@[simp] theorem queue_answered (q : Nat) : (s.answered e r).queue q = s.queue q := by simp [answered]
@[simp] theorem agent_answered (a : Nat) : (s.answered e r).agent a = s.agent a := by simp [answered]
@[simp] theorem context_answered (k : Nat) : (s.answered e r).context k = s.context k := by simp [answered]
@[simp] theorem binding_answered (b : Nat) : (s.answered e r).binding b = s.binding b := by simp [answered]
@[simp] theorem intake_answered : (s.answered e r).intake = s.intake := by simp [answered]
@[simp] theorem queues_answered : (s.answered e r).queues = s.queues := by simp [answered]
@[simp] theorem deadlines_answered : (s.answered e r).deadlines = s.deadlines := by simp [answered]
@[simp] theorem seniority_answered : (s.answered e r).seniority = s.seniority := by simp [answered]
@[simp] theorem samples_answered : (s.answered e r).samples = s.samples := by simp [answered]
@[simp] theorem engine_answered : (s.answered e r).engine = s.engine := by simp [answered]
@[simp] theorem events_answered : (s.answered e r).events = s.events := by simp [answered]
@[simp] theorem freeIndex_answered : (s.answered e r).freeIndex = s.freeIndex := by simp [answered]
@[simp] theorem tick_answered : (s.answered e r).tick = s.tick := by simp [answered]

@[simp] theorem frame_answered {cs : List Component} {u : State} (h : Changes cs u s) (hc : .calls ∈ cs)
    (hp : .passCount ∈ cs) : Changes cs u (s.answered e r) := by
  unfold answered
  exact frame_settle (frame_setCall h _ _ hc) hp

theorem armed_answered (d : Nat) : ((s.answered e r).call d).armed = (s.call d).armed := by
  rw [call_answered]
  split
  · next h => subst h; rfl
  · rfl

variable {s e} in
/-- What a call's deadline entry follows is the same before the hand-over and after the answer (R23). -/
theorem entryFollows_answered {c : Nat} {t : State} (h : EntryFollows c (s.dropEntry e) t) :
    EntryFollows c s (t.answered e r) :=
  entryFollows_from (entryFollows_congr h (by simp) (t.armed_answered e r c) (by simp)) (by simp)

end State

/-- A call command that reaches the Call Unit: its body's answer is written last (R150). -/
theorem callCommand_taken {code : Byte} {body : IntakeEntry → State → ResultCode × State} {r : ResultCode} {u : State}
    (h : Taken s e .call code) (hb : body e (s.dropEntry e) = (r, u)) :
    recordCommand .call code body s = .next (u.answered e r) := by
  rw [recordCommand_taken h, hb, writeResult_call h.1.kind, resultOf_word h.1.commandWord]
  rfl

/-- A body that answers a result and leaves the state it was handed (R7). -/
theorem callCommand_refused {code : Byte} {body : IntakeEntry → State → ResultCode × State} {r : ResultCode}
    (h : Taken s e .call code) (hb : body e (s.dropEntry e) = (r, s.dropEntry e)) :
    ∃ t, recordCommand .call code body s = .next t ∧ OnlyAnswered s t e (e.answer r) := by
  refine ⟨_, recordCommand_taken h body, ?_⟩
  rw [hb, ← resultOf_word h.1.commandWord]
  exact onlyAnswered s e r

/-! ### The checks, and what each refuses (R7, R15, R37) -/

theorem enqueueBody_wrongState (h : (s.call e.index).state ≠ .free) : enqueueBody e s = (.wrongState, s) := if_pos h

theorem enqueueBody_entryError {r : ResultCode} (h : (s.call e.index).state = .free)
    (he : s.entryError e.snapshot = some r) : enqueueBody e s = (r, s) := by
  unfold enqueueBody; simp [h, he]

theorem transferBody_wrongState (h1 : (s.call e.index).state ≠ .connected) (h2 : (s.call e.index).state ≠ .agentHold) :
    transferBody e s = (.wrongState, s) := if_pos ⟨h1, h2⟩

theorem transferBody_entryError {r : ResultCode}
    (h : (s.call e.index).state = .connected ∨ (s.call e.index).state = .agentHold)
    (he : s.entryError e.snapshot = some r) : transferBody e s = (r, s) := by
  unfold transferBody
  rcases h with h | h <;> simp [h, he]

theorem abandonBody_wrongState (h1 : (s.call e.index).state ≠ .queued) (h2 : (s.call e.index).state ≠ .offered) :
    abandonBody e s = (.wrongState, s) := by
  unfold abandonBody
  cases h : (s.call e.index).state
  case queued => exact absurd h h1
  case offered => exact absurd h h2
  all_goals simp only [h]

theorem answerBody_offerError {r : ResultCode} (h : s.offerError e.index e.snapshot = some r) :
    answerBody e s = (r, s) := by
  unfold answerBody; simp only [h]

theorem noAnswerBody_offerError {r : ResultCode} (h : s.offerError e.index e.snapshot = some r) :
    noAnswerBody e s = (r, s) := by
  unfold noAnswerBody; simp only [h]

theorem holdBody_wrongState (h : (s.call e.index).state ≠ .connected) : holdBody e s = (.wrongState, s) := if_pos h

theorem holdBody_badField (h : (s.call e.index).state = .connected) (hp : programInRange (callHoldProgram e.snapshot) = false) :
    holdBody e s = (.badField, s) := by
  unfold holdBody; simp [h, hp]

theorem resumeBody_wrongState (h : (s.call e.index).state ≠ .agentHold) : resumeBody e s = (.wrongState, s) := if_pos h

theorem releaseBody_wrongState (h1 : (s.call e.index).state ≠ .connected) (h2 : (s.call e.index).state ≠ .agentHold) :
    releaseBody e s = (.wrongState, s) := if_pos ⟨h1, h2⟩

theorem priorityBody_wrongState (h : (s.call e.index).state = .free) : priorityBody e s = (.wrongState, s) := if_pos h

theorem priorityBody_badField (h : (s.call e.index).state ≠ .free) (hp : 15 < callPriority e.snapshot) :
    priorityBody e s = (.badField, s) := by
  unfold priorityBody; simp [h, hp]

theorem programInRange_eq_false {p : Nat} : programInRange p = false ↔ 64 ≤ p ∧ p ≠ 255 := by
  unfold programInRange Config.numPrograms
  simp only [Bool.or_eq_false_iff, decide_eq_false_iff_not, beq_eq_false_iff_ne, Nat.not_lt, ne_eq]

/-- The offer agent's range goes before the state (R7, R15). -/
theorem offerError_badField {c : Nat} {ws : List Word} (h : 1023 < callOfferAgent ws) :
    s.offerError c ws = some .badField := if_pos h

theorem offerError_tooLate {c : Nat} {ws : List Word} (ha : callOfferAgent ws ≤ 1023)
    (h : (s.call c).state = .queued ∨ (s.call c).state = .offered ∧ (s.call c).agent ≠ some (callOfferAgent ws)) :
    s.offerError c ws = some .tooLate := by
  unfold State.offerError
  rw [if_neg (by unfold Config.numAgents; omega)]
  rcases h with h | ⟨h, hagent⟩
  · simp [h]
  · simp [h, hagent]

theorem offerError_wrongState {c : Nat} {ws : List Word} (ha : callOfferAgent ws ≤ 1023)
    (h : (s.call c).state = .free ∨ (s.call c).state = .connected ∨ (s.call c).state = .agentHold) :
    s.offerError c ws = some .wrongState := by
  unfold State.offerError
  rw [if_neg (by unfold Config.numAgents; omega)]
  rcases h with h | h | h <;> simp [h]

theorem offerError_none {c a : Nat} {ws : List Word} (ha : callOfferAgent ws = a) (hr : a < 1024)
    (hs : (s.call c).state = .offered) (hagent : (s.call c).agent = some a) : s.offerError c ws = none := by
  unfold State.offerError
  rw [if_neg (by unfold Config.numAgents; omega)]
  simp [hs, ha, hagent]

/-- A priority or a queue program out of R3's range. -/
def BadEntryField (ws : List Word) : Prop :=
  15 < callPriority ws ∨ 64 ≤ callQueueProgram ws ∧ callQueueProgram ws ≠ 255

theorem entryError_badField {ws : List Word} (h : BadEntryField ws) : s.entryError ws = some .badField := by
  have hf : entryFieldError ws = some .badField := by
    unfold entryFieldError
    rcases h with h | h
    · rw [if_pos h]
    · rw [programInRange_eq_false.2 h, if_pos rfl, ite_self]
  unfold State.entryError
  rw [hf]

/-- With the two fields in range the target queue decides, first by its number (R3, R37; log 16). -/
theorem entryError_goodFields {ws : List Word} (h : ¬ BadEntryField ws) : s.entryError ws =
    if 64 ≤ callTarget ws then some .badQueue else s.queueError (callTarget ws) := by
  obtain ⟨hp, hq⟩ := not_or.1 h
  rw [← programInRange_eq_false] at hq
  unfold State.entryError entryFieldError Config.numQueues
  rw [if_neg hp, if_neg hq]
  by_cases ht : 64 ≤ callTarget ws <;> simp [ht]

theorem entryError_badQueue {ws : List Word} (h : ¬ BadEntryField ws)
    (hq : 64 ≤ callTarget ws ∨ (s.queue (callTarget ws)).state = .idle) : s.entryError ws = some .badQueue := by
  rw [entryError_goodFields h]
  split
  · rfl
  · next hlt => simp [State.queueError, hq.resolve_left hlt]

theorem entryError_queueClosed {ws : List Word} (h : ¬ BadEntryField ws) (ht : callTarget ws < 64)
    (hq : (s.queue (callTarget ws)).state = .closed) : s.entryError ws = some .queueClosed := by
  rw [entryError_goodFields h, if_neg (by omega)]
  simp [State.queueError, hq]

theorem entryError_queueFull {ws : List Word} (h : ¬ BadEntryField ws) (ht : callTarget ws < 64)
    (hq : (s.queue (callTarget ws)).state = .open)
    (hfull : (s.queue (callTarget ws)).settings.capacity ≤ (s.queue (callTarget ws)).occupancy) :
    s.entryError ws = some .queueFull := by
  rw [entryError_goodFields h, if_neg (by omega)]
  simp [State.queueError, hq, hfull]

theorem entryError_none {ws : List Word} {q : Nat} (hp : callPriority ws ≤ 15)
    (hg : callQueueProgram ws < 64 ∨ callQueueProgram ws = 255) (ht : callTarget ws = q) (hq : q < 64)
    (hopen : (s.queue q).state = .open) (hroom : (s.queue q).occupancy < (s.queue q).settings.capacity) :
    s.entryError ws = none := by
  subst ht
  have hgood : ¬ BadEntryField ws := by unfold BadEntryField; omega
  rw [entryError_goodFields hgood, if_neg (by omega)]
  simp [State.queueError, hopen, hroom]

/-- ENQUEUE and TRANSFER, in a state of the call that each takes, refused by the checks that follow (R7). -/
theorem entryCommand_refused {i : Instr} {r : ResultCode}
    (hi : i = .enqueue ∧ Taken s e .call 1 ∧ (s.call e.index).state = .free ∨
      i = .transfer ∧ Taken s e .call 7 ∧
        ((s.call e.index).state = .connected ∨ (s.call e.index).state = .agentHold))
    (he : s.entryError e.snapshot = some r) :
    ∃ t, exec i s = .next t ∧ OnlyAnswered s t e (e.answer r) := by
  rcases hi with ⟨rfl, ht, hs⟩ | ⟨rfl, ht, hs⟩
  · exact callCommand_refused ht
      (enqueueBody_entryError (by rw [state_handed, hs]) (by rw [entryError_handed ht.1.kind, he]))
  · exact callCommand_refused ht
      (transferBody_entryError (by simpa only [state_handed] using hs) (by rw [entryError_handed ht.1.kind, he]))

/-- ANSWER and NO_ANSWER refused by the checks on the offer (R7, R15). -/
theorem offerCommand_refused {i : Instr} {code : Byte} {r : ResultCode}
    (hi : i = .answer ∧ code = 3 ∨ i = .noAnswer ∧ code = 4) (ht : Taken s e .call code)
    (he : (s.dropEntry e).offerError e.index e.snapshot = some r) :
    ∃ t, exec i s = .next t ∧ OnlyAnswered s t e (e.answer r) := by
  rcases hi with ⟨rfl, rfl⟩ | ⟨rfl, rfl⟩
  · exact callCommand_refused ht (answerBody_offerError he)
  · exact callCommand_refused ht (noAnswerBody_offerError he)

/-- Settles O18: each clause is the body's own refusal, which `callCommand_refused` hands on. -/
theorem refusedCallCommandsChangeNothing : Obligations.RefusedCallCommandsChangeNothing := by
  intro s e x
  have hx : ((s.dropEntry e).call e.index).state = x := state_handed e.index
  have ha : ((s.dropEntry e).call e.index).agent = (s.call e.index).agent := callAgent_handed e.index
  refine ⟨fun ht h => ?_, fun ht h1 h2 => ?_, fun i code hi ht => ⟨fun h => ?_, fun h hs => ?_, fun h hs => ?_⟩, fun ht h => ?_,
    fun ht h => ?_, fun i code hi ht h1 h2 => ?_, fun ht h => ?_, fun ht h hp => ?_, fun ht h hp hn => ?_,
    fun i hi => ⟨fun h => ?_, fun h hq => ?_, fun h ht hq => ?_, fun h ht hq hf => ?_⟩⟩
  · exact callCommand_refused ht (enqueueBody_wrongState (by rwa [hx]))
  · exact callCommand_refused ht (abandonBody_wrongState (by rwa [hx]) (by rwa [hx]))
  · exact offerCommand_refused hi ht (offerError_badField h)
  · exact offerCommand_refused hi ht (offerError_tooLate h (by rwa [hx, ha]))
  · exact offerCommand_refused hi ht (offerError_wrongState h (by rwa [hx]))
  · exact callCommand_refused ht (holdBody_wrongState (by rwa [hx]))
  · exact callCommand_refused ht (resumeBody_wrongState (by rwa [hx]))
  · rcases hi with ⟨rfl, rfl⟩ | ⟨rfl, rfl⟩
    · exact callCommand_refused ht (transferBody_wrongState (by rwa [hx]) (by rwa [hx]))
    · exact callCommand_refused ht (releaseBody_wrongState (by rwa [hx]) (by rwa [hx]))
  · exact callCommand_refused ht (priorityBody_wrongState (by rwa [hx]))
  · exact callCommand_refused ht (priorityBody_badField (by rwa [hx]) hp)
  · exact callCommand_refused ht (holdBody_badField (by rwa [hx]) (programInRange_eq_false.2 ⟨hp, hn⟩))
  · exact entryCommand_refused hi (entryError_badField h)
  · exact entryCommand_refused hi (entryError_badQueue h hq)
  · exact entryCommand_refused hi (entryError_queueClosed h ht hq)
  · exact entryCommand_refused hi (entryError_queueFull h ht hq hf)

end Sys2Proof.Machine
end

section
/-! SUPPORT. The ends of a call and of its offer: ABANDON, ANSWER, NO_ANSWER and RELEASE (01 R13 to R18; 04 R77 to R81). -/

namespace Sys2Proof.Machine

variable {s : State} {e : IntakeEntry}

namespace State

variable (s : State)

/-! ### countAbandon -/

@[simp] theorem intake_countAbandon (c : Nat) : (s.countAbandon c).intake = s.intake := by
  unfold countAbandon; split <;> simp
@[simp] theorem deadlines_countAbandon (c : Nat) : (s.countAbandon c).deadlines = s.deadlines := by
  unfold countAbandon; split <;> simp
@[simp] theorem engine_countAbandon (c : Nat) : (s.countAbandon c).engine = s.engine := by
  unfold countAbandon; split <;> simp
@[simp] theorem events_countAbandon (c : Nat) : (s.countAbandon c).events = s.events := by
  unfold countAbandon; split <;> simp
@[simp] theorem call_countAbandon (c d : Nat) : (s.countAbandon c).call d = s.call d := by
  unfold countAbandon; split <;> simp
@[simp] theorem agent_countAbandon (c a : Nat) : (s.countAbandon c).agent a = s.agent a := by
  unfold countAbandon; split <;> simp
@[simp] theorem context_countAbandon (c k : Nat) : (s.countAbandon c).context k = s.context k := by
  unfold countAbandon; split <;> simp
@[simp] theorem binding_countAbandon (c b : Nat) : (s.countAbandon c).binding b = s.binding b := by
  unfold countAbandon; split <;> simp

/-- The queue a call leaves by ABANDON counts it (R13); the others are as they were. -/
theorem queue_countAbandon {c q : Nat} (hq : (s.call c).currentQueue = some q) (r : Nat) : (s.countAbandon c).queue r =
    if r = q then
      { s.queue q with
        waiting := (s.queue q).waiting.filter (· != c)
        occupancy := (s.queue q).occupancy - 1, abandoned := (s.queue q).abandoned + 1 }
    else s.queue r := by
  unfold countAbandon
  simp only [hq, queue_setQueue, queue_leaveWaiting]
  split <;> rfl

@[simp] theorem frame_countAbandon {cs : List Component} {t : State} (h : Changes cs s t) (c : Nat) (hq : .queues ∈ cs) :
    Changes cs s (t.countAbandon c) := by
  unfold countAbandon
  split <;> simp [h, hq]

/-! ### withdrawCall -/

/-- The offer's agent is AVAILABLE again (R81). -/
theorem releaseOffered_some (a : Nat) : s.releaseOffered (some a) =
    ((s.setAgent a { s.agent a with currentCall := none }).moveAgent a .available).addTrigger (.agent a) := rfl

section
variable {s} {c a : Nat} (ha : (s.call c).agent = some a)
include ha

/-- The withdrawal of an offer to agent `a`, as its three acts (R14, R81). -/
theorem withdrawCall_eq : s.withdrawCall c =
    (((s.releaseOffered (some a)).setCall c { s.call c with lastEnd := .withdrawn }).post .dispatch .offerWithdrawn (some c)
      (some a) (s.call c).currentQueue detailAbandon) := by
  unfold withdrawCall
  simp only [ha, releaseOffered_some, call_addTrigger, call_moveAgent, call_setAgent]

theorem call_withdrawCall (d : Nat) : (s.withdrawCall c).call d =
    if d = c then { s.call c with lastEnd := .withdrawn } else s.call d := by
  rw [withdrawCall_eq ha]; simp [releaseOffered_some]

theorem agent_withdrawCall (b : Nat) : (s.withdrawCall c).agent b =
    if b = a then { s.agent a with state := .available, stateEntry := s.tick, currentCall := none } else s.agent b := by
  rw [withdrawCall_eq ha]
  by_cases h : b = a <;> simp [releaseOffered_some, h]

theorem queue_withdrawCall (ho : (s.agent a).state = .offered) (hd : duplicateSkill (s.agent a).skills = false) (r : Nat) :
    (s.withdrawCall c).queue r =
      if (s.agent a).names r then { s.queue r with available := (s.queue r).available + 1 } else s.queue r := by
  rw [withdrawCall_eq ha]
  simp only [releaseOffered_some, queue_post, queue_setCall, queue_addTrigger]
  rw [queue_moveAgent]
  · simp only [agent_setAgent, if_true, queue_setAgent, ho]; rfl
  · simpa using hd

theorem workList_withdrawCall :
    (s.withdrawCall c).engine.workList = withTrigger s.engine.workList (.agent a) := by
  rw [withdrawCall_eq ha]; simp [releaseOffered_some, withTrigger]

theorem events_withdrawCall : (s.withdrawCall c).events =
    (s.post .dispatch .offerWithdrawn (some c) (some a) (s.call c).currentQueue detailAbandon).events := by
  rw [withdrawCall_eq ha]
  apply events_post_congr <;> simp [releaseOffered_some]

theorem kept_withdrawCall : (s.withdrawCall c).deadlines = s.deadlines ∧ (s.withdrawCall c).intake = s.intake ∧
    (∀ k, (s.withdrawCall c).context k = s.context k) ∧ ∀ b, (s.withdrawCall c).binding b = s.binding b := by
  rw [withdrawCall_eq ha]; simp [releaseOffered_some]

end

@[simp] theorem frame_withdrawCall {cs : List Component} {t : State} (h : Changes cs s t) (c : Nat) (h1 : .calls ∈ cs)
    (h2 : .agents ∈ cs) (h3 : .queues ∈ cs) (h4 : .workList ∈ cs) (h5 : posting ⊆ cs) :
    Changes cs s (t.withdrawCall c) := by
  have hr : Changes cs s (t.releaseOffered (t.call c).agent) := by
    unfold releaseOffered
    split <;> simp (maxDischargeDepth := 40) [h, h2, h3, h4]
  unfold withdrawCall
  exact (frame_setCall hr _ _ h1).into (changes_post ..) h5

end State

theorem abandonBody_queued (h : (s.call e.index).state = .queued) :
    abandonBody e s = (.ok, ((s.countAbandon e.index).stopCall e.index).freeCall e.index) := by
  unfold abandonBody; simp only [h]

theorem abandonBody_offered (h : (s.call e.index).state = .offered) :
    abandonBody e s = (.ok, (((s.withdrawCall e.index).countAbandon e.index).stopCall e.index).freeCall e.index) := by
  unfold abandonBody; simp only [h]

/-- Settles O11: the body's acts one after another, on the state the intake hands over. -/
theorem abandonFreesTheCall : Obligations.AbandonFreesTheCall := by
  refine ⟨fun s e q ht hs hq => ?_, fun s e q a ht hs hq ha ho hd => ?_⟩
  · have hk := ht.1.kind
    have hqueue := State.queue_countAbandon (s.dropEntry e) (c := e.index) (q := q) (by rw [call_handed hk, hq])
    refine ⟨_, callCommand_taken ht (abandonBody_queued (by rw [state_handed, hs])), ?_, ?_, ?_, ?_, ?_, fun d hd => ?_,
      fun r hr => ?_, ?_⟩
    · simp [hk, Call.done]
    · simp [hqueue, hk]
    · simp
    · exact State.contextStopped_of s ((s.dropEntry e).countAbandon e.index) _ e.index (by simp [hk]) (by simp) (by simp)
        (fun k => by simp) (fun b => by simp)
    · simp
    · simp [hd]
    · simp [hqueue, hr, hk]
    · simp (maxDischargeDepth := 40) [Changes.refl, hk]
  · have hk := ht.1.kind
    have hagent : ((s.dropEntry e).call e.index).agent = some a := by rw [call_handed hk, ha]
    have hcall := State.call_withdrawCall hagent
    obtain ⟨hdeadlines, hintake, hcontext, hbinding⟩ := State.kept_withdrawCall hagent
    have hqueue := State.queue_countAbandon ((s.dropEntry e).withdrawCall e.index) (c := e.index) (q := q)
      (by simp [hcall, hk, hq])
    have hrecount := State.queue_withdrawCall hagent (by rw [agent_handed hk, ho]) (by rw [agent_handed hk, hd])
    refine ⟨_, callCommand_taken ht (abandonBody_offered (by rw [state_handed, hs])), ?_, ?_, fun r => ?_, ?_, ?_, ?_, ?_, ?_,
      fun d hd => ?_, fun b hb => ?_, ?_⟩
    · simp [hcall, hk, Call.done]
    · simp [State.agent_withdrawCall hagent, hk]
    · by_cases hr : r = q <;> by_cases hn : (s.agent a).names r <;> simp_all
    · simp [State.workList_withdrawCall hagent]
    · rw [State.events_answered, State.events_freeCall, State.events_stopCall, State.events_countAbandon,
        State.events_withdrawCall hagent, call_handed hk, hq]
      apply State.events_post_congr <;> simp
    · simp [hdeadlines]
    · exact State.contextStopped_of s (((s.dropEntry e).withdrawCall e.index).countAbandon e.index) _ e.index
        (by simp [hcall, hk]) (by simp [hcontext]) (by simp [hbinding]) (fun k => by simp) (fun b => by simp)
    · simp [hintake]
    · simp [hcall, hd]
    · simp [State.agent_withdrawCall hagent, hb, hk]
    · simp (maxDischargeDepth := 40) [Changes.refl, hk]

end Sys2Proof.Machine
end

section
/-! SUPPORT. ANSWER and NO_ANSWER, accepted: the call connected, or restored by keys (01 R15; 04 R77 to R79). -/

namespace Sys2Proof.Machine

variable {s : State} {e : IntakeEntry}

/-- BUSY counts an agent as OFFERED does (R47, R62). -/
theorem recount_offered_busy (q : Queue) : q.recount .offered .busy = q := rfl

theorem recount_offered_notReady (q : Queue) : q.recount .offered .notReady = { q with staffed := q.staffed - 1 } := rfl

namespace State

variable (s : State)

/-! ### countAnswer and connectAgent -/

theorem countAnswer_eq {c q : Nat} (hq : (s.call c).currentQueue = some q) : s.countAnswer c =
    s.setQueue q ((s.queue q).answerOne s.tick (s.call c).firstEntry) := by
  unfold countAnswer; simp only [hq]

theorem agent_connectAgent (a : Nat) (q : Option Nat) (b : Nat) : (s.connectAgent a q).agent b =
    if b = a then
      { s.agent a with
        state := .busy, stateEntry := s.tick, lastQueue := q, callsHandled := (s.agent a).callsHandled + 1 }
    else s.agent b := by
  unfold connectAgent
  by_cases h : b = a <;> simp [h]

theorem queue_connectAgent {a : Nat} (q : Option Nat) (ho : (s.agent a).state = .offered)
    (hd : duplicateSkill (s.agent a).skills = false) (r : Nat) : (s.connectAgent a q).queue r = s.queue r := by
  unfold connectAgent
  rw [queue_moveAgent _ _ _ (by simpa using hd)]
  simp [ho, recount_offered_busy]

/-! ### ringOut -/

theorem agent_ringOut (a b : Nat) : (s.ringOut a).agent b =
    if b = a then
      { s.agent a with
        state := .notReady, stateEntry := s.tick, currentCall := none
        flags := { (s.agent a).flags with rnaMark := true } }
    else s.agent b := by
  unfold ringOut
  by_cases h : b = a <;> simp [h]

theorem queue_ringOut {a : Nat} (ho : (s.agent a).state = .offered) (hd : duplicateSkill (s.agent a).skills = false)
    (r : Nat) : (s.ringOut a).queue r =
      { s.queue r with staffed := if (s.agent a).names r then (s.queue r).staffed - 1 else (s.queue r).staffed } := by
  unfold ringOut
  rw [queue_moveAgent _ _ _ (by simpa using hd)]
  simp only [agent_setAgent, if_true, queue_setAgent, ho, recount_offered_notReady]
  change (if (s.agent a).names r = true then _ else _) = _
  split <;> rfl

theorem unanswered_eq {c a : Nat} (kind : OfferEnd) (ha : (s.call c).agent = some a) :
    s.unanswered c kind = (s.restore c kind).ringOut a := by
  unfold unanswered; simp only [ha]

end State

/-- An accepted ANSWER, act by act (R78). -/
theorem answerBody_accepted {a q : Nat} (ha : callOfferAgent e.snapshot = a) (he : s.offerError e.index e.snapshot = none)
    (hq : (s.call e.index).currentQueue = some q) : answerBody e s =
    (.ok, (((((s.setCall e.index
      { (s.call e.index).clearSlots with
        state := .connected, answerTick := s.tick, lastEnd := .answered }).refreshDeadline e.index).stopCall
          e.index).countAnswer e.index).connectAgent a (some q))) := by
  unfold answerBody; simp only [he, ha, hq]

theorem noAnswerBody_accepted (he : s.offerError e.index e.snapshot = none) :
    noAnswerBody e s = (.ok, s.unanswered e.index .noAnswer) := by
  unfold noAnswerBody; simp only [he]

/-- The checks of ANSWER and NO_ANSWER pass as the intake hands the entry over. -/
theorem offerError_handed {a : Nat} (hk : e.kind = .call) (ha : callOfferAgent e.snapshot = a) (hr : a < 1024)
    (hs : (s.call e.index).state = .offered) (hagent : (s.call e.index).agent = some a) :
    (s.dropEntry e).offerError e.index e.snapshot = none :=
  offerError_none ha hr (by rw [state_handed, hs]) (by rw [call_handed hk, hagent])

/-- Settles O12: the body's acts one after another; BUSY counts the agent as OFFERED did. -/
theorem answerConnectsTheCall : Obligations.AnswerConnectsTheCall := by
  intro s e q a ht ha hr hs hagent hq ho hd
  have hk := ht.1.kind
  have hbody := answerBody_accepted ha (offerError_handed hk ha hr hs hagent) (q := q) (by rw [call_handed hk, hq])
  rw [State.countAnswer_eq (q := q) _ (by simp [hk, hq, Call.clearSlots])] at hbody
  refine ⟨_, callCommand_taken ht hbody, ?_, ?_, ?_, fun r hr => ?_, ?_, ?_, ?_, fun d hd => ?_, fun b hb => ?_, ?_⟩
  · simp [State.connectAgent, hk, Call.done, Call.clearSlots]
  · simp [State.agent_connectAgent, hk]
  · rw [State.queue_answered, State.queue_connectAgent _ _ (by simp [hk, ho]) (by simp [hk, hd])]
    simp [hk, Queue.answerOne, Queue.inServiceLevel, age, Call.clearSlots]
  · rw [State.queue_answered, State.queue_connectAgent _ _ (by simp [hk, ho]) (by simp [hk, hd])]
    simp [hk, hr]
  · rw [State.deadlines_answered]
    simp only [State.connectAgent, State.deadlines_moveAgent, State.deadlines_setAgent, State.deadlines_setQueue,
      State.deadlines_stopCall]
    rw [State.deadlines_refreshDeadline_unarmed _ _ (by simp [Call.armed])]
    simp
  · exact State.contextStopped_of s (((s.dropEntry e).setCall e.index
      { ((s.dropEntry e).call e.index).clearSlots with
        state := .connected, answerTick := (s.dropEntry e).tick, lastEnd := .answered }).refreshDeadline e.index) _ e.index
      (by simp [hk, Call.clearSlots]) (by simp) (by simp) (fun k => by simp [State.connectAgent])
      (fun b => by simp [State.connectAgent])
  · simp [State.connectAgent]
  · simp [State.connectAgent, hd]
  · simp [State.agent_connectAgent, hb, hk]
  · simp (maxDischargeDepth := 40) [State.connectAgent, Changes.refl, hk]

/-- Settles O13: the restore by keys, and the agent's ring-out. -/
theorem noAnswerRestoresTheCall : Obligations.NoAnswerRestoresTheCall := by
  intro s e q a ht ha hr hs hagent hq ho hd
  have hk := ht.1.kind
  have hbody := noAnswerBody_accepted (offerError_handed hk ha hr hs hagent)
  rw [State.unanswered_eq (a := a) _ _ (by rw [call_handed hk, hagent])] at hbody
  refine ⟨_, callCommand_taken ht hbody, ?_, ?_, fun r => ?_, ?_, ?_, ?_, fun d hd => ?_, fun b hb => ?_, ?_⟩
  · simp [State.ringOut, hk, Call.done, State.rearm_eq]
  · simp [State.agent_ringOut, hk]
  · rw [State.queue_answered, State.queue_ringOut _ (by simp [hk, ho]) (by simp [hk, hd]),
      State.queue_restore _ _ _ q _ (by rw [call_handed hk, hq]), queue_handed hk, queue_handed hk,
      State.insertByKeys_congr (s := s) (fun d => by rw [call_dropEntry]; split <;> exact ⟨rfl, rfl⟩)]
    simp [hk]
  · exact State.entryFollows_answered _ (State.entryFollows_congr (State.entryFollows_restore _ e.index .noAnswer)
      (by simp [State.ringOut]) (by simp [State.ringOut]) (by simp [State.ringOut]))
  · simp [State.ringOut, State.workList_restore]
  · simp [State.ringOut]
  · simp [State.ringOut, hd]
  · simp [State.agent_ringOut, hb, hk]
  · simp (maxDischargeDepth := 40) [State.ringOut, Changes.refl, hk]

end Sys2Proof.Machine
end

section
/-! SUPPORT. The end of an agent's call: the wrap-up begun, or ended in the same event (05 R85 to R94); and RELEASE (01 R18). -/

namespace Sys2Proof.Machine

variable {s : State} {e : IntakeEntry}

/-- WRAP_UP counts an agent as BUSY does (R47, R62). -/
theorem recount_busy_wrapUp (q : Queue) : q.recount .busy .wrapUp = q := rfl

/-- The state a wrap-up end chooses without a READY (R91). -/
theorem wrapEndState_byFlags (f : AgentFlags) : f.wrapEndState false =
    if f.pendLogout then .loggedOut else if f.pendNotReady then .notReady
    else if f.autoReady then .available else .notReady := by
  unfold AgentFlags.wrapEndState; simp only [Bool.or_false]

/-- A BUSY agent's wrap-up end raises A when it goes to AVAILABLE, and lowers N when it does not (R62, R91). -/
theorem recount_busy_wrapEnd (q : Queue) (f : AgentFlags) : q.recount .busy (f.wrapEndState false) =
    if f.wrapEndState false = .available then { q with available := q.available + 1 }
    else { q with staffed := q.staffed - 1 } := by
  rw [wrapEndState_byFlags]
  cases f.pendLogout <;> cases f.pendNotReady <;> cases f.autoReady <;> rfl

namespace State

variable (s : State)

/-- The wrap-up length of an agent with a last queue (R86). -/
theorem wrapLength_eq {a p : Nat} (hp : (s.agent a).lastQueue = some p) : s.wrapLength a =
    min (if 0 < (s.agent a).wrapLength then (s.agent a).wrapLength else (s.queue p).settings.wrapLength)
      s.part.config.wrapCeiling := by
  unfold wrapLength; simp only [hp]

section
variable {s} {c a p : Nat} (ha : (s.call c).agent = some a)
include ha

theorem endAgentCall_eq : s.endAgentCall c = s.wrapEntry a (s.call c).answerTick := by
  unfold endAgentCall; simp only [ha]

/-- A call's end with a wrap-up to come (R85). -/
theorem endAgentCall_running (hn : s.wrapLength a ≠ 0) : s.endAgentCall c =
    (s.setAgent a
      { s.agent a with
        currentCall := none, heldAnswer := (s.call c).answerTick, wrapRemaining := s.wrapLength a }).moveAgent a .wrapUp := by
  rw [endAgentCall_eq ha, wrapEntry_running _ _ _ hn]

theorem agent_endAgentCall_running (hn : s.wrapLength a ≠ 0) (b : Nat) : (s.endAgentCall c).agent b =
    if b = a then
      { s.agent a with
        state := .wrapUp, stateEntry := s.tick, currentCall := none, heldAnswer := (s.call c).answerTick
        wrapRemaining := s.wrapLength a }
    else s.agent b := by
  rw [endAgentCall_running ha hn]
  by_cases h : b = a <;> simp [h]

theorem queue_endAgentCall_running (hn : s.wrapLength a ≠ 0) (hb : (s.agent a).state = .busy)
    (hd : duplicateSkill (s.agent a).skills = false) (r : Nat) : (s.endAgentCall c).queue r = s.queue r := by
  rw [endAgentCall_running ha hn, queue_moveAgent _ _ _ (by simpa using hd)]
  simp [hb, recount_busy_wrapUp]

/-- A call's end without a wrap-up length: the wrap-up ends in the same event (R85, R91). -/
theorem endAgentCall_ending (hn : s.wrapLength a = 0) : s.endAgentCall c =
    (s.setAgent a
      { s.agent a with
        currentCall := none, heldAnswer := (s.call c).answerTick, wrapRemaining := 0 }).wrapEnd a false := by
  rw [endAgentCall_eq ha, wrapEntry_none _ _ _ hn]

theorem agent_endAgentCall_ending (hn : s.wrapLength a = 0) (b : Nat) : (s.endAgentCall c).agent b =
    if b = a then
      { s.agent a with
        state := (s.agent a).flags.wrapEndState false, stateEntry := s.tick, currentCall := none, heldAnswer := 0
        wrapRemaining := 0, flags := (s.agent a).flags.clearPending }
    else s.agent b := by
  rw [endAgentCall_ending ha hn]
  by_cases h : b = a <;> simp [h]

theorem queue_endAgentCall_ending (hn : s.wrapLength a = 0) (hb : (s.agent a).state = .busy)
    (hd : duplicateSkill (s.agent a).skills = false) (r : Nat) : (s.endAgentCall c).queue r =
      if (s.agent a).names r then
        (if (s.agent a).flags.wrapEndState false = .available then
          { s.queue r with available := (s.queue r).available + 1 }
        else { s.queue r with staffed := (s.queue r).staffed - 1 })
      else s.queue r := by
  rw [endAgentCall_ending ha hn, queue_wrapEnd _ _ _ (by simpa using hd)]
  simp only [agent_setAgent, if_true, queue_setAgent, hb, recount_busy_wrapEnd]
  rfl

theorem workList_endAgentCall_ending (hn : s.wrapLength a = 0) : (s.endAgentCall c).engine.workList =
    if (s.agent a).flags.wrapEndState false = .available then withTrigger s.engine.workList (.agent a)
    else s.engine.workList := by
  rw [endAgentCall_ending ha hn, workList_wrapEnd]
  simp

theorem samples_endAgentCall_ending (hn : s.wrapLength a = 0) (hp : (s.agent a).lastQueue = some p) :
    (s.endAgentCall c).samples =
      s.samples ++ [{ queue := p, ticks := min (s.tick - (s.call c).answerTick).toNat 65535 }] := by
  rw [endAgentCall_ending ha hn, samples_wrapEnd (q := p) _ _ _ (by simpa using hp)]
  simp [handleSample, age, Config.maxTicks]

theorem events_endAgentCall_ending (hn : s.wrapLength a = 0) (hp : (s.agent a).lastQueue = some p) :
    (s.endAgentCall c).events =
      (s.post .agent .wrapEnd none (some a) (some p) (min (s.tick - (s.call c).answerTick).toNat 65535)).events := by
  rw [endAgentCall_ending ha hn, events_wrapEnd]
  simp only [agent_setAgent, if_true, hp, tick_setAgent]
  exact events_post_congr (by simp) (by simp) (by simp) (by simp) ..

end

@[simp] theorem frame_endAgentCall {cs : List Component} {t : State} (h : Changes cs s t) (c : Nat)
    (h1 : .agents ∈ cs) (h2 : .queues ∈ cs) (h3 : .workList ∈ cs) (h4 : .samples ∈ cs) (h5 : posting ⊆ cs) :
    Changes cs s (t.endAgentCall c) := by
  unfold endAgentCall
  split
  · exact h
  · exact frame_wrapEntry _ h _ _ h1 h2 h3 h4 (h5 (by decide)) (h5 (by decide)) (h5 (by decide)) (h5 (by decide))
      (h5 (by decide))

end State

theorem releaseBody_accepted (h : (s.call e.index).state = .connected ∨ (s.call e.index).state = .agentHold) :
    releaseBody e s = (.ok, ((s.stopCall e.index).endAgentCall e.index).freeCall e.index) := by
  unfold releaseBody
  rcases h with h | h <;> simp [h]

/-- Settles O15: the hold playout is stopped, the agent's call ends in one of the two ways, and the call is FREE. -/
theorem releaseEndsTheCall : Obligations.ReleaseEndsTheCall := by
  refine ⟨fun s e a p n ht hs ha hb hp hd hn hpos => ?_, fun s e a p ht hs ha hb hp hd hown hqueue => ?_⟩
  all_goals
    have hk := ht.1.kind
    have hbody := releaseBody_accepted (s := s.dropEntry e) (e := e) (by simpa only [state_handed] using hs)
    have hagent : (((s.dropEntry e).stopCall e.index).call e.index).agent = some a := by simp [hk, ha]
    have hbusy : (((s.dropEntry e).stopCall e.index).agent a).state = .busy := by simpa [hk] using hb
    have hskills : duplicateSkill (((s.dropEntry e).stopCall e.index).agent a).skills = false := by simpa [hk] using hd
    have hlast : (((s.dropEntry e).stopCall e.index).agent a).lastQueue = some p := by simpa [hk] using hp
    have hlength := State.wrapLength_eq _ hlast
  · have hlength : ((s.dropEntry e).stopCall e.index).wrapLength a = n := by simpa [hk, hlength] using hn
    have hnone : ((s.dropEntry e).stopCall e.index).wrapLength a ≠ 0 := by omega
    refine ⟨_, callCommand_taken ht hbody, ?_, ?_, fun r => ?_, ?_, ?_, ?_, fun d hd => ?_, fun b hb => ?_, ?_⟩
    · simp [hk, Call.done]
    · simp [State.agent_endAgentCall_running hagent hnone, hlength, hk]
    · simp [State.queue_endAgentCall_running hagent hnone hbusy hskills, hk]
    · simp
    · exact State.contextStopped_of s (s.dropEntry e) _ e.index (by simp [hk]) (by simp) (by simp) (fun k => by simp)
        (fun b => by simp)
    · simp
    · simp [hd]
    · simp [State.agent_endAgentCall_running hagent hnone, hb, hk]
    · rw [State.endAgentCall_running hagent hnone]
      simp (maxDischargeDepth := 40) [Changes.refl, hk]
  · intro f n out
    have hnone : ((s.dropEntry e).stopCall e.index).wrapLength a = 0 := by simp [hlength, hk, hown, hqueue]
    have hout : f.wrapEndState false = out := wrapEndState_byFlags f
    refine ⟨_, callCommand_taken ht hbody, ?_, ?_, fun r => ?_, ?_, ?_, ?_, ?_, ?_, ?_, fun d hd => ?_, fun b hb => ?_, ?_⟩
    · simp [State.agent_endAgentCall_ending hagent hnone, hk, ← hout, AgentFlags.clearPending, f]
    · simp [hk, Call.done]
    · simp [State.queue_endAgentCall_ending hagent hnone hbusy hskills, hk, ← hout, f]
    · simp [State.workList_endAgentCall_ending hagent hnone, hk, ← hout, f]
    · simp [State.samples_endAgentCall_ending hagent hnone hlast, hk, n]
    · rw [State.events_answered, State.events_freeCall, State.events_endAgentCall_ending hagent hnone hlast]
      rw [show (((s.dropEntry e).stopCall e.index).call e.index).answerTick = (s.call e.index).answerTick by simp [hk],
        State.tick_stopCall, tick_dropEntry]
      exact State.events_post_congr (by simp) (by simp) (by simp) (by simp) ..
    · simp
    · exact State.contextStopped_of s (s.dropEntry e) _ e.index (by simp [hk]) (by simp) (by simp) (fun k => by simp)
        (fun b => by simp)
    · simp
    · simp [hd]
    · simp [State.agent_endAgentCall_ending hagent hnone, hb, hk]
    · simp (maxDischargeDepth := 40) [Changes.refl, hk]

end Sys2Proof.Machine
end

section
/-! SUPPORT. A playout request as the last act of a call command (01 R11), and HOLD and RESUME (01 R16, R17). -/

namespace Sys2Proof.Machine

variable {s : State} {e : IntakeEntry}

/-! ### What a playout request leaves -/

/-- What a playout request takes its answer from, besides the call. -/
def heeded : List Component :=
  [.contexts, .bindings, .freeIndex, .config, .library, .feeds, .time, .dispatch, .notices, .sequence, .summaries, .lost,
   .shown]

theorem events_agree {cs : List Component} {u : State} (h : Changes cs s u)
    (hn : ∀ k ∈ Component.shown :: posting, k ∉ cs) : u.events = s.events := by
  have same (k : Component) (hk : k ∈ Component.shown :: posting) : k.agree s u := h.keeps k (hn k hk)
  have hdispatch : u.events.dispatch = s.events.dispatch := same .dispatch (by decide)
  have hnotices : u.events.notices = s.events.notices := same .notices (by decide)
  have hsequence : u.events.sequence = s.events.sequence := same .sequence (by decide)
  have hsummaries : u.events.summaries = s.events.summaries := same .summaries (by decide)
  have hlost : u.events.lost = s.events.lost := same .lost (by decide)
  have hshown : u.events.shown = s.events.shown := same .shown (by decide)
  cases hu : u.events
  cases hs : s.events
  simp_all

namespace State

variable (s : State) (c own queues : Nat)

theorem askPlayout_frame : Changes (.calls :: asking) s (s.askPlayout c own queues).2 :=
  frame_askPlayout (.refl ..) c own queues (by decide) (by decide)

@[simp] theorem queue_askPlayout (q : Nat) : (s.askPlayout c own queues).2.queue q = s.queue q :=
  (s.askPlayout_keeps c own queues).2.1 q

@[simp] theorem deadlines_askPlayout : (s.askPlayout c own queues).2.deadlines = s.deadlines :=
  (s.askPlayout_frame c own queues).keeps .deadlines (by decide)

@[simp] theorem tick_askPlayout : (s.askPlayout c own queues).2.tick = s.tick :=
  congrArg TimeBase.tick ((s.askPlayout_frame c own queues).keeps .time (by decide))

theorem call_askPlayout : (s.askPlayout c own queues).2.call c =
    { s.call c with context := ((s.askPlayout c own queues).2.call c).context } :=
  (s.askPlayout_keeps c own queues).2.2.1

theorem otherCall_askPlayout {d : Nat} (hd : d ≠ c) : (s.askPlayout c own queues).2.call d = s.call d :=
  (s.askPlayout_keeps c own queues).2.2.2 d hd

end State

/-- The end of a call command whose last act is a playout request: the request made, and its answer written (R11, R150). -/
def State.asked (s : State) (e : IntakeEntry) (own queues : Nat) : State :=
  (s.askPlayout e.index own queues).2.answered e (s.askPlayout e.index own queues).1

section
variable (s : State) (e : IntakeEntry) (own queues : Nat)

@[simp] theorem queue_asked (q : Nat) : (s.asked e own queues).queue q = s.queue q := by simp [State.asked]

theorem call_asked : (s.asked e own queues).call e.index =
    { s.call e.index with
      result := e.answer (s.askPlayout e.index own queues).1
      context := ((s.asked e own queues).call e.index).context } := by
  unfold State.asked
  rw [State.call_answered, if_pos rfl, State.call_askPlayout]

theorem otherCall_asked {d : Nat} (hd : d ≠ e.index) : (s.asked e own queues).call d = s.call d := by
  unfold State.asked
  rw [State.call_answered, if_neg hd, State.otherCall_askPlayout _ _ _ _ hd]

theorem keys_asked (d : Nat) : ((s.asked e own queues).call d).priority = (s.call d).priority ∧
    ((s.asked e own queues).call d).seniority = (s.call d).seniority := by
  by_cases hd : d = e.index
  · subst hd; rw [call_asked]; exact ⟨rfl, rfl⟩
  · rw [otherCall_asked _ _ _ _ hd]; exact ⟨rfl, rfl⟩

theorem asked_frame : Changes ([.calls, .passCount] ++ asking) s (s.asked e own queues) := by
  unfold State.asked
  exact State.frame_answered _ _ _ ((s.askPlayout_frame e.index own queues).mono (by decide)) (by decide) (by decide)

variable {s} in
/-- The deadline entry of the call does not depend on its playout. -/
theorem entryFollows_asked {r : State} (h : EntryFollows e.index r s) : EntryFollows e.index r (s.asked e own queues) := by
  unfold State.asked
  refine State.entryFollows_congr h (by simp) ?_ (by simp)
  rw [State.armed_answered, State.call_askPlayout]
  rfl

end

/-- A call command whose last act is a playout request. -/
theorem callCommand_asked {code : Byte} {body : IntakeEntry → State → ResultCode × State} {u : State} {own queues : Nat}
    (h : Taken s e .call code) (hb : body e (s.dropEntry e) = u.askPlayout e.index own queues) :
    recordCommand .call code body s = .next (u.asked e own queues) := callCommand_taken h hb

/-- The request answers as R11 and R110 say, seen from any state that agrees on what it heeds. -/
theorem playoutAsked_asked {cs : List Component} {u : State} {own queues p ch : Nat}
    (hp : (if own = 255 then queues else own) = p) (hch : (u.call e.index).channel = ch) (h : Changes cs s u)
    (hn : ∀ k ∈ heeded, k ∉ cs) (hc : (u.call e.index).context = (s.call e.index).context) :
    PlayoutAsked s (u.asked e own queues) e.index p ch (u.askPlayout e.index own queues).1 := by
  have same (k : Component) (hk : k ∈ heeded) : k.agree s u := h.keeps k (hn k hk)
  have hcontexts : u.playout.contexts = s.playout.contexts := same .contexts (by decide)
  have hbindings : u.playout.bindings = s.playout.bindings := same .bindings (by decide)
  have hlibrary := same .library (by decide)
  have hposting : SamePosting u s :=
    ⟨(same .time (by decide)).symm, (same .config (by decide)).symm, (same .freeIndex (by decide)).symm⟩
  subst hch
  refine (u.playoutAsked e.index own queues p hp).congr hc.symm (fun k => ?_) (fun b => ?_)
    (events_agree h fun k hk => hn k ((by decide : Component.shown :: posting ⊆ heeded) hk)).symm hposting
    ⟨hlibrary.1.symm, hlibrary.2.symm⟩ (same .feeds (by decide)).symm ?_ ?_ ?_ ?_ ?_ ?_ ?_ ?_ ?_
  · unfold State.context; rw [hcontexts]
  · unfold State.binding; rw [hbindings]
  all_goals unfold State.asked
  · simp
  · simp
  · simp
  · simp
  · simp
  · simp
  · intro d hd; simp [hd]
  · simp
  · simp

/-! ### HOLD and RESUME -/

theorem holdBody_accepted {q : Nat} (h : (s.call e.index).state = .connected) (hq : (s.call e.index).currentQueue = some q)
    (hp : callHoldProgram e.snapshot < 64 ∨ callHoldProgram e.snapshot = 255) : holdBody e s =
    (s.setCall e.index
      { s.call e.index with state := .agentHold, holdProgram := callHoldProgram e.snapshot }).askPlayout e.index
        (callHoldProgram e.snapshot) (s.queue q).settings.holdProgram := by
  have hr : ¬ programInRange (callHoldProgram e.snapshot) = false := by rw [programInRange_eq_false]; omega
  unfold holdBody State.landingHold
  simp [h, hr, hq]

theorem resumeBody_accepted (h : (s.call e.index).state = .agentHold) : resumeBody e s =
    (.ok, (s.stopCall e.index).setCall e.index { (s.stopCall e.index).call e.index with state := .connected }) := by
  unfold resumeBody; simp [h]

/-- Settles O14: HOLD latches and asks, RESUME stops; neither touches an agent or a queue. -/
theorem holdAndResumeKeepTheAgent : Obligations.HoldAndResumeKeepTheAgent := by
  refine fun s e => ⟨fun q ht hs hq hp => ?_, fun ht hs => ?_⟩
  · have hk := ht.1.kind
    intro p
    have hbody := holdBody_accepted (s := s.dropEntry e) (e := e) (q := q) (by rw [state_handed, hs])
      (by rw [call_handed hk, hq]) hp
    rw [queue_handed hk] at hbody
    have hbefore : Changes [.intake, .calls] s ((s.dropEntry e).setCall e.index
        { (s.dropEntry e).call e.index with state := .agentHold, holdProgram := callHoldProgram e.snapshot }) := by
      simp (maxDischargeDepth := 40) [Changes.refl, hk]
    have hexec : exec .hold s = _ := callCommand_asked ht hbody
    generalize hu : (s.dropEntry e).setCall e.index
      { (s.dropEntry e).call e.index with state := .agentHold, holdProgram := callHoldProgram e.snapshot } = u at *
    refine ⟨_, (u.askPlayout e.index (callHoldProgram e.snapshot) (s.queue q).settings.holdProgram).1, hexec, ?_, ?_, ?_,
      fun d hd => ?_, ?_⟩
    · rw [call_asked]
      simp [← hu, hk, Call.done]
    · exact playoutAsked_asked rfl (by simp [← hu, hk]) hbefore (by decide) (by simp [← hu, hk])
    · exact ((asked_frame ..).keeps .intake (by decide)).trans (by simp [← hu])
    · exact (otherCall_asked _ _ _ _ hd).trans (by simp [← hu, hd])
    · exact (hbefore.mono (by decide)).trans ((asked_frame ..).mono (by decide))
  · have hk := ht.1.kind
    have hbody := resumeBody_accepted (s := s.dropEntry e) (e := e) (by rw [state_handed, hs])
    refine ⟨_, callCommand_taken ht hbody, ?_, ?_, ?_, fun d hd => ?_, ?_⟩
    · simp [hk, Call.done]
    · exact State.contextStopped_of s (s.dropEntry e) _ e.index (by simp [hk]) (by simp) (by simp) (fun k => by simp)
        (fun b => by simp)
    · simp
    · simp [hd]
    · simp (maxDischargeDepth := 40) [Changes.refl, hk]

end Sys2Proof.Machine
end

section
/-! SUPPORT. The entry of a call into a queue as the last part of ENQUEUE and TRANSFER: landing, deadlines, playout (01 R8,
R11, R19; 02 R37 to R40). -/

namespace Sys2Proof.Machine

variable {s : State} {e : IntakeEntry}

namespace State

variable (v : State) (e : IntakeEntry) (q own : Nat)

/-- The end of ENQUEUE and TRANSFER from the state `v` in which the call is ready to enter: the entry, and the request for
the landing queue's program (R8, R11, R19). -/
def admitted : State :=
  (v.enterQueue e.index q).asked e own ((v.enterQueue e.index q).landingProgram e.index)

/-- The answer of the playout request at the end of an entry (R11). -/
def admission : ResultCode :=
  ((v.enterQueue e.index q).askPlayout e.index own ((v.enterQueue e.index q).landingProgram e.index)).1

/-- The program of the queue the call has landed in (R11). -/
theorem landingProgram_enterQueue (c : Nat) : (v.enterQueue c q).landingProgram c =
    ((v.entryOf c q).2.2.queue (v.entryOf c q).1).settings.queueProgram := by
  have hq : ((v.enterQueue c q).call c).currentQueue = some (v.entryOf c q).1 := by
    rw [call_enterQueue, if_pos rfl]; rfl
  unfold landingProgram
  simp only [hq, queue_enterQueue, if_true, Queue.landed]

theorem call_admitted : (v.admitted e q own).call e.index =
    { ({ v.entering e.index with
          state := .queued, currentQueue := some (v.entryOf e.index q).1, hops := (v.entryOf e.index q).2.1 } :
        Call).enterSlots ((v.entryOf e.index q).2.2.queue (v.entryOf e.index q).1).settings with
      result := e.answer (v.admission e q own), context := ((v.admitted e q own).call e.index).context } := by
  refine (call_asked ..).trans ?_
  rw [call_enterQueue, if_pos rfl]
  rfl

theorem otherCall_admitted {d : Nat} (hd : d ≠ e.index) : (v.admitted e q own).call d = v.call d := by
  refine (otherCall_asked _ _ _ _ hd).trans ?_
  rw [call_enterQueue, if_neg hd]

theorem queue_admitted (r : Nat) : (v.admitted e q own).queue r =
    if r = (v.entryOf e.index q).1 then
      { ((v.entryOf e.index q).2.2.queue r).landed with
        waiting := (v.admitted e q own).insertByKeys e.index ((v.entryOf e.index q).2.2.queue r).waiting }
    else (v.entryOf e.index q).2.2.queue r := by
  unfold admitted
  rw [queue_asked, queue_enterQueue, insertByKeys_congr (s := v.enterQueue e.index q) (keys_asked _ _ _ _)]

theorem admitted_frame :
    Changes ([.calls, .queues, .seniority, .deadlines, .workList, .passCount] ++ asking) v (v.admitted e q own) := by
  have hentered : Changes [.calls, .queues, .seniority, .deadlines, .workList] v (v.enterQueue e.index q) := by
    simp (maxDischargeDepth := 40) [Changes.refl]
  exact (hentered.mono (by decide)).trans ((asked_frame ..).mono (by decide))

theorem seniority_admitted : (v.admitted e q own).seniority = v.seniority + 1 :=
  ((asked_frame ..).keeps .seniority (by decide)).trans (by simp)

theorem workList_admitted : (v.admitted e q own).engine.workList = withTrigger v.engine.workList (.call e.index) :=
  ((asked_frame ..).keeps .workList (by decide)).trans (by simp)

theorem entryFollows_admitted : EntryFollows e.index v (v.admitted e q own) :=
  entryFollows_asked _ _ _ (entryFollows_enterQueue ..)

/-- The playout asked for is that of the landing queue (R11), seen from a state that agrees on what the request heeds. -/
theorem playoutAsked_admitted {cs : List Component} {s : State} {p ch : Nat}
    (hp : (if own = 255 then ((v.entryOf e.index q).2.2.queue (v.entryOf e.index q).1).settings.queueProgram else own) = p)
    (hch : (v.call e.index).channel = ch) (h : Changes cs s v) (hn : ∀ k ∈ heeded, k ∉ cs)
    (hc : (v.call e.index).context = (s.call e.index).context) :
    PlayoutAsked s (v.admitted e q own) e.index p ch (v.admission e q own) := by
  have hentered : Changes ([.calls, .queues, .seniority, .deadlines, .workList] ++ cs) s (v.enterQueue e.index q) :=
    frame_enterQueue (h.mono (List.subset_append_right ..)) _ _ (by simp) (by simp) (by simp) (by simp) (by simp)
  refine playoutAsked_asked (by rw [landingProgram_enterQueue]; exact hp) ?_ hentered ?_ ?_
  · rw [call_enterQueue, if_pos rfl]; exact hch
  · intro k hk
    have hother : k ∉ [Component.calls, .queues, .seniority, .deadlines, .workList] := by
      revert k; decide
    simp only [List.mem_append, not_or]
    exact ⟨hother, hn k hk⟩
  · rw [call_enterQueue, if_pos rfl]; exact hc

/-! ### Where the entry chain ends -/

/-- Two states have the same queues but for the two head counts. -/
structure SameButCounts (s v : State) : Prop where
  queues : ∀ r, v.queue r = { s.queue r with staffed := (v.queue r).staffed, available := (v.queue r).available }

/-- The entry check of a call ready to enter (R39), in the queues as `s` has them. -/
theorem passesOn_entering {s v : State} {c q pr n : Nat} (hcounts : SameButCounts s v)
    (hcalls : ∀ d, d ≠ c → v.call d = s.call d) (hsen : v.seniority = s.seniority) (hpr : (v.call c).priority = pr)
    (hn : (v.queue q).staffed = n) :
    (PassesOn s q c pr n → v.takeSeniority.passesOn q (v.entering c) = true) ∧
      (KeepsEntering s q c pr n → v.takeSeniority.passesOn q (v.entering c) = false) := by
  have hkeys : (v.entering c).priority = pr := hpr
  have key := State.passesOn_iff s (u := v.takeSeniority) q c (v.entering c)
    (by simpa using hcounts.queues q)
    (by rw [show v.takeSeniority.queue = v.queue from rfl, hcounts.queues (s.queue q).settings.target]; exact ⟨rfl, rfl, rfl⟩)
    (by simpa using hcalls) hsen
  rw [hkeys, show (v.takeSeniority.queue q).staffed = n from hn] at key
  exact key

/-- One hop: the named queue passes the call on, and the target keeps it (R39, R40). -/
theorem entryOf_hop {c q : Nat} (hpass : v.takeSeniority.passesOn q (v.entering c) = true)
    (hkeep : (v.takeSeniority.setQueue q (v.queue q).passedThrough).passesOn (v.queue q).settings.target (v.entering c)
      = false) :
    v.entryOf c q =
      ((v.queue q).settings.target, 1, v.takeSeniority.setQueue q (v.queue q).passedThrough) :=
  (entryChain_passes _ _ 2 _ _ hpass).trans (entryChain_lands _ _ _ _ _ hkeep)

end State

/-! ### ENQUEUE and TRANSFER up to the entry -/

/-- A new caller's record when it asks for entry: the fields latched, the history cleared (R3, R8). -/
def Call.newCaller (x : Call) (ws : List Word) : Call :=
  { x.latchEntry ws with
    channel := callChannel ws, hops := 0, attempts := 0, underruns := 0, answerTick := 0, lastEnd := .none }

theorem enqueueBody_accepted (h : (s.call e.index).state = .free) (he : s.entryError e.snapshot = none) :
    enqueueBody e s =
      (((s.setCall e.index ((s.call e.index).newCaller e.snapshot)).enterQueue e.index (callTarget e.snapshot)).askPlayout
        e.index (callQueueProgram e.snapshot)
        (((s.setCall e.index ((s.call e.index).newCaller e.snapshot)).enterQueue e.index
          (callTarget e.snapshot)).landingProgram e.index)) := by
  unfold enqueueBody
  simp only [h, he, ne_eq, not_true_eq_false, if_false]
  rfl

/-- The state in which a TRANSFER's call asks for entry: its agent's call ended, its playout stopped (R19). -/
def State.transferring (s : State) (e : IntakeEntry) : State :=
  let ended := (s.setCall e.index ((s.call e.index).latchEntry e.snapshot)).endAgentCall e.index
  (ended.setCall e.index { ended.call e.index with agent := none, hops := 0 }).stopCall e.index

theorem transferBody_accepted (h : (s.call e.index).state = .connected ∨ (s.call e.index).state = .agentHold)
    (he : s.entryError e.snapshot = none) :
    transferBody e s =
      (((s.transferring e).enterQueue e.index (callTarget e.snapshot)).askPlayout e.index (callQueueProgram e.snapshot)
        (((s.transferring e).enterQueue e.index (callTarget e.snapshot)).landingProgram e.index)) := by
  unfold transferBody
  rcases h with h | h <;> simp only [h, he] <;> rfl

/-- The state in which a new caller asks for entry. -/
def State.enqueuing (s : State) (e : IntakeEntry) : State :=
  (s.dropEntry e).setCall e.index (((s.dropEntry e).call e.index).newCaller e.snapshot)

theorem exec_enqueue (ht : Taken s e .call 1) (hs : (s.call e.index).state = .free) (he : s.entryError e.snapshot = none) :
    exec .enqueue s =
      .next ((s.enqueuing e).admitted e (callTarget e.snapshot) (callQueueProgram e.snapshot)) :=
  callCommand_asked ht (enqueueBody_accepted (by rw [state_handed, hs]) (by rw [entryError_handed ht.1.kind, he]))

theorem exec_transfer (ht : Taken s e .call 7)
    (hs : (s.call e.index).state = .connected ∨ (s.call e.index).state = .agentHold) (he : s.entryError e.snapshot = none) :
    exec .transfer s =
      .next (((s.dropEntry e).transferring e).admitted e (callTarget e.snapshot) (callQueueProgram e.snapshot)) :=
  callCommand_asked ht
    (transferBody_accepted (by simpa only [state_handed] using hs) (by rw [entryError_handed ht.1.kind, he]))

section
variable (hk : e.kind = .call)
include hk

theorem call_enqueuing : (s.enqueuing e).call e.index =
    { (s.call e.index).newCaller e.snapshot with pendingCount := (s.call e.index).pendingCount - 1 } := by
  unfold State.enqueuing; simp [hk, Call.newCaller, Call.latchEntry]

theorem enqueuing_frame : Changes [.intake, .calls] s (s.enqueuing e) := by
  unfold State.enqueuing
  simp (maxDischargeDepth := 40) [Changes.refl, hk]

theorem queue_enqueuing (q : Nat) : (s.enqueuing e).queue q = s.queue q := by
  unfold State.enqueuing; simp [hk]

theorem counts_enqueuing : State.SameButCounts s (s.enqueuing e) :=
  ⟨fun r => by rw [queue_enqueuing hk]⟩

omit hk in
theorem otherCall_enqueuing {d : Nat} (hd : d ≠ e.index) : (s.enqueuing e).call d = s.call d := by
  unfold State.enqueuing; simp [hd]

end

/-- Settles O9: the named queue keeps the call, so the entry chain ends where it begins. -/
theorem enqueuePlacesANewCaller : Obligations.EnqueuePlacesANewCaller := by
  intro s e q ht hs hpr hprog htarget hq64 hopen hroom hkeep g p
  have hk := ht.1.kind
  have hexec := exec_enqueue ht hs (entryError_none hpr hprog htarget hq64 hopen hroom)
  rw [htarget] at hexec
  have hcall := call_enqueuing (s := s) hk
  have hframe := enqueuing_frame (s := s) hk
  have hsen : (s.enqueuing e).seniority = s.seniority := hframe.keeps .seniority (by decide)
  have hlands : (s.enqueuing e).entryOf e.index q = (q, 0, (s.enqueuing e).takeSeniority) :=
    State.entryOf_lands _ _ _ ((State.passesOn_entering (counts_enqueuing hk) (fun d hd => otherCall_enqueuing hd)
      hsen (by rw [hcall]; rfl) (by rw [queue_enqueuing hk])).2 hkeep)
  have hqueue (r : Nat) : (s.enqueuing e).takeSeniority.queue r = s.queue r := queue_enqueuing hk r
  have htick : (s.enqueuing e).tick = s.tick := congrArg TimeBase.tick (hframe.keeps .time (by decide))
  refine ⟨_, (s.enqueuing e).admission e q (callQueueProgram e.snapshot), hexec, ?_, ?_, ?_, ?_, ?_, ?_, ?_, fun d hd => ?_,
    fun r hr => ?_, ?_⟩
  · rw [State.call_admitted, hlands]
    simp [State.entering, Call.enterSlots, Config.maxHops, hqueue, hcall, htick, hsen, Call.newCaller, Call.latchEntry,
      Call.done, htarget, g]
  · rw [State.queue_admitted, hlands, if_pos rfl, hqueue]; rfl
  · rw [State.seniority_admitted, hsen]
  · exact State.entryFollows_from (State.entryFollows_admitted ..) (hframe.keeps .deadlines (by decide))
  · rw [State.workList_admitted, show (s.enqueuing e).engine.workList = _ from hframe.keeps .workList (by decide)]
  · exact State.playoutAsked_admitted _ _ _ _ (by rw [hlands, hqueue]) (by rw [hcall]; rfl) hframe (by decide)
      (by rw [hcall]; rfl)
  · exact ((State.admitted_frame ..).keeps .intake (by decide)).trans (by simp [State.enqueuing])
  · rw [State.otherCall_admitted _ _ _ _ hd, otherCall_enqueuing hd]
  · rw [State.queue_admitted, hlands, if_neg hr, hqueue]
  · exact (hframe.mono (by decide)).trans ((State.admitted_frame ..).mono (by decide))

end Sys2Proof.Machine
end

section
/-! SUPPORT. The entry-time overflow chain, and what every accepted entry keeps of the queues' counters (02 R39, R40, R44). -/

namespace Sys2Proof.Machine

variable {s : State} {e : IntakeEntry}

namespace State

/-! ### Head counts alone -/

theorem SameButCounts.refl (s : State) : SameButCounts s s := ⟨fun _ => rfl⟩

theorem SameButCounts.of_eq {v : State} (h : ∀ r, v.queue r = s.queue r) : SameButCounts s v :=
  ⟨fun r => by rw [h r]⟩

theorem SameButCounts.trans {u v : State} (h : SameButCounts s u) (g : SameButCounts u v) : SameButCounts s v :=
  ⟨fun r => by rw [g.queues r, h.queues r]⟩

section
variable {s t : State} (h : SameButCounts s t)
include h

theorem counts_setAgent (a : Nat) (r : Agent) : SameButCounts s (t.setAgent a r) := h.trans (.of_eq (by simp))
theorem counts_setCall (c : Nat) (r : Call) : SameButCounts s (t.setCall c r) := h.trans (.of_eq (by simp))
theorem counts_stopCall (c : Nat) : SameButCounts s (t.stopCall c) := h.trans (.of_eq (by simp))
theorem counts_addTrigger (g : Trigger) : SameButCounts s (t.addTrigger g) := h.trans (.of_eq (by simp))
theorem counts_handSample (q : Option Nat) (n : Nat) : SameButCounts s (t.handSample q n) := h.trans (.of_eq (by simp))
theorem counts_post (cls kind call agent target detail) : SameButCounts s (t.post cls kind call agent target detail) :=
  h.trans (.of_eq (by simp))

/-- Recounts change the two head counts and nothing else of a queue (R62). -/
theorem counts_moveAgent (a : Nat) (now : AgentState) : SameButCounts s (t.moveAgent a now) := by
  refine h.trans ⟨fun r => ?_⟩
  unfold moveAgent
  dsimp only
  rw [queue_recountAll_eq]
  rfl

theorem counts_wrapEnd (a : Nat) (byReady : Bool) : SameButCounts s (t.wrapEnd a byReady) := by
  unfold wrapEnd
  refine counts_post (counts_handSample ?_ ..) ..
  split
  · exact counts_addTrigger (counts_moveAgent (counts_setAgent h ..) ..) ..
  · exact counts_moveAgent (counts_setAgent h ..) ..

theorem counts_endAgentCall (c : Nat) : SameButCounts s (t.endAgentCall c) := by
  unfold endAgentCall
  split
  · exact h
  · unfold wrapEntry
    dsimp only
    split
    · exact counts_wrapEnd (counts_setAgent h ..) ..
    · exact counts_moveAgent (counts_setAgent h ..) ..

end

/-! ### Every accepted entry -/

theorem mem_insertByKeys (s : State) (c : Nat) (l : List Nat) : c ∈ s.insertByKeys c l := by
  induction l with
  | nil => simp [insertByKeys]
  | cons d ds ih =>
    unfold insertByKeys
    split
    · exact List.mem_cons_self
    · exact List.mem_cons_of_mem _ ih

theorem count_add_one_sub (a b : BitVec 32) : a + 1 - b = a - b + 1 := by bv_omega

/-- What an accepted entry leaves, wherever the chain ends: the call QUEUED in one queue, that queue's occupancy and balance
of entries up by 1, and every other queue's as it was (R39, R40, R44). -/
theorem admitted_balance {v : State} (hcounts : SameButCounts s v) (q own : Nat) :
    ∃ l, ((v.admitted e q own).call e.index).state = .queued ∧
      ((v.admitted e q own).call e.index).currentQueue = some l ∧ ((v.admitted e q own).call e.index).hops ≤ 3 ∧
      ((v.admitted e q own).call e.index).result = e.answer (v.admission e q own) ∧
      (∀ r, ((v.admitted e q own).queue r).occupancy = (s.queue r).occupancy + if r = l then 1 else 0) ∧
      (∀ r, ((v.admitted e q own).queue r).entered - ((v.admitted e q own).queue r).overflowedOut =
        (s.queue r).entered - (s.queue r).overflowedOut + if r = l then 1 else 0) ∧
      (∀ r, ((v.admitted e q own).queue r).answered = (s.queue r).answered ∧
        ((v.admitted e q own).queue r).abandoned = (s.queue r).abandoned) ∧
      e.index ∈ ((v.admitted e q own).queue l).waiting ∧
      ∀ r, r ≠ l → ((v.admitted e q own).queue r).waiting = (s.queue r).waiting := by
  have hchain (r : Nat) := entryChain_keeps v.takeSeniority (v.entering e.index) Config.maxHops q 0 r
  have hqueue (r : Nat) : v.takeSeniority.queue r = v.queue r := rfl
  have hcall := call_admitted v e q own
  refine ⟨(v.entryOf e.index q).1, ?_, ?_, ?_, ?_, fun r => ?_, fun r => ?_, fun r => ?_, ?_, fun r hr => ?_⟩
  · rw [hcall]; rfl
  · rw [hcall]; rfl
  · rw [hcall]
    exact (hchain q).1
  · rw [hcall]
  · obtain ⟨-, hocc, -⟩ := hchain r
    rw [hqueue, hcounts.queues] at hocc
    rw [queue_admitted]
    split
    · exact congrArg (· + 1) hocc
    · exact hocc
  · obtain ⟨-, -, hentered, -⟩ := hchain r
    rw [hqueue, hcounts.queues] at hentered
    rw [queue_admitted]
    split
    · refine Eq.trans ?_ (congrArg (· + 1) hentered)
      exact count_add_one_sub ..
    · exact hentered.trans (BitVec.add_zero _).symm
  · obtain ⟨-, -, -, hanswered, habandoned, -⟩ := hchain r
    rw [hqueue, hcounts.queues] at hanswered habandoned
    rw [queue_admitted]
    split <;> exact ⟨hanswered, habandoned⟩
  · rw [queue_admitted, if_pos rfl]
    exact mem_insertByKeys ..
  · obtain ⟨-, -, -, -, -, hwaiting⟩ := hchain r
    rw [hqueue, hcounts.queues] at hwaiting
    rw [queue_admitted, if_neg hr]
    exact hwaiting

theorem admission_ok (v : State) (e : IntakeEntry) (q own : Nat) :
    v.admission e q own = .ok ∨ v.admission e q own = .okNoPlayout := (askPlayout_keeps ..).1

end State

theorem counts_transferring (hk : e.kind = .call) : State.SameButCounts s ((s.dropEntry e).transferring e) := by
  have hdrop : State.SameButCounts s (s.dropEntry e) := .of_eq fun r => queue_handed hk r
  unfold State.transferring
  exact State.counts_stopCall (State.counts_setCall (State.counts_endAgentCall (State.counts_setCall hdrop ..) ..) ..) ..

/-- Settles O10: the single hop by the chain's first two checks; the balance by what a chain keeps of every queue. -/
theorem entryOverflowKeepsTheBalance : Obligations.EntryOverflowKeepsTheBalance := by
  refine ⟨fun s e q r ht hs hpr hprog htarget hq64 hopen hroom hr hne hpass hkeep => ?_, fun s e i hi he => ?_⟩
  · intro p
    have hk := ht.1.kind
    have hexec := exec_enqueue ht hs (entryError_none hpr hprog htarget hq64 hopen hroom)
    rw [htarget] at hexec
    have hcall := call_enqueuing (s := s) hk
    have hframe := enqueuing_frame (s := s) hk
    have hqueue := queue_enqueuing (s := s) hk
    have hsen : (s.enqueuing e).seniority = s.seniority := hframe.keeps .seniority (by decide)
    have hpasses := (State.passesOn_entering (counts_enqueuing hk) (fun d hd => otherCall_enqueuing hd)
      hsen (by rw [hcall]; rfl) (by rw [queue_enqueuing hk])).1 hpass
    have hpassed (p : Nat) : ((s.enqueuing e).takeSeniority.setQueue q ((s.enqueuing e).queue q).passedThrough).queue p =
        if p = q then (s.queue q).passedThrough else s.queue p := by
      rw [State.queue_setQueue, hqueue]
      split
      · rfl
      · exact hqueue p
    have hkeeps : ((s.enqueuing e).takeSeniority.setQueue q ((s.enqueuing e).queue q).passedThrough).passesOn r
        ((s.enqueuing e).entering e.index) = false := by
      refine (State.passesOn_iff s
        (u := (s.enqueuing e).takeSeniority.setQueue q ((s.enqueuing e).queue q).passedThrough) r e.index _ (by rw [hpassed, if_neg hne]) ?_
        (fun d hd => otherCall_enqueuing hd) hsen).2 ?_
      · rw [hpassed]
        split
        · next h => rw [h]; exact ⟨rfl, rfl, rfl⟩
        · exact ⟨rfl, rfl, rfl⟩
      · rw [hpassed, if_neg hne]
        have hpriority : ((s.enqueuing e).entering e.index).priority = callPriority e.snapshot := by
          show ((s.enqueuing e).call e.index).priority = _
          rw [hcall]; rfl
        rw [hpriority]; exact hkeep
    have hlands := State.entryOf_hop _ hpasses (by rw [hqueue q, hr] at *; exact hkeeps)
    rw [hqueue, hr, ← hqueue q] at hlands
    refine ⟨_, (s.enqueuing e).admission e q (callQueueProgram e.snapshot), hexec, ?_, ?_, ?_, ?_, ?_, ?_, ?_,
      fun p hq hr => ?_, ?_, fun d hd => ?_, ?_⟩
    · rw [State.call_admitted]; rfl
    · rw [State.call_admitted, hlands]; rfl
    · rw [State.call_admitted, hlands]; rfl
    · rw [State.call_admitted]; exact hsen
    · rw [State.call_admitted]
    · rw [State.queue_admitted, hlands, if_neg (Ne.symm hne), hpassed, if_pos rfl]; rfl
    · rw [State.queue_admitted, hlands, if_pos rfl, hpassed, if_neg hne]; rfl
    · rw [State.queue_admitted, hlands, if_neg hr, hpassed, if_neg hq]
    · exact State.playoutAsked_admitted _ _ _ _ (by rw [hlands, hpassed, if_neg hne]) (by rw [hcall]; rfl) hframe (by decide)
        (by rw [hcall]; rfl)
    · rw [State.otherCall_admitted _ _ _ _ hd, otherCall_enqueuing hd]
    · exact (hframe.mono (by decide)).trans ((State.admitted_frame ..).mono (by decide))
  · rcases hi with ⟨rfl, ht, hs⟩ | ⟨rfl, ht, hs, -⟩
    · obtain ⟨l, hstate, hcurrent, hhops, hresult, hkept⟩ := State.admitted_balance (e := e) (counts_enqueuing (s := s) ht.1.kind)
        (callTarget e.snapshot) (callQueueProgram e.snapshot)
      exact ⟨_, l, exec_enqueue ht hs he, hstate, hcurrent, hhops,
        (State.admission_ok ..).imp (fun h => by rw [hresult, h]) (fun h => by rw [hresult, h]), hkept⟩
    · obtain ⟨l, hstate, hcurrent, hhops, hresult, hkept⟩ := State.admitted_balance (e := e) (counts_transferring (s := s) ht.1.kind)
        (callTarget e.snapshot) (callQueueProgram e.snapshot)
      exact ⟨_, l, exec_transfer ht hs he, hstate, hcurrent, hhops,
        (State.admission_ok ..).imp (fun h => by rw [hresult, h]) (fun h => by rw [hresult, h]), hkept⟩

end Sys2Proof.Machine
end

section
/-! SUPPORT. TRANSFER: the agent's call ended, the hold playout stopped, and the call's entry afresh (01 R19). -/

namespace Sys2Proof.Machine

variable {s v : State} {e : IntakeEntry}

/-! ### The state in which a TRANSFER's call asks for entry -/

/-- A TRANSFER's call once its fields are latched (R3, R19). -/
def State.latched (s : State) (e : IntakeEntry) : State :=
  (s.dropEntry e).setCall e.index (((s.dropEntry e).call e.index).latchEntry e.snapshot)

/-- A TRANSFER's call ready to enter again: without an agent, its playout stopped, its keys and its deadline entry as they
were (R19). -/
structure ReadyAgain (s v : State) (e : IntakeEntry) : Prop where
  call : v.call e.index =
    { (s.call e.index).latchEntry e.snapshot with
      pendingCount := (s.call e.index).pendingCount - 1, agent := none, hops := 0, context := none }
  others : CallsBut e.index s v
  counts : State.SameButCounts s v
  stopped : ContextStopped e.index s v
  seniority : v.seniority = s.seniority
  tick : v.tick = s.tick
  deadlines : v.deadlines = s.deadlines
  intake : v.intake = s.intake.tail

theorem transferring_eq : (s.dropEntry e).transferring e =
    (((s.latched e).endAgentCall e.index).setCall e.index
      { ((s.latched e).endAgentCall e.index).call e.index with agent := none, hops := 0 }).stopCall e.index := rfl

section
variable (hk : e.kind = .call)
include hk

theorem call_latched : (s.latched e).call e.index =
    { (s.call e.index).latchEntry e.snapshot with pendingCount := (s.call e.index).pendingCount - 1 } := by
  unfold State.latched; simp [hk, Call.latchEntry]

theorem agent_latched (a : Nat) : (s.latched e).agent a = s.agent a := by unfold State.latched; simp [hk]

theorem queue_latched (q : Nat) : (s.latched e).queue q = s.queue q := by unfold State.latched; simp [hk]

theorem latched_frame : Changes [.intake, .calls] s (s.latched e) := by
  unfold State.latched
  simp (maxDischargeDepth := 40) [Changes.refl, hk]

theorem readyAgain_transferring : ReadyAgain s ((s.dropEntry e).transferring e) e where
  call := by rw [transferring_eq]; simp [call_latched hk]
  others d hd := by rw [transferring_eq]; simp [State.latched, hd]
  counts := counts_transferring hk
  stopped := State.contextStopped_of s (((s.latched e).endAgentCall e.index).setCall e.index
      { ((s.latched e).endAgentCall e.index).call e.index with agent := none, hops := 0 }) _ e.index
    (by simp [call_latched hk, Call.latchEntry]) (by simp [State.latched]) (by simp [State.latched]) (fun _ => rfl)
    (fun _ => rfl)
  seniority := by rw [transferring_eq]; simp [State.latched]
  tick := by rw [transferring_eq]; simp [State.latched]
  deadlines := by rw [transferring_eq]; simp [State.latched]
  intake := by rw [transferring_eq]; simp [State.latched]

/-- A TRANSFER is an entry from a state ready for it, whose agents and queues are those the end of the agent's call leaves. -/
theorem exec_transfer_ready {q : Nat} (ht : Taken s e .call 7)
    (hs : (s.call e.index).state = .connected ∨ (s.call e.index).state = .agentHold) (he : s.entryError e.snapshot = none)
    (htarget : callTarget e.snapshot = q) {cs : List Component}
    (hframe : Changes cs s ((s.latched e).endAgentCall e.index)) :
    ∃ v, exec .transfer s = .next (v.admitted e q (callQueueProgram e.snapshot)) ∧ ReadyAgain s v e ∧
      (∀ a, v.agent a = ((s.latched e).endAgentCall e.index).agent a) ∧
      (∀ r, v.queue r = ((s.latched e).endAgentCall e.index).queue r) ∧
      v.engine = ((s.latched e).endAgentCall e.index).engine ∧
      v.samples = ((s.latched e).endAgentCall e.index).samples ∧
      v.events = ((s.latched e).endAgentCall e.index).events ∧
      Changes ([.calls, .contexts, .bindings] ++ cs) s v := by
  subst htarget
  refine ⟨_, exec_transfer ht hs he, readyAgain_transferring hk, ?_⟩
  rw [transferring_eq]
  refine ⟨by simp, by simp, by simp, by simp, by simp, ?_⟩
  have hended := hframe.mono (List.subset_append_right [.calls, .contexts, .bindings] cs)
  exact State.frame_stopCall _ (frame_setCall hended _ _ (by simp)) _ (by simp) (by simp) (by simp)

end

/-! ### From there on -/

/-- The entry chain ends where it begins when the named queue keeps the call (R39). -/
theorem entryOf_readyAgain (hv : ReadyAgain s v e) {q n : Nat} (hn : (v.queue q).staffed = n)
    (hkeep : KeepsEntering s q e.index (callPriority e.snapshot) n) : v.entryOf e.index q = (q, 0, v.takeSeniority) :=
  State.entryOf_lands _ _ _ ((State.passesOn_entering hv.counts hv.others hv.seniority (by rw [hv.call]; rfl) hn).2 hkeep)

/-- The call after an accepted TRANSFER whose named queue keeps it (R19, R22). -/
theorem call_readyAgain (hv : ReadyAgain s v e) {q own : Nat} {g : QueueSettings}
    (hlands : v.entryOf e.index q = (q, 0, v.takeSeniority)) (hg : (v.queue q).settings = g)
    (htarget : callTarget e.snapshot = q) :
    (v.admitted e q own).call e.index =
      { (s.call e.index).done (e.answer (v.admission e q own)) with
        state := .queued, agent := none, currentQueue := some q, hops := 0
        context := ((v.admitted e q own).call e.index).context
        firstEntry := s.tick, queueEntry := s.tick, seniority := s.seniority
        priority := callPriority e.snapshot, targetQueue := q, queueProgram := callQueueProgram e.snapshot
        offerExpiry := none
        overflowDue :=
          if (g.mode = .time ∨ g.mode = .both) ∧ g.overflowAfter ≠ 0 ∧ g.target ≠ 255 then
            some (s.tick + BitVec.ofNat 32 g.overflowAfter) else none
        maxWaitDue := if g.maxWait ≠ 0 then some (s.tick + BitVec.ofNat 32 g.maxWait) else none } := by
  rw [State.call_admitted, hlands]
  simp [State.entering, Call.enterSlots, Config.maxHops, hg, hv.call, hv.tick, hv.seniority, Call.latchEntry,
    Call.done, htarget]

/-- A TRANSFER's playout request, from the state ready for the entry (R11). -/
theorem playoutAsked_readyAgain (hv : ReadyAgain s v e) {q own p : Nat} {g : QueueSettings}
    (hlands : v.entryOf e.index q = (q, 0, v.takeSeniority)) (hg : (v.queue q).settings = g)
    (hp : (if own = 255 then g.queueProgram else own) = p) :
    PlayoutAsked v (v.admitted e q own) e.index p (s.call e.index).channel (v.admission e q own) := by
  refine State.playoutAsked_admitted (cs := []) _ _ _ _ ?_ (by rw [hv.call]; rfl) (.refl ..) (by simp) rfl
  rw [hlands]
  exact (congrArg (fun g : QueueSettings => if own = 255 then g.queueProgram else own) hg).trans hp

theorem agent_admitted (v : State) (q own a : Nat) : (v.admitted e q own).agent a = v.agent a := by
  unfold State.agent
  rw [(State.admitted_frame ..).keeps .agents (by decide)]

theorem intake_admitted (v : State) (q own : Nat) : (v.admitted e q own).intake = v.intake :=
  (State.admitted_frame ..).keeps .intake (by decide)

theorem samples_admitted (v : State) (q own : Nat) : (v.admitted e q own).samples = v.samples :=
  (State.admitted_frame ..).keeps .samples (by decide)

/-- Settles O16: the agent's call ends in one of the two ways, and the call is admitted from the state that leaves. -/
theorem transferSendsTheCallBackIntoAQueue : Obligations.TransferSendsTheCallBackIntoAQueue := by
  refine ⟨fun s e a p n q ht hs ha hb hp hd hn hpos hpr hprog htarget hq64 hopen hroom hkeep => ?_,
    fun s e a p q ht hs ha hb hp hd hown hqueue => ?_⟩
  all_goals
    have hk := ht.1.kind
    have hlatched := latched_frame (s := s) hk
    have hagent : ((s.latched e).call e.index).agent = some a := by rw [call_latched hk]; exact ha
    have hbusy : ((s.latched e).agent a).state = .busy := by rw [agent_latched hk, hb]
    have hskills : duplicateSkill ((s.latched e).agent a).skills = false := by rw [agent_latched hk, hd]
    have hlast : ((s.latched e).agent a).lastQueue = some p := by rw [agent_latched hk, hp]
    have hceiling : (s.latched e).part.config.wrapCeiling = s.part.config.wrapCeiling :=
      congrArg PartConfig.wrapCeiling (hlatched.keeps .config (by decide))
    have hanswer : ((s.latched e).call e.index).answerTick = (s.call e.index).answerTick := by rw [call_latched hk]; rfl
    have htick : (s.latched e).tick = s.tick := congrArg TimeBase.tick (hlatched.keeps .time (by decide))
    have hlength := State.wrapLength_eq _ hlast
    rw [agent_latched hk, queue_latched hk, hceiling] at hlength
  · intro g program
    rw [hn] at hlength
    have hnone : (s.latched e).wrapLength a ≠ 0 := by omega
    have hended : Changes [.intake, .calls, .agents, .queues] s ((s.latched e).endAgentCall e.index) := by
      rw [State.endAgentCall_running hagent hnone]
      exact frame_moveAgent (frame_setAgent (hlatched.mono (by decide)) _ _ (by decide)) _ _ (by decide) (by decide)
    obtain ⟨v, hexec, hv, hagents, hqueues, -, -, hevents, hframe⟩ := exec_transfer_ready hk ht hs
      (entryError_none hpr hprog htarget hq64 hopen hroom) htarget hended
    have hqueue (r : Nat) : v.queue r = s.queue r := by
      rw [hqueues, State.queue_endAgentCall_running hagent hnone hbusy hskills, queue_latched hk]
    have hlands := entryOf_readyAgain hv (by rw [hqueue]) hkeep
    have hchain (r : Nat) : v.takeSeniority.queue r = s.queue r := hqueue r
    refine ⟨_, v.admission e q (callQueueProgram e.snapshot), v, hexec, call_readyAgain hv hlands (by rw [hqueue]) htarget, ?_,
      ?_, ?_, ?_, hv.stopped, by rw [hv.call], hframe.keeps .library (by decide), hframe.keeps .feeds (by decide),
      samePosting_of_changes hframe (by decide) (by decide) (by decide),
      playoutAsked_readyAgain hv hlands (by rw [hqueue]) rfl, hevents.trans (events_agree hended (by decide)), ?_, ?_, fun d hd => ?_,
      fun b hb => ?_, fun r hr => ?_, ?_⟩
    · rw [agent_admitted, hagents, State.agent_endAgentCall_running hagent hnone, if_pos rfl, hlength, hanswer, htick,
        agent_latched hk]
    · rw [State.queue_admitted, hlands, if_pos rfl, hchain]; rfl
    · rw [State.seniority_admitted, hv.seniority]
    · exact State.entryFollows_from (State.entryFollows_admitted ..) hv.deadlines
    · rw [State.workList_admitted, show v.engine.workList = _ from hframe.keeps .workList (by decide)]
    · rw [intake_admitted, hv.intake]
    · rw [State.otherCall_admitted _ _ _ _ hd, hv.others d hd]
    · rw [agent_admitted, hagents, State.agent_endAgentCall_running hagent hnone, if_neg hb, agent_latched hk]
    · rw [State.queue_admitted, hlands, if_neg hr, hchain]
    · exact (hframe.mono (by decide)).trans ((State.admitted_frame ..).mono (by decide))
  · intro f n out hpr hprog htarget hq64 hopen hroom hkeep g program freed
    have hnone : (s.latched e).wrapLength a = 0 := by simp [hlength, hown, hqueue]
    have hout : f.wrapEndState false = out := wrapEndState_byFlags f
    have hended : Changes ([.intake, .calls, .agents, .queues, .workList, .samples] ++ posting) s
        ((s.latched e).endAgentCall e.index) :=
      State.frame_endAgentCall _ (hlatched.mono (by decide)) _ (by decide) (by decide) (by decide) (by decide) (by decide)
    obtain ⟨v, hexec, hv, hagents, hqueues, hengine, hsamples, hevents, hframe⟩ := exec_transfer_ready hk ht hs
      (entryError_none hpr hprog htarget hq64 hopen hroom) htarget hended
    have hqueue (r : Nat) : v.queue r = freed r := by
      rw [hqueues, State.queue_endAgentCall_ending hagent hnone hbusy hskills, queue_latched hk, agent_latched hk]
      show (if _ then (if f.wrapEndState false = AgentState.available then _ else _) else _) = _
      rw [hout]
    have hfreed (r : Nat) : freed r =
        { s.queue r with staffed := (freed r).staffed, available := (freed r).available } := by
      by_cases hnames : (s.agent a).names r = true <;> by_cases hav : out = .available <;>
        simp only [freed, hnames, hav, if_true, if_false, Bool.false_eq_true]
    have hsettings (r : Nat) : (freed r).settings = (s.queue r).settings := by rw [hfreed]
    have hstaffed : (v.queue q).staffed =
        if (s.agent a).names q ∧ out ≠ .available then (s.queue q).staffed - 1 else (s.queue q).staffed := by
      rw [hqueue]
      by_cases hnames : (s.agent a).names q = true <;> by_cases hav : out = .available <;> simp [freed, hnames, hav]
    have hlands := entryOf_readyAgain hv hstaffed hkeep
    have hchain (r : Nat) : v.takeSeniority.queue r = freed r := hqueue r
    refine ⟨_, v.admission e q (callQueueProgram e.snapshot), v, hexec,
      call_readyAgain hv hlands (by rw [hqueue, hsettings]) htarget, ?_, ?_, fun r hr => ?_, ?_, ?_, hv.stopped, by rw [hv.call],
      hframe.keeps .library (by decide), hframe.keeps .feeds (by decide),
      samePosting_of_changes hframe (by decide) (by decide) (by decide),
      playoutAsked_readyAgain hv hlands (by rw [hqueue, hsettings]) rfl, ?_, ?_, ?_, ?_, fun d hd => ?_, fun b hb => ?_, ?_⟩
    · rw [agent_admitted, hagents, State.agent_endAgentCall_ending hagent hnone, if_pos rfl, htick, agent_latched hk, hout]
      rfl
    · rw [State.queue_admitted, hlands, if_pos rfl, hchain, hfreed]; rfl
    · rw [State.queue_admitted, hlands, if_neg hr, hchain]
    · rw [State.seniority_admitted, hv.seniority]
    · exact State.entryFollows_from (State.entryFollows_admitted ..) hv.deadlines
    · rw [hevents, State.events_endAgentCall_ending hagent hnone hlast, hanswer, htick]
      exact State.events_post_congr (events_agree hlatched (by decide))
        (congrArg PartConfig.enables (hlatched.keeps .config (by decide))) (hlatched.keeps .proposal (by decide)).2 htick ..
    · rw [State.workList_admitted, hengine, State.workList_endAgentCall_ending hagent hnone, agent_latched hk, hout,
        show (s.latched e).engine.workList = _ from hlatched.keeps .workList (by decide)]
    · rw [samples_admitted, hsamples, State.samples_endAgentCall_ending hagent hnone hlast, hanswer, htick,
        show (s.latched e).samples = _ from hlatched.keeps .samples (by decide)]
    · rw [intake_admitted, hv.intake]
    · rw [State.otherCall_admitted _ _ _ _ hd, hv.others d hd]
    · rw [agent_admitted, hagents, State.agent_endAgentCall_ending hagent hnone, if_neg hb, agent_latched hk]
    · exact (hframe.mono (by decide)).trans ((State.admitted_frame ..).mono (by decide))

end Sys2Proof.Machine
end

section
/-! SUPPORT. The place a call's keys give it in a list, PRIORITY, and ANNOUNCE (01 R9, R20, R21; 02 R36; 07 R121, R123). -/

namespace Sys2Proof.Machine

variable {s : State} {e : IntakeEntry}

/-! ### The place a call's keys give it (R36) -/

theorem Call.ahead_iff (x y : Call) : x.ahead y = true ↔
    y.priority < x.priority ∨ x.priority = y.priority ∧ x.seniority.toNat < y.seniority.toNat := by
  simp [Call.ahead]

theorem Call.ahead_trans {x y z : Call} (h : x.ahead y = true) (g : y.ahead z = true) : x.ahead z = true := by
  rw [Call.ahead_iff] at *
  omega

/-- A call goes in behind the first stretch of calls it is not ahead of, and before a call it is ahead of. -/
theorem State.insertByKeys_split (s : State) (c : Nat) (l : List Nat) : ∃ front back, l = front ++ back ∧
    s.insertByKeys c l = front ++ c :: back ∧ (∀ d ∈ front, ¬ (s.call c).ahead (s.call d) = true) ∧
      ∀ d, back.head? = some d → (s.call c).ahead (s.call d) = true := by
  induction l with
  | nil => exact ⟨[], [], rfl, rfl, by simp, by simp⟩
  | cons d ds ih =>
    by_cases h : (s.call c).ahead (s.call d) = true
    · refine ⟨[], d :: ds, rfl, if_pos h, by simp, fun x hx => ?_⟩
      obtain rfl : d = x := by simpa using hx
      exact h
    · obtain ⟨front, back, hl, hi, hfront, hback⟩ := ih
      refine ⟨d :: front, back, by rw [hl, List.cons_append], ?_, ?_, hback⟩
      · rw [List.cons_append, ← hi]
        exact if_neg h
      · exact List.forall_mem_cons.mpr ⟨h, hfront⟩

/-- In a list ordered by the keys, a call ahead of the first is ahead of all. -/
theorem ahead_all {l : List Nat} {c : Nat} (hl : l.Pairwise fun x y => (s.call x).ahead (s.call y) = true)
    (h : ∀ d, l.head? = some d → (s.call c).ahead (s.call d) = true) (d : Nat) (hd : d ∈ l) :
    (s.call c).ahead (s.call d) = true := by
  cases l with
  | nil => simp at hd
  | cons x xs =>
    have hx := h x rfl
    rcases List.mem_cons.mp hd with rfl | hd
    · exact hx
    · exact Call.ahead_trans hx (List.rel_of_pairwise_cons hl hd)

/-! ### PRIORITY (R20) -/

/-- Writing a result moves no call in a list (R36). -/
theorem State.insertByKeys_answered (s : State) (e : IntakeEntry) (r : ResultCode) (c : Nat) (l : List Nat) :
    (s.answered e r).insertByKeys c l = s.insertByKeys c l := by
  refine State.insertByKeys_congr (fun d => ?_) ..
  rw [State.call_answered]
  split
  · next h => subst h; exact ⟨rfl, rfl⟩
  · exact ⟨rfl, rfl⟩

theorem State.insertByKeys_enterWaiting (s : State) (q d c : Nat) (l : List Nat) :
    (s.enterWaiting q d).insertByKeys c l = s.insertByKeys c l := State.insertByKeys_congr (fun _ => by simp) ..

theorem priorityBody_queued {q : Nat} (hs : (s.call e.index).state = .queued) (hq : (s.call e.index).currentQueue = some q)
    (hp : callPriority e.snapshot ≤ 15) : priorityBody e s =
    (.ok, ((s.setCall e.index { s.call e.index with priority := callPriority e.snapshot }).leaveWaiting q
      e.index).enterWaiting q e.index) := by
  unfold priorityBody; simp [hs, hq, Nat.not_lt.mpr hp]

theorem priorityBody_elsewhere (hs : (s.call e.index).state = .offered ∨ (s.call e.index).state = .connected ∨
      (s.call e.index).state = .agentHold) (hp : callPriority e.snapshot ≤ 15) : priorityBody e s =
    (.ok, s.setCall e.index { s.call e.index with priority := callPriority e.snapshot }) := by
  unfold priorityBody
  rcases hs with hs | hs | hs <;> simp [hs, Nat.not_lt.mpr hp]

/-! ### ANNOUNCE (R21, R123) -/

/-- A context that begins an announcement of a segment (R123). -/
def Context.announcing (x : Context) (g : Segment) : Context :=
  { x with activity := .announcement, segment := g, position := 0, passes := 0, phase := 0, bursts := 0 }

/-- A context whose burst in flight, if any, is redirected (R123). -/
def Context.redirecting (x : Context) : Context := { x with redirected := x.redirected || x.inFlight }

theorem State.beginAnnouncement_defined {k n : Nat} (z : Context) (h : (s.segment n).defined = true) :
    (s.setContext k z).beginAnnouncement k n = s.setContext k (z.announcing (s.segment n)) := by
  unfold State.beginAnnouncement
  simp [h, State.setContext_setContext, Context.announcing]

/-- An announcement whose segment is not DEFINED ends at its beginning: the top record is popped and resumed (R121, R123). -/
theorem State.beginAnnouncement_undefined {k n : Nat} (z : Context) {r : ReturnRecord} {rest : List ReturnRecord}
    (h : (s.segment n).defined = false) (hz : z.stack = r :: rest) :
    (s.setContext k z).beginAnnouncement k n =
      (s.setContext k
        { z.announcing (s.segment n) with
          stack := rest, timer := if rest = [] then (s.program z.program).period else z.timer }).control k (.resume r) := by
  unfold State.beginAnnouncement
  have hpop := State.popReturn_setContext s k (z.announcing (s.segment n)) r rest hz
  simp only [State.context_setContext, if_true, State.segment_setContext, State.setContext_setContext, h,
    Bool.false_eq_true, if_false]
  unfold Context.announcing at *
  rw [hpop]

section
variable {k n : Nat}

theorem announce_step {i : Nat} (ha : (s.context k).activity = .step i) (hl : (s.context k).stack.length < 4) :
    s.announce k n = (.ok, (s.setContext k ((s.context k).cut true)).beginAnnouncement k n) := by
  unfold State.announce Config.stackDepth
  simp [ha, Nat.not_le.mpr hl]

theorem announce_full {i : Nat} (ha : (s.context k).activity = .step i) (hl : 4 ≤ (s.context k).stack.length) :
    s.announce k n = (.stackFull, s) := by
  unfold State.announce Config.stackDepth
  simp [ha, hl]

theorem announce_again (ha : (s.context k).activity = .announcement) :
    s.announce k n = (.ok,
      (s.setContext k (s.context k).redirecting).beginAnnouncement k n) := by
  unfold State.announce
  simp [ha, Context.redirecting]

theorem announceBody_noContext (h : (s.call e.index).context = none) : announceBody e s = (.noPlayout, s) := by
  unfold announceBody; simp [h]

theorem announceBody_stopped (h : (s.call e.index).context = some k) (hr : (s.context k).running = false) :
    announceBody e s = (.noPlayout, s) := by
  unfold announceBody; simp [h, hr]

theorem announceBody_full (h : (s.call e.index).context = some k) (hr : (s.context k).running = true)
    (ha : s.announce k (callSegment e.snapshot) = (.stackFull, s)) : announceBody e s = (.stackFull, s) := by
  unfold announceBody; simp [h, hr, ha]

theorem announceBody_accepted {u : State} (h : (s.call e.index).context = some k) (hr : (s.context k).running = true)
    (ha : s.announce k (callSegment e.snapshot) = (.ok, u)) : announceBody e s =
      (.ok, u.setCall e.index { u.call e.index with announcement := callSegment e.snapshot }) := by
  unfold announceBody; simp [h, hr, ha]

theorem running_iff (x : Context) : x.running = true ↔ x.state = .starting ∨ x.state = .playing := by
  unfold Context.running
  cases x.state <;> simp

end

/-- What control may change, as components (R115). -/
theorem State.control_frame (s : State) (k : Nat) (x : Control) : Changes (.calls :: asking) s (s.control k x) := by
  rw [State.control_eq]
  exact ⟨fun c hc => by cases c <;> simp_all [Component.agree, asking]⟩

/-- What an ANNOUNCE leaves whose context ends up as record `z`: the segment latched and the command answered (R3, R21). -/
theorem announce_plays {k : Nat} {z : Context} (ht : Taken s e .call 10) (hc : (s.call e.index).context = some k)
    (hr : (s.context k).running = true)
    (ha : (s.dropEntry e).announce k (callSegment e.snapshot) = (.ok, (s.dropEntry e).setContext k z)) :
    ∃ t, exec .announce s = .next t ∧
      t.call e.index = { (s.call e.index).done (e.answer .ok) with announcement := callSegment e.snapshot } ∧
      t.context k = z ∧ t.intake = s.intake.tail ∧ CallsBut e.index s t ∧ ContextsBut k s t ∧
      Changes [.intake, .calls, .contexts, .passCount] s t := by
  have hk := ht.1.kind
  have hbody := announceBody_accepted (s := s.dropEntry e) (by simp [hk, hc]) (by simpa using hr) ha
  refine ⟨_, callCommand_taken ht hbody, ?_, ?_, ?_, fun d hd => ?_, fun j hj => ?_, ?_⟩
  · simp [hk, Call.done]
  · simp
  · simp
  · simp [hd]
  · simp [hj]
  · simp (maxDischargeDepth := 40) [Changes.refl, hk]

/-- What an ANNOUNCE leaves that pops a record at its own beginning: what the resumption leaves, the segment latched (R121,
R123; log 39). -/
theorem announce_returns {k : Nat} {z : Context} {r : ReturnRecord} (ht : Taken s e .call 10)
    (hc : (s.call e.index).context = some k) (hr : (s.context k).running = true)
    (ha : (s.dropEntry e).announce k (callSegment e.snapshot) =
      (.ok, ((s.dropEntry e).setContext k z).control k (.resume r)))
    (hz : z.call = e.index) (hb : s.binding z.channel = some k) :
    ∃ t, exec .announce s = .next t ∧
      t.call e.index =
        { (s.call e.index).done (e.answer .ok) with
          announcement := callSegment e.snapshot, context := (t.call e.index).context } ∧
      ControlLeaves s t e.index k z (.resume r) ∧ t.intake = s.intake.tail ∧ CallsBut e.index s t ∧ ContextsBut k s t ∧
      Changes ([.intake, .calls, .passCount] ++ asking) s t := by
  have hk := ht.1.kind
  have hbody := announceBody_accepted (s := s.dropEntry e) (by simp [hk, hc]) (by simpa using hr) ha
  have hbefore : Changes [.intake, .calls, .contexts] s ((s.dropEntry e).setContext k z) := by
    simp (maxDischargeDepth := 40) [Changes.refl, hk]
  have hctl := controlled_control (k := k) ((s.dropEntry e).setContext k z) (.resume r) (by simpa using hz)
    (ch := z.channel) (by simp)
  obtain ⟨kept, hits⟩ : ∃ kept, (((s.dropEntry e).setContext k z).control k (.resume r)).call e.index =
      { (s.dropEntry e).call e.index with context := kept } := ⟨_, hctl.itsCall⟩
  have hafter := State.control_frame ((s.dropEntry e).setContext k z) k (.resume r)
  refine ⟨_, callCommand_taken ht hbody, ?_, ?_, ?_, fun d hd => ?_, fun j hj => ?_, ?_⟩
  · simp [hits, hk, Call.done]
  · refine ⟨(s.dropEntry e).setContext k z, by simp, by simpa using hb, by simp [hk, hc], events_agree hbefore (by decide),
      samePosting_of_changes hbefore (by decide) (by decide) (by decide), hbefore.keeps .library (by decide),
      hbefore.keeps .feeds (by decide), ?_, fun d hd => ?_, ?_, ?_, ?_⟩
    · simp
    · simp [hctl.calls d hd, hd]
    · simp [hits]
    · simp [hits]
    · simp
  · simp
  · simp [hctl.calls d hd, hd]
  · simp [hctl.contexts j hj, hj]
  · exact State.frame_answered _ _ _ (frame_setCall ((hbefore.mono (by decide)).trans (hafter.mono (by decide))) _ _
      (by decide)) (by decide) (by decide)

/-- Settles O17: PRIORITY by the two cases of its body, ANNOUNCE by the activity it finds. -/
theorem priorityMovesAndAnnounceCutsIn : Obligations.PriorityMovesAndAnnounceCutsIn := by
  refine ⟨⟨fun s c l => ?_, fun s e ht hp => ⟨fun q hs hq => ?_, fun hs => ?_⟩⟩, fun s e ht => ⟨fun k hc => ?_, fun hc => ?_⟩⟩
  · intro before
    have hbefore (x y : Nat) : before x y ↔ (s.call x).ahead (s.call y) = true := (Call.ahead_iff ..).symm
    simp only [hbefore]
    obtain ⟨front, back, hl, hi, hfront, hback⟩ := s.insertByKeys_split c l
    refine ⟨front, back, hl, hi, hfront, hback, fun hsorted => ahead_all ?_ hback⟩
    rw [hl] at hsorted
    exact (List.pairwise_append.mp hsorted).2.1.imp fun h => (hbefore _ _).mp h
  · have hk := ht.1.kind
    have hbody := priorityBody_queued (s := s.dropEntry e) (by rw [state_handed, hs]) (by rw [call_handed hk, hq]) hp
    refine ⟨_, callCommand_taken ht hbody, ?_, ?_, ?_, fun d hd => ?_, fun r hr => ?_, ?_⟩
    · simp [hk, Call.done]
    · simp only [State.queue_answered, State.queue_enterWaiting, State.queue_leaveWaiting, State.queue_setCall, if_true,
        queue_handed hk, State.insertByKeys_answered, State.insertByKeys_enterWaiting]
    · simp
    · simp [hd]
    · simp [hr, hk]
    · simp (maxDischargeDepth := 40) [Changes.refl, hk]
  · have hk := ht.1.kind
    have hbody := priorityBody_elsewhere (s := s.dropEntry e) (by simpa only [state_handed] using hs) hp
    refine ⟨_, callCommand_taken ht hbody, ?_, ?_, fun d hd => ?_, ?_⟩
    · simp [hk, Call.done]
    · simp
    · simp [hd]
    · simp (maxDischargeDepth := 40) [Changes.refl, hk]
  · intro x n period y plays returns bound
    have hk := ht.1.kind
    refine ⟨fun hstate => ?_, fun hstate => ?_⟩
    · have hr : (s.context k).running = true := (running_iff _).mpr hstate
      have hkept : (s.dropEntry e).context k = x := by simp [x]
      refine ⟨fun i ha hl => ?_, fun ha => ⟨fun hdef => ?_, fun hundef hbound r rest hstack => ?_⟩, fun i ha hl => ?_⟩
      · intro saved
        have hsaved : x.saved true = saved := by
          simp [Context.saved, Context.index, Context.onFeed, ha, saved]
        have hann := announce_step (s := s.dropEntry e) (n := n) (by rw [hkept, ha]) (by rw [hkept]; exact hl)
        rw [hkept] at hann
        refine ⟨fun hdef => announce_plays ht hc hr (hann.trans ?_), fun hundef hbound =>
          announce_returns ht hc hr (hann.trans ?_) hbound.1 hbound.2⟩
        · rw [State.beginAnnouncement_defined _ (by simpa using hdef)]
          simp [Context.cut, hsaved, Context.announcing, y]
        · rw [State.beginAnnouncement_undefined _ (by simpa using hundef) rfl]
          simp [Context.cut, hsaved, Context.announcing, y, period]
      · have hann := announce_again (s := s.dropEntry e) (n := n) (by rw [hkept, ha])
        rw [hkept] at hann
        refine announce_plays ht hc hr (hann.trans ?_)
        rw [State.beginAnnouncement_defined _ (by simpa using hdef)]
        simp [Context.redirecting, Context.announcing, y]
      · have hann := announce_again (s := s.dropEntry e) (n := n) (by rw [hkept, ha])
        rw [hkept] at hann
        refine announce_returns ht hc hr (hann.trans ?_) hbound.1 hbound.2
        rw [State.beginAnnouncement_undefined x.redirecting (by simpa using hundef) hstack]
        simp [Context.redirecting, Context.announcing, y, period]
      · exact callCommand_refused ht (announceBody_full (by rw [call_handed hk, hc]) (by simpa using hr)
          (announce_full (by rw [hkept, ha]) (by rw [hkept]; exact hl)))
    · have hr : ((s.dropEntry e).context k).running = false := by
        have : (s.context k).state ≠ .starting ∧ (s.context k).state ≠ .playing := by
          rcases hstate with h | h <;> simp [x] at h <;> simp [h]
        simpa [← Bool.not_eq_true, running_iff] using this
      exact callCommand_refused ht (announceBody_stopped (by rw [call_handed hk, hc]) hr)
  · exact callCommand_refused ht (announceBody_noContext (by rw [call_handed ht.1.kind, hc]))

end Sys2Proof.Machine
end

section
/-! SUPPORT. The order of due ticks, and a due maximum wait or overflow taken (01 R22 to R24; 02 R41 to R43). -/

namespace Sys2Proof.Machine

/-! ### The order of due ticks (R22, R23) -/

/-- A due tick that has been reached (R22). -/
def Late (now k : Tick) : Prop := (now - k).toNat < 2 ^ 31

/-- The order of due ticks: those reached longest ago first, then those nearest ahead (R23). -/
def Earlier (now j k : Tick) : Prop :=
  Late now j ∧ ¬ Late now k ∨ Late now j ∧ Late now k ∧ (now - k).toNat < (now - j).toNat ∨
    ¬ Late now j ∧ ¬ Late now k ∧ (j - now).toNat < (k - now).toNat

theorem dueKey_lt_iff (now j k : Tick) : dueKey now j < dueKey now k ↔ Earlier now j k := by
  unfold dueKey Earlier Late
  bv_omega

theorem reached_iff (now k : Tick) : reached now k = true ↔ Late now k := by
  unfold reached Late; exact decide_eq_true_iff

theorem frontDeadline_eq_none (now : Tick) (l : List Deadline) : frontDeadline now l = none ↔ l = [] := by
  cases l with
  | nil => simp [frontDeadline]
  | cons d ds =>
    unfold frontDeadline
    split
    · simp
    · split <;> simp

/-- The front entry is earlier than each it stands behind, and none that stands behind it is earlier (R23). -/
theorem frontDeadline_split (now : Tick) (l : List Deadline) (d : Deadline) (h : frontDeadline now l = some d) :
    ∃ front back, l = front ++ d :: back ∧ (∀ e ∈ front, Earlier now d.due e.due) ∧
      ∀ e ∈ back, ¬ Earlier now e.due d.due := by
  induction l generalizing d with
  | nil => simp [frontDeadline] at h
  | cons x xs ih =>
    unfold frontDeadline at h
    split at h
    · next hnone =>
      obtain rfl := (frontDeadline_eq_none _ _).mp hnone
      obtain rfl := Option.some.inj h
      exact ⟨[], [], rfl, by simp, by simp⟩
    · next y hy =>
      obtain ⟨front, back, hxs, hfront, hback⟩ := ih y hy
      split at h
      · next hlt =>
        obtain rfl := Option.some.inj h
        exact ⟨x :: front, back, by rw [hxs]; rfl, List.forall_mem_cons.mpr ⟨(dueKey_lt_iff ..).mp hlt, hfront⟩, hback⟩
      · next hle =>
        obtain rfl := Option.some.inj h
        refine ⟨[], xs, rfl, by simp, fun e he hearlier => ?_⟩
        rw [← dueKey_lt_iff] at hearlier
        rw [hxs] at he
        simp only [← dueKey_lt_iff] at hfront hback
        rcases List.mem_append.mp he with he | he
        · have := hfront e he; omega
        · rcases List.mem_cons.mp he with rfl | he
          · omega
          · have := hback e he; omega

namespace State

variable {s : State} {c : Nat}

theorem deadlineOf_unarmed (h : (s.call c).state = .free ∨ (s.call c).state = .connected ∨ (s.call c).state = .agentHold) :
    s.deadlineOf c = none := by
  unfold deadlineOf Call.armed
  rcases h with h | h | h <;> simp [h, earliestSlot]

theorem deadlineOf_offered (h : (s.call c).state = .offered) :
    s.deadlineOf c = (s.call c).offerExpiry.map fun k => { call := c, kind := .offerExpiry, due := k } := by
  unfold deadlineOf Call.armed
  cases (s.call c).offerExpiry <;> simp [h, earliestSlot]

section
variable (h : (s.call c).state = .queued)
include h

theorem deadlineOf_idle (hm : (s.call c).maxWaitDue = none) (ho : (s.call c).overflowDue = none) : s.deadlineOf c = none := by
  unfold deadlineOf Call.armed
  simp [h, hm, ho, earliestSlot]

/-- MAX_WAIT_DUE wins a tie (R23). -/
theorem deadlineOf_maxWait {k : Tick} (hm : (s.call c).maxWaitDue = some k)
    (ho : ∀ j, (s.call c).overflowDue = some j → ¬ Earlier s.tick j k) :
    s.deadlineOf c = some { call := c, kind := .maxWaitDue, due := k } := by
  unfold deadlineOf Call.armed
  cases hj : (s.call c).overflowDue with
  | none => simp [h, hm, earliestSlot]
  | some j =>
    have hlt := ho j hj
    rw [← dueKey_lt_iff] at hlt
    simp [h, hm, earliestSlot, hlt]

theorem deadlineOf_overflow {j : Tick} (ho : (s.call c).overflowDue = some j)
    (hm : ∀ k, (s.call c).maxWaitDue = some k → Earlier s.tick j k) :
    s.deadlineOf c = some { call := c, kind := .overflowDue, due := j } := by
  unfold deadlineOf Call.armed
  cases hk : (s.call c).maxWaitDue with
  | none => simp [h, ho, earliestSlot]
  | some k =>
    have hlt := hm k hk
    rw [← dueKey_lt_iff] at hlt
    simp [h, ho, earliestSlot, hlt]

end

/-! ### A due entry taken (R24) -/

/-- A slot that is armed and reached. -/
def SlotLate (now : Tick) (slot : Option Tick) : Prop := ∃ k, slot = some k ∧ Late now k

theorem slotDue_iff (now : Tick) (slot : Option Tick) : slotDue now slot = true ↔ SlotLate now slot := by
  unfold slotDue SlotLate
  cases slot <;> simp [reached_iff]

theorem slotReached_maxWait (h : (s.call c).state = .queued) (hm : SlotLate s.tick (s.call c).maxWaitDue) :
    s.slotReached c .maxWaitDue = true := by
  obtain ⟨k, hk, hlate⟩ := hm
  unfold slotReached Call.armed
  simp [h, hk, (reached_iff ..).mpr hlate]

theorem slotReached_overflow (h : (s.call c).state = .queued) (ho : SlotLate s.tick (s.call c).overflowDue) :
    s.slotReached c .overflowDue = true := by
  obtain ⟨k, hk, hlate⟩ := ho
  unfold slotReached Call.armed
  simp [h, hk, (reached_iff ..).mpr hlate]

theorem dueEvent_taken {d : Deadline} {kind : DeadlineKind} (ha : s.path.resetAsserted = false)
    (hf : frontDeadline s.tick s.deadlines = some d) (hd : Late s.tick d.due) (hs : s.slotReached d.call kind = true) :
    dueEvent kind s = .next (s.takeDue d.call).settle := by
  unfold dueEvent
  rw [event_awake _ ha, hf]
  simp only [(reached_iff ..).mpr hd, hs, Bool.and_self, if_true]

/-- A QUEUED call whose maximum wait has been looked at, its slot left as `m` and the events as in `before` (R24, R43). -/
structure WaitSeen (s u before : State) (c : Nat) (m : Option Tick) : Prop where
  call : u.call c = { s.call c with maxWaitDue := m }
  others : CallsBut c s u
  events : u.events = before.events
  told : Changes posting s before
  deadlines : u.deadlines = (s.dropDeadline c).deadlines
  frame : Changes (posting ++ [.calls, .deadlines]) s u

/-- What is taken of a QUEUED call's due entry before its overflow (R24). -/
def waitTaken (s : State) (c : Nat) : State := ((s.dropDeadline c).handleOffer c).handleMaxWait c

theorem waitTaken_early (h : (s.call c).state = .queued) (hm : ¬ SlotLate s.tick (s.call c).maxWaitDue) :
    WaitSeen s (s.waitTaken c) s c (s.call c).maxWaitDue := by
  have hw : s.waitTaken c = s.dropDeadline c := by
    unfold waitTaken handleOffer handleMaxWait
    simp [h, slotDue_iff, hm]
  rw [hw]
  refine ⟨by simp, fun d _ => by simp, by simp, .refl .., rfl, ?_⟩
  exact (changes_dropDeadline s c).mono (by decide)

theorem waitTaken_late {q : Nat} (h : (s.call c).state = .queued) (hq : (s.call c).currentQueue = some q)
    (hm : SlotLate s.tick (s.call c).maxWaitDue) :
    WaitSeen s (s.waitTaken c) (s.post .call .maxWait (some c) none (some q) (min (s.tick - (s.call c).queueEntry).toNat 65535))
      c none := by
  have hw : s.waitTaken c = (s.dropDeadline c).reportMaxWait c := by
    unfold waitTaken handleOffer handleMaxWait
    simp [h, slotDue_iff, hm]
  rw [hw]
  unfold reportMaxWait
  refine ⟨by simp, fun d hd => by simp [hd], ?_, by simp (maxDischargeDepth := 40) [Changes.refl, posting], by simp, ?_⟩
  · simp only [events_setCall, call_dropDeadline, hq, tick_dropDeadline, age, Config.maxTicks]
    exact events_post_congr (by simp) (by simp) (by simp) (by simp) ..
  · simp (maxDischargeDepth := 40) [Changes.refl, posting]

theorem takeDue_eq (s : State) (c : Nat) : s.takeDue c = ((s.waitTaken c).handleOverflow c).refreshDeadline c := rfl

theorem handleOverflow_early (ho : ¬ SlotLate s.tick (s.call c).overflowDue) : s.handleOverflow c = s := by
  unfold handleOverflow
  simp [slotDue_iff, ho]

theorem handleOverflow_late (h : (s.call c).state = .queued) (ho : SlotLate s.tick (s.call c).overflowDue) :
    s.handleOverflow c = s.timedOverflow c := by
  unfold handleOverflow
  simp [h, slotDue_iff, ho]

/-- The call's entry after all its slots have been looked at (R24). -/
theorem entryReinserted_refreshed {u : State} (h : u.deadlines = (s.dropDeadline c).deadlines) :
    EntryReinserted c s (u.refreshDeadline c).settle :=
  entryReinserted_of (entryFollows_congr (entryFollows_refreshDeadline h) (by simp) (by simp) (by simp))

/-! ### The timed overflow (R41, R42) -/

/-- The conditions under which a queue overflows a call by time (R41). -/
def TimedFor (g : QueueSettings) (hops : Nat) : Prop :=
  (g.mode = .time ∨ g.mode = .both) ∧ g.overflowAfter ≠ 0 ∧ g.target ≠ 255 ∧ hops < 3

/-- A queue that takes an overflowing call (R41). -/
def TakesCall (r : Queue) : Prop := r.state = .open ∧ r.occupancy < r.settings.capacity

theorem takesOverflow_iff (r : Queue) : r.takesOverflow = true ↔ TakesCall r := by
  unfold Queue.takesOverflow TakesCall; simp

section
variable {q : Nat}

theorem overflowAnswer_notTimed (h : ¬ TimedFor (s.queue q).settings (s.call c).hops) :
    s.overflowAnswer c q = .notTimed := by
  refine if_pos (Decidable.byContradiction fun hnot => h ?_)
  unfold TimedFor
  unfold Config.maxHops at hnot
  cases hm : (s.queue q).settings.mode <;> simp_all

theorem overflowAnswer_timed (h : TimedFor (s.queue q).settings (s.call c).hops) : s.overflowAnswer c q =
    if (s.queue (s.queue q).settings.target).takesOverflow = false then .refused else .moved := by
  refine if_neg ?_
  obtain ⟨hmode, hafter, htarget, hhops⟩ := h
  unfold Config.maxHops
  rcases hmode with hm | hm <;> simp [hm, hafter, htarget, hhops]

variable (hq : (s.call c).currentQueue = some q)
include hq

/-- An overflow that does not move the call: no more of it, or tried again at the next tick (R41). -/
theorem timedOverflow_stays
    (h : ¬ TimedFor (s.queue q).settings (s.call c).hops ∨ ¬ TakesCall (s.queue (s.queue q).settings.target)) :
    (TimedFor (s.queue q).settings (s.call c).hops →
        s.timedOverflow c = s.setCall c { s.call c with overflowDue := some (s.tick + 1) }) ∧
      (¬ TimedFor (s.queue q).settings (s.call c).hops →
        s.timedOverflow c = s.setCall c { s.call c with overflowDue := none }) := by
  unfold timedOverflow
  simp only [hq]
  refine ⟨fun ht => ?_, fun ht => ?_⟩
  · have hfull : (s.queue (s.queue q).settings.target).takesOverflow = false := by
      rw [← Bool.not_eq_true, takesOverflow_iff]
      exact h.resolve_left (not_not_intro ht)
    simp only [overflowAnswer_timed ht, hfull, if_true]
  · simp only [overflowAnswer_notTimed ht]

theorem timedOverflow_moves (h : TimedFor (s.queue q).settings (s.call c).hops)
    (g : TakesCall (s.queue (s.queue q).settings.target)) : s.timedOverflow c = s.overflowMove c q := by
  unfold timedOverflow
  simp only [hq, overflowAnswer_timed h, (takesOverflow_iff _).mpr g, Bool.true_eq_false, if_false]

end

section
variable (s : State) (c q : Nat)

theorem call_overflowMove (hne : (s.queue q).settings.target ≠ q) (d : Nat) : (s.overflowMove c q).call d =
    if d = c then
      ({ s.call c with
          currentQueue := some (s.queue q).settings.target, hops := (s.call c).hops + 1, queueEntry := s.tick } :
        Call).enterSlots (s.queue (s.queue q).settings.target).settings
    else s.call d := by
  unfold overflowMove
  simp only [call_addTrigger, call_post, call_setCall]
  split <;> simp [hne, Queue.landed]

theorem queue_overflowMove (hne : (s.queue q).settings.target ≠ q) (r : Nat) : (s.overflowMove c q).queue r =
    if r = q then
      { s.queue q with
        waiting := (s.queue q).waiting.filter (· != c), occupancy := (s.queue q).occupancy - 1
        overflowedOut := (s.queue q).overflowedOut + 1 }
    else if r = (s.queue q).settings.target then
      { s.queue r with
        waiting := s.insertByKeys c (s.queue r).waiting, occupancy := (s.queue r).occupancy + 1
        entered := (s.queue r).entered + 1 }
    else s.queue r := by
  unfold overflowMove
  by_cases hr : r = q
  · subst hr
    simp [hne.symm]
  · by_cases ht : r = (s.queue q).settings.target
    · subst ht
      simp [hne, Queue.landed]
      exact insertByKeys_congr (fun d => by simp) ..
    · simp [hr, ht]

theorem events_overflowMove : (s.overflowMove c q).events =
    (s.post .call .overflowed (some c) none (some (s.queue q).settings.target) q).events := by
  unfold overflowMove
  simp only [events_addTrigger]
  exact events_post_congr (by simp) (by simp) (by simp) (by simp) ..

theorem workList_overflowMove : (s.overflowMove c q).engine.workList = withTrigger s.engine.workList (.call c) := by
  unfold overflowMove
  simp [withTrigger]

theorem overflowMove_frame : Changes (posting ++ [.calls, .queues, .workList]) s (s.overflowMove c q) := by
  unfold overflowMove
  simp (maxDischargeDepth := 40) [Changes.refl, posting]

@[simp] theorem deadlines_overflowMove : (s.overflowMove c q).deadlines = s.deadlines :=
  (overflowMove_frame s c q).keeps .deadlines (by decide)

end

/-! ### The overflow after the maximum wait (R24) -/

section
variable {u before : State} {q : Nat} {m : Option Tick}

theorem WaitSeen.queue (hu : WaitSeen s u before c m) (r : Nat) : u.queue r = s.queue r := by
  unfold State.queue
  rw [hu.frame.keeps .queues (by decide)]

theorem WaitSeen.tick (hu : WaitSeen s u before c m) : u.tick = s.tick :=
  congrArg TimeBase.tick (hu.frame.keeps .time (by decide))

theorem WaitSeen.events_post (hu : WaitSeen s u before c m) (cls : EventClass) (kind : EventKind)
    (call agent target : Option Nat) (detail : Nat) :
    (u.post cls kind call agent target detail).events = (before.post cls kind call agent target detail).events :=
  events_post_congr hu.events
    (congrArg PartConfig.enables ((hu.frame.keeps .config (by decide)).trans (hu.told.keeps .config (by decide)).symm))
    ((hu.frame.keeps .proposal (by decide)).2.trans (hu.told.keeps .proposal (by decide)).2.symm)
    (hu.tick.trans (congrArg TimeBase.tick (hu.told.keeps .time (by decide))).symm) ..

/-- The maximum wait is no key of the waiting lists (R36). -/
theorem WaitSeen.insertByKeys (hu : WaitSeen s u before c m) (l : List Nat) :
    u.insertByKeys c l = s.insertByKeys c l := by
  refine insertByKeys_congr (fun d => ?_) ..
  by_cases hd : d = c
  · rw [hd, hu.call]; exact ⟨rfl, rfl⟩
  · rw [hu.others d hd]; exact ⟨rfl, rfl⟩

/-- An overflow that leaves the call where it waits (R41). -/
theorem overflow_stays (hu : WaitSeen s u before c m) (hq : (s.call c).currentQueue = some q)
    (hstate : (s.call c).state = .queued) (hlate : SlotLate s.tick (s.call c).overflowDue)
    (h : ¬ TimedFor (s.queue q).settings (s.call c).hops ∨ ¬ TakesCall (s.queue (s.queue q).settings.target))
    {o : Option Tick} (hyes : TimedFor (s.queue q).settings (s.call c).hops → o = some (s.tick + 1))
    (hno : ¬ TimedFor (s.queue q).settings (s.call c).hops → o = none) :
    u.handleOverflow c = u.setCall c { s.call c with maxWaitDue := m, overflowDue := o } := by
  obtain ⟨htimed, hnot⟩ := timedOverflow_stays (s := u) (c := c) (q := q) (by rw [hu.call, hq])
    (by rw [hu.queue, hu.queue, hu.call]; exact h)
  rw [hu.queue, hu.call, hu.tick] at htimed
  rw [hu.queue, hu.call] at hnot
  rw [handleOverflow_late (by rw [hu.call, hstate]) (by rw [hu.call, hu.tick]; exact hlate)]
  by_cases ht : TimedFor (s.queue q).settings (s.call c).hops
  · rw [hyes ht]; exact htimed ht
  · rw [hno ht]; exact hnot ht

/-- An overflow that moves the call (R42). -/
theorem overflow_moves (hu : WaitSeen s u before c m) (hq : (s.call c).currentQueue = some q)
    (hstate : (s.call c).state = .queued) (hlate : SlotLate s.tick (s.call c).overflowDue)
    (ht : TimedFor (s.queue q).settings (s.call c).hops) (hg : TakesCall (s.queue (s.queue q).settings.target)) :
    u.handleOverflow c = u.overflowMove c q := by
  rw [handleOverflow_late (by rw [hu.call, hstate]) (by rw [hu.call, hu.tick]; exact hlate)]
  exact timedOverflow_moves (by rw [hu.call, hq]) (by rw [hu.queue, hu.call]; exact ht)
    (by rw [hu.queue, hu.queue]; exact hg)

end

end State

open State in
/-- Settles O39: the order by the key that computes it; a due entry by its slots in R24's order. -/
theorem aDueWaitIsReportedOrOverflows : Obligations.ADueWaitIsReportedOrOverflows := by
  refine ⟨fun s c => ⟨frontDeadline_eq_none s.tick, frontDeadline_split s.tick, deadlineOf_unarmed, deadlineOf_offered,
    fun h => ⟨deadlineOf_idle h, fun k => deadlineOf_maxWait h, fun j => deadlineOf_overflow h⟩⟩, ?_⟩
  intro s d q ha hf hd hstate hq x late told g timed taken
  refine ⟨fun hwait hearly => ?_, fun hlate i before m hcase => ?_⟩
  · have hu := waitTaken_late hstate hq hwait
    have hexec := dueEvent_taken ha hf hd (slotReached_maxWait hstate hwait)
    rw [takeDue_eq, handleOverflow_early (by rw [hu.call, hu.tick]; exact hearly)] at hexec
    refine ⟨_, hexec, ?_, ?_, fun e he => ?_, entryReinserted_refreshed hu.deadlines, ?_⟩
    · simp [hu.call, x]
    · simp only [events_settle, events_refreshDeadline]
      exact hu.events
    · simp [hu.others e he]
    · exact frame_settle (frame_refreshDeadline (hu.frame.mono (by decide)) _ (by decide)) (by decide)
  · obtain ⟨hexec, hu⟩ : exec i s = .next (s.takeDue d.call).settle ∧ WaitSeen s (s.waitTaken d.call) before d.call m := by
      have hoverflow := dueEvent_taken ha hf hd (slotReached_overflow hstate hlate)
      rcases hcase with ⟨hearly, rfl, rfl, rfl⟩ | ⟨hwait, hi, rfl, rfl⟩
      · exact ⟨hoverflow, waitTaken_early hstate hearly⟩
      · have hu := waitTaken_late hstate hq hwait
        rcases hi with rfl | rfl
        · exact ⟨hoverflow, hu⟩
        · exact ⟨dueEvent_taken ha hf hd (slotReached_maxWait hstate hwait), hu⟩
    generalize hw : s.waitTaken d.call = u at hu
    rw [takeDue_eq, hw] at hexec
    refine ⟨fun hstays => ?_, fun ht hg hne => ?_⟩
    · rw [overflow_stays hu hq hstate hlate hstays (o := if timed then some (s.tick + 1) else none) (fun ht => if_pos ht)
        fun ht => if_neg ht] at hexec
      refine ⟨_, hexec, ?_, ?_, fun e he => ?_, entryReinserted_refreshed (by simpa using hu.deadlines), ?_⟩
      · simp [x, g, timed]
      · simp [hu.events]
      · simp [hu.others e he, he]
      · exact frame_settle (frame_refreshDeadline (frame_setCall (hu.frame.mono (by decide)) _ _ (by decide)) _ (by decide))
          (by decide)
    · rw [overflow_moves hu hq hstate hlate ht hg] at hexec
      have hneu : (u.queue q).settings.target ≠ q := by rw [hu.queue]; exact hne
      have hmoved := queue_overflowMove u d.call q hneu
      have hkeys (l : List Nat) : u.insertByKeys d.call l = s.insertByKeys d.call l := hu.insertByKeys l
      have hcall := call_overflowMove u d.call q hneu
      refine ⟨_, hexec, ?_, ?_, ?_, fun r hr hr' => ?_, ?_, ?_, fun e he => ?_,
        entryReinserted_refreshed (by simpa using hu.deadlines), ?_⟩
      · simp [hcall, hu.queue, hu.call, hu.tick, Call.enterSlots, Config.maxHops, x, g]
      · simp [hmoved, hu.queue]
      · simp only [queue_settle, queue_refreshDeadline, hmoved, hu.queue, if_neg hne, if_true, hkeys, g]
      · simp only [queue_settle, queue_refreshDeadline, hmoved, hu.queue, if_neg hr, if_neg hr', g]
      · simp only [events_settle, events_refreshDeadline, events_overflowMove, hu.queue]
        exact hu.events_post ..
      · rw [engine_settle, engine_refreshDeadline, workList_overflowMove,
          show u.engine.workList = _ from hu.frame.keeps .workList (by decide)]
      · simp [hcall, he, hu.others e he]
      · exact frame_settle (frame_refreshDeadline ((hu.frame.mono (by decide)).trans
          ((overflowMove_frame ..).mono (by decide))) _ (by decide)) (by decide)

end Sys2Proof.Machine
end

section
/-! SUPPORT. The commit of a proposal: the offer made, or the proposal ended (03 R73 to R75). -/

namespace Sys2Proof.Machine

/-- OFFERED counts no longer among the available, and still among the staffed (R47, R62). -/
theorem recount_available_offered (q : Queue) : q.recount .available .offered = { q with available := q.available - 1 } := rfl

namespace State

variable (s : State) (p : Proposal)

/-! ### The checks (R73, R75) -/

theorem commitHolds_iff : s.commitHolds p = true ↔
    ((s.call p.call).state = .queued ∧ (s.call p.call).currentQueue = some p.queue ∧
        (s.queue p.queue).waiting.head? = some p.call) ∧
      (s.agent p.agent).state = .available ∧ ∃ k ∈ (s.agent p.agent).skills, k.queue = p.queue := by
  simp [commitHolds, Agent.names, and_assoc]

theorem stillQualifies_iff (g : Trigger) : s.stillQualifies g = true ↔
    (∃ c, g = .call c ∧ (s.call c).state = .queued) ∨ ∃ a, g = .agent a ∧ (s.agent a).state = .available := by
  cases g <;> simp [stillQualifies]

/-! ### The trigger put back (R74) -/

theorem requeue_call {c : Nat} (ht : p.trigger = .call c) (hc : c ≠ p.call) (hs : (s.call c).state = .queued) :
    s.requeue p = s.addTrigger (.call c) := by
  unfold requeue; simp [ht, hc, hs]

theorem requeue_none (h : ∀ c, p.trigger = .call c → c = p.call ∨ (s.call c).state ≠ .queued) : s.requeue p = s := by
  unfold requeue
  cases ht : p.trigger with
  | call c => exact if_neg fun ⟨hc, hs⟩ => (h c ht).elim hc (· hs)
  | agent a => rfl
  | queue q => rfl

theorem requeue_eq : s.requeue p = s ∨ ∃ g, s.requeue p = s.addTrigger g := by
  unfold requeue
  split
  · split
    · exact .inr ⟨_, rfl⟩
    · exact .inl rfl
  · exact .inl rfl
  · exact .inl rfl

@[simp] theorem call_requeue (c : Nat) : (s.requeue p).call c = s.call c := by
  rcases requeue_eq s p with h | ⟨g, h⟩ <;> simp [h]
@[simp] theorem agent_requeue (a : Nat) : (s.requeue p).agent a = s.agent a := by
  rcases requeue_eq s p with h | ⟨g, h⟩ <;> simp [h]
@[simp] theorem queue_requeue (q : Nat) : (s.requeue p).queue q = s.queue q := by
  rcases requeue_eq s p with h | ⟨g, h⟩ <;> simp [h]
@[simp] theorem events_requeue : (s.requeue p).events = s.events := by
  rcases requeue_eq s p with h | ⟨g, h⟩ <;> simp [h]
@[simp] theorem deadlines_requeue : (s.requeue p).deadlines = s.deadlines := by
  rcases requeue_eq s p with h | ⟨g, h⟩ <;> simp [h]
@[simp] theorem tick_requeue : (s.requeue p).tick = s.tick := by
  rcases requeue_eq s p with h | ⟨g, h⟩ <;> simp [h]
@[simp] theorem proposal_requeue : (s.requeue p).engine.proposal = s.engine.proposal := by
  rcases requeue_eq s p with h | ⟨g, h⟩ <;> simp [h]
@[simp] theorem reserved_requeue : (s.requeue p).engine.reserved = s.engine.reserved := by
  rcases requeue_eq s p with h | ⟨g, h⟩ <;> simp [h]

theorem frame_requeue {cs : List Component} {r : State} (h : Changes cs r s) (hw : .workList ∈ cs) :
    Changes cs r (s.requeue p) := by
  rcases requeue_eq s p with he | ⟨g, he⟩
  · rw [he]; exact h
  · rw [he]; exact frame_addTrigger h _ hw

/-! ### The offer (R74) -/

/-- An OFFER joins the dispatch queue and sets its summary, and nothing else of the events changes (R69, R159). -/
theorem postOffer_frame (c a q n : Nat) : Changes [.dispatch, .sequence, .summaries] s (s.postOffer c a q n) := by
  constructor; intro k hk
  unfold postOffer EventUnit.append
  cases k <;> simp_all [Component.agree]

/-- The call's part of a commit: out of its list, OFFERED, and its deadline entry following (R74). -/
def offerCall : State :=
  ((s.leaveWaiting p.queue p.call).setCall p.call
    ((s.call p.call).offeredTo p.agent (s.queue p.queue).settings.offerTimeout s.tick)).refreshDeadline p.call

/-- A commit's offer made, before a call trigger it served is put back (R74). -/
def offer : State :=
  ((((s.offerCall p).setAgent p.agent { (s.offerCall p).agent p.agent with currentCall := some p.call }).moveAgent p.agent
    .offered).postOffer p.call p.agent p.queue (min ((s.call p.call).attempts + 1) 255)).endProposal

theorem makeOffer_eq : s.makeOffer p = (s.offer p).requeue p := by
  unfold makeOffer offer offerCall
  simp [Call.offeredTo]

theorem call_offer (c : Nat) : (s.offer p).call c =
    if c = p.call then
      (s.call p.call).offeredTo p.agent (s.queue p.queue).settings.offerTimeout s.tick
    else s.call c := by
  unfold offer offerCall; simp

theorem agent_offer (a : Nat) : (s.offer p).agent a =
    if a = p.agent then
      { s.agent p.agent with state := .offered, currentCall := some p.call, stateEntry := s.tick }
    else s.agent a := by
  unfold offer offerCall
  by_cases h : a = p.agent <;> simp [h]

theorem queue_offer (ha : (s.agent p.agent).state = .available) (hd : duplicateSkill (s.agent p.agent).skills = false)
    (r : Nat) : (s.offer p).queue r =
      { s.queue r with
        waiting := if r = p.queue then (s.queue r).waiting.filter (· != p.call) else (s.queue r).waiting
        available := if (s.agent p.agent).names r then (s.queue r).available - 1 else (s.queue r).available } := by
  unfold offer offerCall
  simp only [queue_endProposal, queue_postOffer]
  rw [queue_moveAgent _ _ _ (by simpa using hd)]
  simp only [agent_setAgent, if_true, agent_refreshDeadline, agent_setCall, agent_leaveWaiting, queue_setAgent,
    queue_refreshDeadline, queue_setCall, queue_leaveWaiting, ha, recount_available_offered]
  change (if (s.agent p.agent).names r = true then _ else _) = _
  by_cases hq : r = p.queue
  · subst hq; simp only [if_true]; split <;> rfl
  · simp only [if_neg hq]; split <;> rfl

theorem events_offer : (s.offer p).events =
    { s.events with
      dispatch := s.events.dispatch ++
        [{ sequence := nextSequence s.events.sequence, cls := .dispatch, kind := .offer, call := some p.call
           agent := some p.agent, target := some p.queue, detail := min ((s.call p.call).attempts + 1) 255, tick := s.tick }]
      sequence := nextSequence s.events.sequence, summaries := { s.events.summaries with dispatch := true } } := by
  unfold offer offerCall postOffer EventUnit.append
  simp [Summaries.set]

theorem offer_frame : Changes [.calls, .agents, .queues, .deadlines, .proposal, .dispatch, .sequence, .summaries] s
    (s.offer p) := by
  unfold offer offerCall
  refine frame_endProposal (.trans ?_ ((postOffer_frame ..).mono (by decide))) (by decide)
  simp (maxDischargeDepth := 40) [Changes.refl]

@[simp] theorem engine_offer : (s.offer p).engine = { s.engine with proposal := none, reserved := false } := by
  unfold offer offerCall
  simp

theorem entryFollows_offer : EntryFollows p.call s (s.offer p) := by
  have hcall : EntryFollows p.call s (s.offerCall p) := entryFollows_refreshDeadline (by simp)
  unfold offer
  exact entryFollows_congr hcall (by simp) (by simp) (by simp)

end State

open State in
/-- Settles O45: the offer's acts one by one where the three conditions hold, else the proposal's end. -/
theorem commitsMakeTheOffer : Obligations.CommitsMakeTheOffer := by
  intro s p ha hp x g holds
  have hexec : exec .commit s = .next (if s.commitHolds p then s.makeOffer p else s.failCommit p).settle := by
    show execCommit s = _
    unfold execCommit
    rw [event_awake _ ha, hp]
  refine ⟨fun hholds hskills => ?_, fun hfails => ?_⟩
  · intro n tries timeout
    rw [if_pos ((commitHolds_iff s p).mpr hholds), makeOffer_eq] at hexec
    obtain ⟨-, havailable, -⟩ := hholds
    refine ⟨_, hexec, ?_, ?_, fun r => ?_, ?_, ?_, ?_, ?_, ?_, fun c ht hc hs => ?_, fun hother => ?_, ?_, fun c hc => ?_,
      fun a ha => ?_, ?_⟩
    · simp [call_offer, Call.offeredTo, x, tries, timeout]
    · simp [agent_offer, g]
    · simp [queue_offer s p havailable hskills, g]
    · simp [events_offer, nextSequence, n, tries, x]
    · simp [events_offer, nextSequence, n]
    · simp [events_offer]
    · simp
    · simp
    · rw [engine_settle, requeue_call _ _ ht hc (by rw [call_offer, if_neg hc, hs])]
      simp [withTrigger]
    · rw [engine_settle, requeue_none _ _ fun c ht => ?_]
      · simp
      · by_cases hc : c = p.call
        · exact .inl hc
        · rw [call_offer, if_neg hc]; exact hother c ht
    · exact entryFollows_congr (entryFollows_offer s p) (by simp) (by simp) (by simp)
    · simp [call_offer, hc]
    · simp [agent_offer, ha]
    · exact frame_settle (frame_requeue _ _ ((offer_frame s p).mono (by decide)) (by decide)) (by decide)
  · rw [if_neg (mt (commitHolds_iff s p).mp hfails)] at hexec
    unfold failCommit at hexec
    by_cases hq : s.stillQualifies p.trigger = true
    · rw [if_pos hq] at hexec
      refine ⟨_, hexec, by simp, by simp, fun _ => ?_, fun hnot => ?_, ?_⟩
      · rw [engine_settle, workList_addTrigger]; rfl
      · exact absurd ((stillQualifies_iff ..).mp hq) hnot
      · simp (maxDischargeDepth := 40) [Changes.refl]
    · rw [if_neg hq] at hexec
      refine ⟨_, hexec, by simp, by simp, fun hyes => absurd ((stillQualifies_iff ..).mpr hyes) hq, fun _ => by simp, ?_⟩
      simp (maxDischargeDepth := 40) [Changes.refl]

end Sys2Proof.Machine
end

section
/-! SUPPORT. The queue commands: what their bodies answer in each state of the queue, and R28's table of settings (02 R28,
R30 to R35). -/

namespace Sys2Proof.Machine

variable {s : State} {e : IntakeEntry}

/-! ### A queue command that reaches the Queue Unit -/

/-- The queue of an entry just handed over: one entry fewer is pending (R148). -/
theorem ownQueue_handed (hk : e.kind = .queue) : (s.dropEntry e).queue e.index =
    { s.queue e.index with pendingCount := (s.queue e.index).pendingCount - 1 } := by simp [hk]

theorem queueState_handed (q : Nat) : ((s.dropEntry e).queue q).state = (s.queue q).state := by
  rw [queue_dropEntry]; split <;> rfl

/-- A record command whose body answers a result and leaves the state it was handed (R150). -/
theorem recordCommand_refused {kind : RecordKind} {code : Byte} {body : IntakeEntry → State → ResultCode × State}
    {r : ResultCode} (h : Taken s e kind code) (hb : body e (s.dropEntry e) = (r, s.dropEntry e)) :
    ∃ t, recordCommand kind code body s = .next t ∧ OnlyAnswered s t e (e.answer r) := by
  refine ⟨_, recordCommand_taken h body, ?_⟩
  rw [hb, ← resultOf_word h.1.commandWord]
  exact onlyAnswered s e r

/-- A queue command whose body leaves the other queues alone: its result is written in its own queue (R150). -/
theorem queueCommand_taken {cs : List Component} {code : Byte} {body : IntakeEntry → State → ResultCode × State}
    {r : ResultCode} {u : State} (h : Taken s e .queue code) (hb : body e (s.dropEntry e) = (r, u))
    (hothers : QueuesBut e.index (s.dropEntry e) u) (hintake : u.intake = s.intake.tail) (hframe : Changes cs s u)
    (hqueues : .queues ∈ cs) (hcount : .passCount ∈ cs) :
    ∃ t, recordCommand .queue code body s = .next t ∧ t.queue e.index = { u.queue e.index with result := e.answer r } ∧
      t.engine = u.engine ∧ t.intake = s.intake.tail ∧ QueuesBut e.index s t ∧ Changes cs s t := by
  refine ⟨_, recordCommand_taken h body, ?_⟩
  rw [hb, writeResult_queue h.1.kind, resultOf_word h.1.commandWord]
  refine ⟨by simp, by simp, by simp [hintake], fun d hd => ?_,
    frame_settle (frame_setQueue hframe _ _ hqueues) hcount⟩
  simpa [hd] using hothers d hd

/-- As `queueCommand_taken`, for a body that sets its own queue and nothing else. -/
theorem queueCommand_sets {code : Byte} {body : IntakeEntry → State → ResultCode × State} {r : ResultCode} {x : Queue}
    (h : Taken s e .queue code) (hb : body e (s.dropEntry e) = (r, (s.dropEntry e).setQueue e.index x)) :
    ∃ t, recordCommand .queue code body s = .next t ∧ t.queue e.index = { x with result := e.answer r } ∧
      t.intake = s.intake.tail ∧ QueuesBut e.index s t ∧ Changes [.intake, .queues, .passCount] s t := by
  have hframe : Changes [.intake, .queues, .passCount] s ((s.dropEntry e).setQueue e.index x) :=
    frame_setQueue (frame_dropEntry_queue (.refl _ _) h.1.kind (by decide) (by decide)) _ _ (by decide)
  obtain ⟨t, hexec, hown, -, hrest⟩ :=
    queueCommand_taken h hb (fun d hd => by simp [hd]) (by simp) hframe (by decide) (by decide)
  exact ⟨t, hexec, by simpa using hown, hrest⟩

/-- Settles O2: the body sets the five counters of its own queue in whatever state it is. -/
theorem resetCountersStartsANewPeriod : Obligations.ResetCountersStartsANewPeriod := by
  intro s e ht
  obtain ⟨t, hexec, hown, hrest⟩ := queueCommand_sets (body := resetCountersBody) ht rfl
  refine ⟨t, hexec, ?_, hrest⟩
  rw [hown, ownQueue_handed ht.1.kind]
  rfl

/-! ### R28's table -/

theorem programInRange_iff {p : Nat} : programInRange p = true ↔ p < 64 ∨ p = 255 := by
  unfold programInRange Config.numPrograms
  rw [Bool.or_eq_true, decide_eq_true_eq, beq_iff_eq]

/-- Every field of a queue's snapshot is in R28's table, with the bytes at R168's places. -/
def SettingsInRange (q : Nat) (ws : List Word) : Prop :=
  1 ≤ halfField ws 0x00 ∧ halfField ws 0x00 ≤ 2048 ∧ byteField ws 0x02 ≤ 7 ∧ byteField ws 0x03 ≤ 7 ∧
    (byteField ws 0x04 < 64 ∨ byteField ws 0x04 = 255) ∧ (byteField ws 0x05 < 64 ∨ byteField ws 0x05 = 255) ∧
    byteField ws 0x06 ≤ 3 ∧ (byteField ws 0x07 < 64 ∧ byteField ws 0x07 ≠ q ∨ byteField ws 0x07 = 255)

/-- The settings at R168's places, with the overflow mode already decoded. -/
def settingsOf (ws : List Word) (mode : OverflowMode) : QueueSettings where
  capacity := halfField ws 0x00
  arbitration := byteField ws 0x02
  shift := byteField ws 0x03
  queueProgram := byteField ws 0x04
  holdProgram := byteField ws 0x05
  mode := mode
  target := byteField ws 0x07
  offerTimeout := halfField ws 0x08
  overflowAfter := halfField ws 0x0A
  threshold := halfField ws 0x0C
  maxWait := halfField ws 0x0E
  wrapLength := halfField ws 0x10
  serviceLevel := halfField ws 0x12
  seed := halfField ws 0x14
  upper := halfField ws 0x18
  lower := halfField ws 0x1A

theorem overflowModeOf_eq_some {n : Nat} {mode : OverflowMode} :
    overflowModeOf n = some mode ↔ (n, mode) ∈ [(0, OverflowMode.none), (1, .time), (2, .ewt), (3, .both)] := by
  unfold overflowModeOf
  split <;> simp_all [eq_comm]

theorem overflowModeOf_eq_none {n : Nat} : overflowModeOf n = none ↔ 3 < n := by
  unfold overflowModeOf
  split <;> simp_all
  omega

theorem queueSettings_of_mode {q : Nat} {ws : List Word} {mode : OverflowMode}
    (hm : overflowModeOf (byteField ws 0x06) = some mode) :
    (SettingsInRange q ws → queueSettings q ws = some (settingsOf ws mode)) ∧
      (¬ SettingsInRange q ws → queueSettings q ws = none) := by
  have hcode : byteField ws 0x06 ≤ 3 := Nat.le_of_not_lt fun h => by
    rw [overflowModeOf_eq_none.2 h] at hm
    cases hm
  unfold queueSettings SettingsInRange Config.numQueues
  simp only [hm, Bool.and_eq_true, Bool.or_eq_true, decide_eq_true_eq, programInRange_iff, bne_iff_ne, beq_iff_eq,
    hcode, true_and, and_assoc]
  exact ⟨fun h => if_pos h, fun h => if_neg h⟩

theorem queueSettings_eq_none_iff {q : Nat} {ws : List Word} : queueSettings q ws = none ↔ ¬ SettingsInRange q ws := by
  cases hm : overflowModeOf (byteField ws 0x06) with
  | none =>
    have hcode := overflowModeOf_eq_none.1 hm
    have hnone : queueSettings q ws = none := by unfold queueSettings; rw [hm]
    have hout : ¬ SettingsInRange q ws := by unfold SettingsInRange; omega
    exact iff_of_true hnone hout
  | some mode =>
    obtain ⟨hin, hout⟩ := queueSettings_of_mode (q := q) hm
    refine ⟨fun hnone h => ?_, hout⟩
    rw [hin h] at hnone
    cases hnone

/-! ### The latch and its clamps (R28) -/

theorem clampResult_eq (g : QueueSettings) (n : Nat) : clampResult g n =
    if g.capacity < n ∨ (g.upper ≠ 0 ∧ g.upper ≤ g.lower) then .okClamped else .ok := by
  have hcapacity : max g.capacity n = g.capacity ↔ ¬ g.capacity < n := by omega
  have hlower : (if g.upper ≠ 0 ∧ g.upper ≤ g.lower then g.upper - 1 else g.lower) = g.lower ↔
      ¬ (g.upper ≠ 0 ∧ g.upper ≤ g.lower) := by
    split <;> omega
  have hsame : g.clamp n = g ↔ ¬ (g.capacity < n ∨ (g.upper ≠ 0 ∧ g.upper ≤ g.lower)) := by
    rw [not_or, ← hcapacity, ← hlower]
    unfold QueueSettings.clamp
    constructor
    · intro h
      exact ⟨congrArg QueueSettings.capacity h, congrArg QueueSettings.lower h⟩
    · rintro ⟨hc, hl⟩
      rw [hc, hl]
  unfold clampResult
  simp only [hsame, ite_not]

/-- A queue that OPEN has latched: `mark` is its own count of the ticks taken (R31, R96; log 4). -/
def Queue.opened (q : Queue) (g : QueueSettings) (mark : Tick) : Queue :=
  { q.latch g with
    state := .open, handle := if q.state = .idle then 16 * g.seed else q.handle, ticksTaken := mark }

/-! ### What each body answers (R30 to R34) -/

theorem openBody_wrongState (h : (s.queue e.index).state = .open) : openBody e s = (.wrongState, s) := if_pos h

theorem openBody_badField (h : (s.queue e.index).state ≠ .open) (hg : queueSettings e.index e.snapshot = none) :
    openBody e s = (.badField, s) := by
  unfold openBody; simp only [h, if_false, hg]

theorem openBody_latches {g : QueueSettings} (h : (s.queue e.index).state ≠ .open)
    (hg : queueSettings e.index e.snapshot = some g) :
    ∃ mark, openBody e s =
      (clampResult g (s.queue e.index).occupancy, s.setQueue e.index ((s.queue e.index).opened g mark)) := by
  unfold openBody; simp only [h, if_false, hg]
  exact ⟨_, rfl⟩

theorem applyBody_wrongState (h : (s.queue e.index).state = .idle) : applyBody e s = (.wrongState, s) := if_pos h

theorem applyBody_badField (h : (s.queue e.index).state ≠ .idle) (hg : queueSettings e.index e.snapshot = none) :
    applyBody e s = (.badField, s) := by
  unfold applyBody; simp only [h, if_false, hg]

theorem applyBody_latches {g : QueueSettings} (h : (s.queue e.index).state ≠ .idle)
    (hg : queueSettings e.index e.snapshot = some g) :
    applyBody e s =
      (clampResult g (s.queue e.index).occupancy, s.setQueue e.index ((s.queue e.index).latch g)) := by
  unfold applyBody; simp only [h, if_false, hg]

theorem closeBody_wrongState (h : (s.queue e.index).state = .idle) : closeBody e s = (.wrongState, s) := if_pos h

theorem closeBody_closes (h : (s.queue e.index).state ≠ .idle) :
    closeBody e s = (.ok, s.setQueue e.index { s.queue e.index with state := .closed }) := if_neg h

theorem pauseBody_wrongState (h : (s.queue e.index).state = .idle) : pauseBody e s = (.wrongState, s) := if_pos h

theorem pauseBody_pauses (h : (s.queue e.index).state ≠ .idle) :
    pauseBody e s = (.ok, s.setQueue e.index { s.queue e.index with paused := true }) := if_neg h

theorem unpauseBody_wrongState (h : (s.queue e.index).state = .idle) : unpauseBody e s = (.wrongState, s) := if_pos h

theorem unpauseBody_clears (h : (s.queue e.index).state ≠ .idle) (hp : (s.queue e.index).paused = true) :
    unpauseBody e s =
      (.ok, (s.setQueue e.index { s.queue e.index with paused := false }).addTrigger (.queue e.index)) := by
  unfold unpauseBody; rw [if_neg h, if_pos hp]

theorem unpauseBody_unpaused (h : (s.queue e.index).state ≠ .idle) (hp : (s.queue e.index).paused = false) :
    unpauseBody e s = (.ok, s) := by
  unfold unpauseBody; rw [if_neg h, if_neg (by simp [hp])]

/-! ### The commands -/

/-- CLOSE, PAUSE, UNPAUSE and APPLY of an IDLE queue (R30). -/
theorem idleQueue_refuses {i : Instr} {code : Byte}
    (hi : (i, code) ∈ [(Instr.closeQueue, 2), (.pauseQueue, 3), (.unpauseQueue, 4), (.applyQueue, (5 : Byte))])
    (ht : Taken s e .queue code) (h : (s.queue e.index).state = .idle) :
    ∃ t, exec i s = .next t ∧ OnlyAnswered s t e (e.answer .wrongState) := by
  have hidle : ((s.dropEntry e).queue e.index).state = .idle := by rw [queueState_handed, h]
  simp only [List.mem_cons, Prod.mk.injEq, List.not_mem_nil, or_false] at hi
  rcases hi with ⟨rfl, rfl⟩ | ⟨rfl, rfl⟩ | ⟨rfl, rfl⟩ | ⟨rfl, rfl⟩
  · exact recordCommand_refused ht (closeBody_wrongState hidle)
  · exact recordCommand_refused ht (pauseBody_wrongState hidle)
  · exact recordCommand_refused ht (unpauseBody_wrongState hidle)
  · exact recordCommand_refused ht (applyBody_wrongState hidle)

/-- UNPAUSE of a queue that is not IDLE, by its flag: a set one is cleared with a queue trigger (R33, R66). -/
theorem unpause_taken (ht : Taken s e .queue 4) (h : (s.queue e.index).state ≠ .idle) :
    ∃ t, exec .unpauseQueue s = .next t ∧
      t.queue e.index = { (s.queue e.index).done (e.answer .ok) with paused := false } ∧
      t.engine.workList =
        (if (s.queue e.index).paused = true ∧ Trigger.queue e.index ∉ s.engine.workList then
          s.engine.workList ++ [.queue e.index] else s.engine.workList) ∧
      t.intake = s.intake.tail ∧ QueuesBut e.index s t ∧ Changes [.intake, .queues, .workList, .passCount] s t := by
  have hk := ht.1.kind
  have hstate : ((s.dropEntry e).queue e.index).state ≠ .idle := by rwa [queueState_handed]
  have hdropped : Changes [.intake, .queues, .workList, .passCount] s (s.dropEntry e) :=
    frame_dropEntry_queue (.refl _ _) hk (by decide) (by decide)
  cases hp : (s.queue e.index).paused with
  | true =>
    have hpaused : ((s.dropEntry e).queue e.index).paused = true := by rw [ownQueue_handed hk]; exact hp
    obtain ⟨t, hexec, hown, hengine, hrest⟩ :=
      queueCommand_taken (cs := [.intake, .queues, .workList, .passCount]) ht (unpauseBody_clears hstate hpaused)
        (fun d hd => by simp [hd]) (by simp) (frame_addTrigger (frame_setQueue hdropped _ _ (by decide)) _ (by decide))
        (by decide) (by decide)
    refine ⟨t, hexec, ?_, ?_, hrest⟩
    · rw [hown]; simp [hk, Queue.done]
    · rw [hengine]; simp [State.workList_addTrigger]
  | false =>
    have hpaused : ((s.dropEntry e).queue e.index).paused = false := by rw [ownQueue_handed hk]; exact hp
    obtain ⟨t, hexec, hown, hengine, hrest⟩ :=
      queueCommand_taken ht (unpauseBody_unpaused hstate hpaused) (fun d _ => rfl) (by simp) hdropped (by decide)
        (by decide)
    refine ⟨t, hexec, ?_, ?_, hrest⟩
    · rw [hown, ownQueue_handed hk]; simp [Queue.done, hp]
    · rw [hengine]; simp

/-- Settles O1: R28's table by its range, and each command by what its body answers in the queue's state. -/
theorem queueCommandsSetStateAndSettings : Obligations.QueueCommandsSetStateAndSettings := by
  refine ⟨⟨fun q ws => ⟨queueSettings_eq_none_iff, fun mode hm hin => ?_⟩, fun s e => ?_⟩, fun s e hs => ?_⟩
  · exact (queueSettings_of_mode (overflowModeOf_eq_some.2 hm)).1 hin
  · have hstate : ((s.dropEntry e).queue e.index).state = (s.queue e.index).state := queueState_handed e.index
    refine ⟨fun ht hs g hg => ?_, fun ht hs g hg => ?_, fun ht hs hg => ?_, fun ht hs hg => ?_, fun ht hs => ?_,
      fun i code hi ht hs => idleQueue_refuses hi ht hs⟩
    · obtain ⟨mark, hbody⟩ := openBody_latches (s := s.dropEntry e) (by rwa [hstate]) hg
      obtain ⟨t, hexec, hown, hrest⟩ := queueCommand_sets ht hbody
      refine ⟨t, mark, hexec, ?_, hrest⟩
      rw [hown, ownQueue_handed ht.1.kind, clampResult_eq]
      rfl
    · obtain ⟨t, hexec, hown, hrest⟩ := queueCommand_sets ht (applyBody_latches (by rwa [hstate]) hg)
      refine ⟨t, hexec, ?_, hrest⟩
      rw [hown, ownQueue_handed ht.1.kind, clampResult_eq]
      rfl
    · exact recordCommand_refused ht (openBody_badField (by rwa [hstate]) hg)
    · exact recordCommand_refused ht (applyBody_badField (by rwa [hstate]) hg)
    · exact recordCommand_refused ht (openBody_wrongState (by rwa [hstate]))
  · have hstate : ((s.dropEntry e).queue e.index).state ≠ .idle := by rwa [queueState_handed]
    refine ⟨fun ht => ?_, fun ht => ?_, fun ht => unpause_taken ht hs⟩
    · obtain ⟨t, hexec, hown, hrest⟩ := queueCommand_sets ht (closeBody_closes hstate)
      refine ⟨t, hexec, ?_, hrest⟩
      rw [hown, ownQueue_handed ht.1.kind]
      rfl
    · obtain ⟨t, hexec, hown, hrest⟩ := queueCommand_sets ht (pauseBody_pauses hstate)
      refine ⟨t, hexec, ?_, hrest⟩
      rw [hown, ownQueue_handed ht.1.kind]
      rfl

end Sys2Proof.Machine
end

section
/-! SUPPORT. What a command can answer: a next state, or the stop of one that names a record the part does not have (log
30). -/

namespace Sys2Proof.Machine

/-- The record number of a command that names a record the part does not have (R26, R46, R108, R135). -/
def absentRecord : Instr → Option Nat
  | .agentTick n | .wrapCountdownEnd n => if Config.numAgents ≤ n then some n else none
  | .ewtRepublish n => if Config.numQueues ≤ n then some n else none
  | .generatedGroup n | .interjectionTick n | .interjection n => if Config.numContexts ≤ n then some n else none
  | .feedArmingTick n | .armingRestart n | .feedArmed n | .feedMissing n =>
    if Config.numFeeds ≤ n then some n else none
  | _ => none

theorem exists_next_event (s : State) (f : State → State) : ∃ t, event s f = .next t := by
  unfold event
  split
  · exact ⟨_, rfl⟩
  · exact ⟨_, rfl⟩

theorem exists_next_recordCommand (kind : RecordKind) (code : Byte) (body : IntakeEntry → State → ResultCode × State)
    (s : State) : ∃ t, recordCommand kind code body s = .next t := by
  unfold recordCommand
  exact exists_next_event ..

theorem exists_next_partCommand (code : Byte) (allowed : PartState → Bool) (body : IntakeEntry → State → State)
    (s : State) : ∃ t, partCommand code allowed body s = .next t := by
  unfold partCommand
  exact exists_next_event ..

theorem exists_next_dueEvent (kind : DeadlineKind) (s : State) : ∃ t, dueEvent kind s = .next t := by
  unfold dueEvent
  exact exists_next_event ..

theorem exists_next_beatEvent (b : Beat) (s : State) : ∃ t, beatEvent b s = .next t := by
  unfold beatEvent
  split
  · exact ⟨_, rfl⟩
  · exact exists_next_event ..

theorem exists_next_reset (s : State) : ∃ t, execReset s = .next t := by
  unfold execReset
  split
  · exact ⟨_, rfl⟩
  · exact ⟨_, rfl⟩

theorem exists_next_resetRelease (straps : BitVec 4) (s : State) : ∃ t, execResetRelease straps s = .next t := by
  unfold execResetRelease
  split
  · exact ⟨_, rfl⟩
  · exact ⟨_, rfl⟩

theorem exists_next_passThroughBeatGrant (s : State) : ∃ t, execPassThroughBeatGrant s = .next t := by
  unfold execPassThroughBeatGrant
  split
  · exact ⟨_, rfl⟩
  · split
    · exact ⟨_, rfl⟩
    · split
      · exact ⟨_, rfl⟩
      · exact ⟨_, rfl⟩

/-- A command that names a record by number is one event, and stops when the part has no record of the number. -/
def StopsFrom (count n : Nat) (o : Outcome) : Prop :=
  (count ≤ n → o = .fault (.noSuchRecord n)) ∧ (n < count → ∃ t, o = .next t)

theorem stopsFrom_event (count n : Nat) (s : State) (f : State → State) :
    StopsFrom count n (if count ≤ n then .fault (.noSuchRecord n) else event s f) := by
  refine ⟨fun h => if_pos h, fun h => ?_⟩
  rw [if_neg (by omega)]
  exact exists_next_event s f

/-- What `StopsFrom` says, by the number of the absent record. -/
theorem StopsFrom.answers {count n : Nat} {o : Outcome} (h : StopsFrom count n o) :
    ((if count ≤ n then some n else none) = none → ∃ t, o = .next t) ∧
      ∀ m, (if count ≤ n then some n else none) = some m → o = .fault (.noSuchRecord m) := by
  obtain ⟨hstop, hnext⟩ := h
  by_cases hn : count ≤ n
  · rw [if_pos hn]
    refine ⟨fun hnone => (by cases hnone), fun m hm => ?_⟩
    cases hm
    exact hstop hn
  · rw [if_neg hn]
    exact ⟨fun _ => hnext (by omega), fun m hm => by cases hm⟩

/-- A command names an absent record and stops, or names none and answers a next state. -/
theorem exec_answers (i : Instr) (s : State) :
    (absentRecord i = none → ∃ t, exec i s = .next t) ∧
      ∀ n, absentRecord i = some n → exec i s = .fault (.noSuchRecord n) := by
  cases i
  case agentTick | wrapCountdownEnd | ewtRepublish | generatedGroup | interjectionTick | interjection | feedArmingTick |
      armingRestart | feedArmed | feedMissing =>
    exact (stopsFrom_event ..).answers
  all_goals refine ⟨fun _ => ?_, fun n hn => by cases hn⟩
  case enqueue | abandon | answer | noAnswer | hold | resume | transfer | release | priority | announce | login | ready |
      notReady | logout | skills | extendWrap | openQueue | closeQueue | pauseQueue | unpauseQueue | applyQueue |
      resetCounters =>
    exact exists_next_recordCommand ..
  case enable | disable | restart | libraryApply | eventPop | summaryClear | feedClear | timebaseClear =>
    exact exists_next_partCommand ..
  case offerExpiry | maxWaitDue | overflowDue => exact exists_next_dueEvent ..
  case commandWordWrite | stagingWrite | feedCountedWrite | voiceRead | eventWindowRead => exact exists_next_beatEvent ..
  case reset => exact exists_next_reset s
  case resetRelease => exact exists_next_resetRelease ..
  case passThroughBeatGrant => exact exists_next_passThroughBeatGrant s
  all_goals
    dsimp only [exec]
    exact exists_next_event ..

theorem absentRecord_eq_some_iff {i : Instr} {n : Nat} : absentRecord i = some n ↔
    1024 ≤ n ∧ (i = .agentTick n ∨ i = .wrapCountdownEnd n) ∨ 64 ≤ n ∧ i = .ewtRepublish n ∨
      512 ≤ n ∧ (i = .generatedGroup n ∨ i = .interjectionTick n ∨ i = .interjection n) ∨
      4 ≤ n ∧ (i = .feedArmingTick n ∨ i = .armingRestart n ∨ i = .feedArmed n ∨ i = .feedMissing n) := by
  have named (count m : Nat) : (if count ≤ m then some m else none) = some n ↔ count ≤ n ∧ m = n := by
    split <;> simp <;> omega
  cases i
  case agentTick | wrapCountdownEnd => simpa [absentRecord, Config.numAgents] using named Config.numAgents _
  case ewtRepublish => simpa [absentRecord, Config.numQueues] using named Config.numQueues _
  case generatedGroup | interjectionTick | interjection =>
    simpa [absentRecord, Config.numContexts] using named Config.numContexts _
  case feedArmingTick | armingRestart | feedArmed | feedMissing =>
    simpa [absentRecord, Config.numFeeds] using named Config.numFeeds _
  all_goals simp [absentRecord]

/-- A well-formed command names no absent record. -/
theorem absentRecord_of_wellFormed {i : Instr} (h : WellFormed i = true) : absentRecord i = none := by
  cases hi : absentRecord i with
  | none => rfl
  | some n =>
    rcases absentRecord_eq_some_iff.1 hi with ⟨hn, rfl | rfl⟩ | ⟨hn, rfl⟩ | ⟨hn, rfl | rfl | rfl⟩ |
        ⟨hn, rfl | rfl | rfl | rfl⟩
    all_goals exact absurd hn (Nat.not_le.2 (of_decide_eq_true h))

/-- Settles O56, by the two answers of `exec_answers`. -/
theorem onlyAbsentRecordsStop : Obligations.OnlyAbsentRecordsStop := by
  intro i s
  obtain ⟨hnext, hstop⟩ := exec_answers i s
  refine ⟨fun h => hnext (absentRecord_of_wellFormed h), fun n => ?_, fun r hr => ?_⟩
  · rw [← absentRecord_eq_some_iff]
    refine ⟨fun hfault => ?_, hstop n⟩
    cases hi : absentRecord i with
    | none =>
      obtain ⟨t, ht⟩ := hnext hi
      rw [ht] at hfault
      cases hfault
    | some m =>
      rw [hstop m hi] at hfault
      cases hfault
      rfl
  · cases hi : absentRecord i with
    | none =>
      obtain ⟨t, ht⟩ := hnext hi
      rw [ht] at hr
      cases hr
    | some m =>
      rw [hstop m hi] at hr
      cases hr

end Sys2Proof.Machine
end

section
/-! SUPPORT. What every step keeps: the capacities, the work list, the clock, the loading reads, the skill lists (each by
`Kept`), and the pass-through count at rest (by the end of every event). -/

namespace Sys2Proof.Machine

variable {s t : State}

/-- A read beat taken forwards it, or answers it after plain updates, or after the event shown is chosen afresh (R146,
R161). -/
theorem takeRead_keeps {I : State → Prop} (touch : ∀ {t}, Touches s t → I t)
    (display : ∀ {t} x, Touches { s with events := { s.events with shown := x } } t → I t)
    (cls : WordClass) (b : ReadBeat) : I (s.takeRead cls b) := by
  have answer (w : Word) : I (s.answerRead w) := touch (touches_answerRead .refl w)
  have forward : I (s.forwardBeat (.read b)) := touch (touches_forwardBeat .refl _)
  unfold State.takeRead
  cases cls with
  | queuePart id w => dsimp only; exact answer _
  | statusWord w => dsimp only; exact answer _
  | eventWord w =>
    dsimp only
    unfold State.readEvent
    split
    · exact display _ (touches_answerRead .refl _)
    · exact answer _
  | callPart id w => dsimp only; split; exact answer _; exact forward
  | agentPart id w => dsimp only; split; exact answer _; exact forward
  | channel id =>
    dsimp only
    cases s.voiceContext b.tag id with
    | none => exact forward
    | some k => exact touch (touches_voiceBeat .refl k b.enables)
  | _ => dsimp only; exact forward

/-- A write beat taken makes an intake entry, or updates staging (R145, R148). -/
theorem takeWrite_keeps {I : State → Prop}
    (enter : ∀ {t} e, s.intake.length < Config.intakeDepth → Touches { s with intake := s.intake ++ [e] } t → I t)
    (stage : ∀ {t} g, Touches { s with staging := g } t → I t)
    (cls : WordClass) (b : WriteBeat) (hroom : cls.command.isSome = true → s.intake.length < Config.intakeDepth) :
    I (s.takeWrite cls b) := by
  cases hc : cls.command with
  | some target =>
    rw [State.takeWrite_command hc]
    exact enter _ (hroom (by rw [hc]; rfl)) (touches_makeEntry target b)
  | none =>
    rw [State.takeWrite_staging hc]
    exact stage _ (touches_stageBeat cls b)

/-- A property that the plain updates keep, and a new intake entry where the intake has room, a staging update and the event
shown keep, stands after an accepted beat (R145, R146, R148). -/
theorem accept_keeps {I : State → Prop} (touch : ∀ {s t}, I s → Touches s t → I t)
    (enter : ∀ {s : State}, I s → s.intake.length < Config.intakeDepth → ∀ e, I { s with intake := s.intake ++ [e] })
    (stage : ∀ {s : State}, I s → ∀ g, I { s with staging := g })
    (display : ∀ {s : State}, I s → ∀ x, I { s with events := { s.events with shown := x } })
    (h : I s) (b : Beat) (hroom : s.mustHold b = false) : I (s.accept b) := by
  cases b with
  | write w =>
    rw [State.accept_write]
    have hfeeds : I (s.trackFeeds w) := touch h (touches_trackFeeds .refl w)
    have hintake : (s.trackFeeds w).intake = s.intake := (touches_trackFeeds .refl w).intake
    refine touch ?_ (touches_forwardBeat .refl _)
    refine takeWrite_keeps (fun e hlt => touch (enter hfeeds hlt e)) (fun g => touch (stage hfeeds g)) _ w fun hc => ?_
    simpa [State.mustHold, hc, hintake] using hroom
  | read r => exact takeRead_keeps (touch h) (fun x => touch (display h x)) (s.classify r.address) r

/-! ### The capacities (R148, R159, R160) and the work list (R66) -/

theorem withinCapacity_offer (p : Proposal) (h : WithinCapacity s) (hp : s.engine.proposal = some p) :
    WithinCapacity (s.offer p) := by
  obtain ⟨hintake, hnotices, hdispatch, hreserved, -⟩ := h
  have hheld : s.engine.reserved = true := by rw [hreserved, hp]; rfl
  have hsame : (s.offer p).intake = s.intake := (State.offer_frame s p).keeps .intake (by decide)
  unfold WithinCapacity
  rw [hsame, State.events_offer, State.engine_offer]
  refine ⟨hintake, hnotices, ?_, rfl, nextSequence_le _⟩
  rw [hheld] at hdispatch
  simpa using hdispatch

theorem kept_withinCapacity : Kept WithinCapacity where
  touches h ht := ht.withinCapacity h
  dropOldest h := by
    obtain ⟨hintake, hrest⟩ := h
    exact ⟨Nat.le_trans (by simp [State.dropOldest]) hintake, hrest⟩
  clock h _ _ := h
  accept h b hm := accept_keeps (fun h ht => ht.withinCapacity h)
    (fun h hroom e => ⟨Nat.le_trans (Nat.le_of_eq List.length_append) hroom, h.2⟩) (fun h _ => h) (fun h _ => h) h b hm
  propose h p hnone hroom := by
    obtain ⟨hintake, hnotices, -, -, hsequence⟩ := h
    exact ⟨hintake, hnotices, hroom, rfl, hsequence⟩
  endProposal h := by
    obtain ⟨hintake, hnotices, hdispatch, -, hsequence⟩ := h
    exact ⟨hintake, hnotices, Nat.le_trans (Nat.le_add_right ..) hdispatch, rfl, hsequence⟩
  makeOffer h p hp := by
    rw [State.makeOffer_eq]
    exact (touches_requeue .refl p).withinCapacity (withinCapacity_offer p h hp)
  dispatchTail h _ := by
    obtain ⟨hintake, hnotices, hdispatch, hrest⟩ := h
    exact ⟨hintake, hnotices, Nat.le_trans (Nat.add_le_add_right (by simp) _) hdispatch, hrest⟩
  noticesTail h _ := by
    obtain ⟨hintake, hnotices, hrest⟩ := h
    exact ⟨hintake, Nat.le_trans (by simp) hnotices, hrest⟩
  summaries h _ _ := h
  dropLive h := ⟨h.1, Nat.zero_le _, Nat.zero_le _, rfl, Nat.zero_le _⟩
  latchLibrary h := h
  part h _ _ := h
  issueLoad h _ _ _ _ _ := h
  takeLoad h _ _ _ := h
  coldPart _ _ _ := ⟨Nat.zero_le _, Nat.zero_le _, Nat.zero_le _, rfl, Nat.zero_le _⟩

theorem kept_workListDistinct : Kept WorkListDistinct where
  touches h ht := ht.workListDistinct h
  dropOldest h := h
  clock h _ _ := h
  accept h b hm := accept_keeps (fun h ht => ht.workListDistinct h) (fun h _ _ => h) (fun h _ => h) (fun h _ => h) h b hm
  propose h _ _ _ := h
  endProposal h := h
  makeOffer h p _ := by
    rw [State.makeOffer_eq]
    refine (touches_requeue .refl p).workListDistinct ?_
    unfold WorkListDistinct
    rw [State.engine_offer]
    exact h
  dispatchTail h _ := h
  noticesTail h _ := h
  summaries h _ _ := h
  dropLive _ := List.nodup_nil
  latchLibrary h := h
  part h _ _ := h
  issueLoad h _ _ _ _ _ := h
  takeLoad h _ _ _ := h
  coldPart _ _ _ := List.nodup_nil

/-! ### The clock (R131, R132) -/

theorem ClockInRange.of_time (h : ClockInRange s) (ht : t.time = s.time) : ClockInRange t := by
  unfold ClockInRange; rw [ht]; exact h

theorem kept_clockInRange : Kept ClockInRange where
  touches h ht := h.of_time ht.time
  dropOldest h := h
  clock h _ hm := hm h
  accept h b hm := accept_keeps (fun h ht => h.of_time ht.time) (fun h _ _ => h) (fun h _ => h) (fun h _ => h) h b hm
  propose h _ _ _ := h
  endProposal h := h
  makeOffer {s} h p _ := by
    rw [State.makeOffer_eq]
    have hoffer : (s.offer p).time = s.time := (State.offer_frame s p).keeps .time (by decide)
    exact h.of_time ((touches_requeue .refl p).time.trans hoffer)
  dispatchTail h _ := h
  noticesTail h _ := h
  summaries h _ _ := h
  dropLive h := h
  latchLibrary h := h
  part h _ _ := h
  issueLoad h _ _ _ _ _ := h
  takeLoad h _ _ _ := h
  coldPart _ _ _ := ⟨Nat.zero_lt_succ _, rfl, Nat.le_refl _⟩

/-! ### The loading reads (R153) -/

/-- The loading reads of a part control lie within host-owned words. -/
def PartControl.InRange (p : PartControl) : Prop :=
  (∀ w, p.cursor = some w → w.Owned) ∧ ∀ b, p.burst = some b → b.Within

theorem loadingInRange_iff : LoadingInRange s ↔ s.part.InRange := .rfl

/-- A burst is judged by its first word and its size alone. -/
theorem LoadBurst.within_congr {a b : LoadBurst} (hf : b.first = a.first) (hn : b.beats = a.beats) (h : a.Within) :
    b.Within := by
  unfold LoadBurst.Within; rw [hf, hn]; exact h

theorem PartMoves.inRange {p q : PartControl} (hm : PartMoves p q) (h : p.InRange) : q.InRange := by
  obtain ⟨hcursor, hburst⟩ := hm
  refine ⟨fun w hw => h.1 w (hcursor ▸ hw), fun b hb => ?_⟩
  obtain ⟨a, ha, hfirst, hbeats⟩ := hburst b hb
  exact LoadBurst.within_congr hfirst hbeats (h.2 a ha)

theorem Touches.loadingInRange (ht : Touches s t) (h : LoadingInRange s) : LoadingInRange t := by
  induction ht with
  | refl => exact h
  | post c k x y z d _ ih => rw [loadingInRange_iff, State.part_post]; exact ih
  | trigger g _ ih => rw [loadingInRange_iff, State.part_addTrigger]; exact ih
  | rest _ _ _ _ _ _ _ _ hp _ ih => exact hp.inRange ih
  | _ => assumption

/-- The first word of a record is host-owned, and so is the configuration block's. -/
theorem LoadWord.owned_first {w : LoadWord} (hw : w.word = 0) (hi : w.index = 0) : w.Owned := by
  unfold LoadWord.Owned
  cases w.table <;> simp [hw, hi]

theorem LoadMoves.inRange {p q : PartControl} (hm : LoadMoves p q) (h : p.InRange) : q.InRange := by
  obtain ⟨hcursor, hburst⟩ := hm
  refine ⟨fun w hw => ?_, fun b hb => h.2 b (hburst b hb)⟩
  rcases hcursor w hw with ⟨hword, hindex⟩ | hsame
  · exact LoadWord.owned_first hword hindex
  · exact h.1 w hsame

/-- Within its run of consecutive host-owned words a burst stays in its record (R153). -/
theorem LoadWord.within_run {w : LoadWord} (h : w.Owned) {n : Nat} (h1 : 1 ≤ n) (h4 : n ≤ 4)
    (older : List (Nat × WriteBeat)) : LoadBurst.Within { first := w, beats := min n w.run, hostWrote := older } := by
  obtain ⟨table, index, word⟩ := w
  unfold LoadBurst.Within LoadWord.run
  cases table <;> simp only [LoadWord.Owned] at h ⊢ <;> refine ⟨?_, by omega, fun k hlow hhigh => ?_⟩
  case queue.refine_1 => split <;> omega
  case queue.refine_2 => split at hhigh <;> omega
  all_goals omega

/-- The word asked for next is host-owned (R153). -/
theorem LoadWord.after_owned {w u : LoadWord} (h : w.Owned) {n : Nat} (hu : w.after n = some u) : u.Owned := by
  unfold LoadWord.Owned at h ⊢
  unfold LoadWord.after at hu
  dsimp only at hu
  split at hu
  case h_1 ht =>
    rw [ht] at h
    split at hu <;> cases hu
    rw [ht]; exact ⟨h.1, ‹_›⟩
  case h_2 ht =>
    rw [ht] at h
    split at hu
    · cases hu
      rw [ht]; exact ⟨h.1, (by decide : 9 < 16), (by decide : 9 ≠ 8)⟩
    · split at hu
      · cases hu
        rw [ht]; exact ⟨h.1, ‹_›, ‹_›⟩
      · split at hu <;> cases hu
        · exact ⟨‹_›, (by decide : 0 < 16), (by decide : 0 ≠ 8)⟩
        · exact ⟨(by decide : 0 < 1024), (by decide : 0 < 5)⟩
  case h_3 ht =>
    rw [ht] at h
    split at hu
    · cases hu
      rw [ht]; exact ⟨h.1, ‹_›⟩
    · split at hu <;> cases hu
      · exact ⟨‹_›, (by decide : 0 < 5)⟩
      · exact ⟨(by decide : 0 < 2048), (by decide : 0 < 4)⟩
  case h_4 ht =>
    rw [ht] at h
    split at hu
    · cases hu
      rw [ht]; exact ⟨h.1, ‹_›⟩
    · split at hu <;> cases hu
      exact ⟨‹_›, (by decide : 0 < 4)⟩

theorem kept_loadingInRange : Kept LoadingInRange where
  touches h ht := ht.loadingInRange h
  dropOldest h := h
  clock h _ _ := h
  accept h b hm := accept_keeps (fun h ht => ht.loadingInRange h) (fun h _ _ => h) (fun h _ => h) (fun h _ => h) h b hm
  propose h _ _ _ := h
  endProposal h := h
  makeOffer {s} h p _ := by
    rw [State.makeOffer_eq]
    refine (touches_requeue .refl p).loadingInRange ?_
    obtain ⟨-, hcursor, hburst, -⟩ := (State.offer_frame s p).keeps .loading (by decide)
    unfold LoadingInRange
    rw [hcursor, hburst]
    exact h
  dispatchTail h _ := h
  noticesTail h _ := h
  summaries h _ _ := h
  dropLive h := h
  latchLibrary h := h
  part h _ hm := hm.inRange h
  issueLoad h w n hw h1 h4 := by
    have howned := h.1 w hw
    refine ⟨fun u hu => LoadWord.after_owned howned hu, fun b hb => ?_⟩
    cases hb
    exact LoadWord.within_run howned h1 h4 _
  takeLoad h b data _ := ⟨h.1, fun b hb => by cases hb⟩
  coldPart _ _ _ := ⟨fun w hw => (by cases hw), fun b hb => by cases hb⟩

/-! ### The skill lists (R51) -/

/-- What the cold record and every changed record have, every record of a changed table has. -/
theorem Table.read_mapAll_of {α : Type} [DecidableEq α] {P : α → Prop} {d : α} {f : α → α} (hd : P d) (hf : ∀ x, P (f x))
    (t : Table α) (n : Nat) : P (Table.read d (Table.mapAll d f t) n) := by
  unfold Table.mapAll
  induction t with
  | nil => exact hd
  | cons e t ih =>
    rw [List.filterMap_cons]
    split
    · exact ih
    · next x hx =>
      split at hx <;> cases hx
      unfold Table.read
      split
      · exact hf _
      · exact ih

theorem Touches.skillsDistinct (ht : Touches s t) (h : SkillsDistinct s) : SkillsDistinct t := by
  induction ht with
  | refl => exact h
  | agent a r hr _ ih =>
    intro b
    rw [State.agent_setAgent]
    split
    · rcases hr with hsame | hdistinct
      · rw [hsame]; exact ih a
      · exact hdistinct
    · exact ih b
  | post c k x y z d _ ih => intro b; rw [State.agent_post]; exact ih b
  | trigger g _ ih => intro b; rw [State.agent_addTrigger]; exact ih b
  | _ => assumption

theorem kept_skillsDistinct : Kept SkillsDistinct where
  touches h ht := ht.skillsDistinct h
  dropOldest h := h
  clock h _ _ := h
  accept h b hm := accept_keeps (fun h ht => ht.skillsDistinct h) (fun h _ _ => h) (fun h _ => h) (fun h _ => h) h b hm
  propose h _ _ _ := h
  endProposal h := h
  makeOffer h p _ := by
    rw [State.makeOffer_eq]
    refine (touches_requeue .refl p).skillsDistinct fun a => ?_
    rw [State.agent_offer]
    split
    · exact h p.agent
    · exact h a
  dispatchTail h _ := h
  noticesTail h _ := h
  summaries h _ _ := h
  dropLive {s} _ := Table.read_mapAll_of (P := fun g : Agent => duplicateSkill g.skills = false) (d := Agent.cold)
    (f := Agent.dropped) rfl (fun _ => rfl) s.agents
  latchLibrary h := h
  part h _ _ := h
  issueLoad h _ _ _ _ _ := h
  takeLoad h _ _ _ := h
  coldPart _ _ _ := fun _ => rfl

/-! ### The pass-through count at rest (R127, R155) -/

/-- What a command answers leaves the count at rest where it found it so. -/
structure KeepsRest (s : State) (o : Outcome) : Prop where
  rests : ∀ {t}, PassCountRests s → o = .next t → PassCountRests t

/-- A count of 0 is at rest. -/
theorem PassCountRests.of_zero (h : t.path.passCount = 0) : PassCountRests t := fun _ => h

/-- Own requests and the count alone decide. -/
theorem PassCountRests.congr (h : PassCountRests s) (hcount : t.path.passCount = s.path.passCount)
    (hown : OwnServable s → OwnServable t) : PassCountRests t :=
  fun hno => hcount.trans (h fun ho => hno (hown ho))

theorem keepsRest_event (s : State) (f : State → State) : KeepsRest s (event s f) :=
  ⟨fun h he => passCountRests_event h he⟩

theorem keepsRest_recordCommand (kind : RecordKind) (code : Byte) (body : IntakeEntry → State → ResultCode × State)
    (s : State) : KeepsRest s (recordCommand kind code body s) := by
  unfold recordCommand; exact keepsRest_event ..

theorem keepsRest_partCommand (code : Byte) (allowed : PartState → Bool) (body : IntakeEntry → State → State)
    (s : State) : KeepsRest s (partCommand code allowed body s) := by
  unfold partCommand; exact keepsRest_event ..

theorem keepsRest_dueEvent (kind : DeadlineKind) (s : State) : KeepsRest s (dueEvent kind s) := by
  unfold dueEvent; exact keepsRest_event ..

theorem keepsRest_stopsFrom (count n : Nat) (s : State) (f : State → State) :
    KeepsRest s (if count ≤ n then .fault (.noSuchRecord n) else event s f) := by
  split
  · exact ⟨fun _ he => by cases he⟩
  · exact keepsRest_event s f

/-- Under RESET a beat is forwarded, and nothing else changes (R157). -/
theorem keepsRest_beatEvent (b : Beat) (s : State) : KeepsRest s (beatEvent b s) := by
  unfold beatEvent
  split
  · exact ⟨fun h he => by cases he; exact h.congr rfl id⟩
  · exact keepsRest_event ..

/-- The count begins anew at the assertion of RESET, and at its release (R157). -/
theorem keepsRest_reset (s : State) : KeepsRest s (execReset s) := by
  refine ⟨fun {t} h he => ?_⟩
  unfold execReset at he
  split at he <;> cases he
  · exact h
  · exact .of_zero rfl

theorem keepsRest_resetRelease (straps : BitVec 4) (s : State) : KeepsRest s (execResetRelease straps s) := by
  refine ⟨fun {t} h he => ?_⟩
  unfold execResetRelease at he
  split at he <;> cases he
  · exact .of_zero rfl
  · exact h

/-- A pass-through beat counts only while a servable request of the part's own stands (R127, R155). -/
theorem keepsRest_passThroughBeatGrant (s : State) : KeepsRest s (execPassThroughBeatGrant s) := by
  refine ⟨fun {t} h he => ?_⟩
  unfold execPassThroughBeatGrant at he
  split at he
  · cases he; exact h
  · split at he
    · cases he; exact h.congr rfl id
    · split at he <;> cases he
      · exact h
      · intro hno
        show s.passCountNext = 0
        unfold State.passCountNext
        rw [if_neg fun ho => hno ((ownServable_iff s).1 ho)]

theorem keepsRest_exec (i : Instr) (s : State) : KeepsRest s (exec i s) := by
  cases i
  case agentTick | wrapCountdownEnd | ewtRepublish | generatedGroup | interjectionTick | interjection | feedArmingTick |
      armingRestart | feedArmed | feedMissing => exact keepsRest_stopsFrom ..
  case enqueue | abandon | answer | noAnswer | hold | resume | transfer | release | priority | announce | login | ready |
      notReady | logout | skills | extendWrap | openQueue | closeQueue | pauseQueue | unpauseQueue | applyQueue |
      resetCounters => exact keepsRest_recordCommand ..
  case enable | disable | restart | libraryApply | eventPop | summaryClear | feedClear | timebaseClear =>
    exact keepsRest_partCommand ..
  case offerExpiry | maxWaitDue | overflowDue => exact keepsRest_dueEvent ..
  case commandWordWrite | stagingWrite | feedCountedWrite | voiceRead | eventWindowRead => exact keepsRest_beatEvent ..
  case reset => exact keepsRest_reset s
  case resetRelease => exact keepsRest_resetRelease ..
  case passThroughBeatGrant => exact keepsRest_passThroughBeatGrant s
  all_goals
    dsimp only [exec]
    exact keepsRest_event ..

theorem passCountRests_step (h : PassCountRests s) (he : step s = .next t) : PassCountRests t := by
  cases hp : s.pending with
  | nil => rw [step_nil hp] at he; cases he; exact h
  | cons c rest =>
    rw [step_cons hp] at he
    have hrest : PassCountRests { s with pending := rest } := h.congr rfl id
    exact (keepsRest_exec c _).rests hrest he

/-- Settles O59: five invariants are properties that `Kept` carries along every step; the sixth stands at the end of every
event. -/
theorem stepsKeepTheCapacitiesAndRanges : Obligations.StepsKeepTheCapacitiesAndRanges := by
  refine ⟨fun s t he => ⟨fun h => ?_, fun h => ?_⟩, fun s t he => ⟨fun h => ?_, fun h => ?_, fun h => ?_, fun h => ?_⟩⟩
  · exact kept_withinCapacity.step h he
  · exact kept_workListDistinct.step h he
  · exact kept_clockInRange.step h he
  · exact kept_loadingInRange.step h he
  · exact kept_skillsDistinct.step h he
  · exact passCountRests_step h he

end Sys2Proof.Machine
end

section
/-! SUPPORT. An agent command as the intake hands it over: the state its body runs in, and the state its answer leaves (09
R150); flag writes (03 R59). -/

namespace Sys2Proof.Machine

variable {s : State} {e : IntakeEntry}

/-! ### The state an agent's body runs in -/

/-- The agent of an entry just handed over: one entry fewer is pending (R148). -/
theorem ownAgent_handed (hk : e.kind = .agent) : (s.dropEntry e).agent e.index =
    { s.agent e.index with pendingCount := (s.agent e.index).pendingCount - 1 } := by simp [hk]

theorem agentState_handed (a : Nat) : ((s.dropEntry e).agent a).state = (s.agent a).state := by
  rw [agent_dropEntry]; split <;> rfl

theorem agentFlags_handed (a : Nat) : ((s.dropEntry e).agent a).flags = (s.agent a).flags := by
  rw [agent_dropEntry]; split <;> rfl

theorem agentSkills_handed (a : Nat) : ((s.dropEntry e).agent a).skills = (s.agent a).skills := by
  rw [agent_dropEntry]; split <;> rfl

theorem names_handed (a q : Nat) : ((s.dropEntry e).agent a).names q = (s.agent a).names q := by
  unfold Agent.names; rw [agentSkills_handed]

theorem call_handedAgent (hk : e.kind = .agent) (c : Nat) : (s.dropEntry e).call c = s.call c := by simp [hk]

theorem queue_handedAgent (hk : e.kind = .agent) (q : Nat) : (s.dropEntry e).queue q = s.queue q := by simp [hk]

/-! ### The state its answer leaves -/

/-- An agent's result written, and the arbiter's count settled: the end of an agent command (R150). -/
def State.agentAnswered (s : State) (a : Nat) (r : CommandResult) : State :=
  (s.setAgent a { s.agent a with result := r }).settle

namespace State

variable (s : State) (a : Nat) (r : CommandResult)

@[simp] theorem agent_agentAnswered (b : Nat) : (s.agentAnswered a r).agent b =
    if b = a then { s.agent a with result := r } else s.agent b := by simp [agentAnswered]
@[simp] theorem call_agentAnswered (c : Nat) : (s.agentAnswered a r).call c = s.call c := by simp [agentAnswered]
@[simp] theorem queue_agentAnswered (q : Nat) : (s.agentAnswered a r).queue q = s.queue q := by simp [agentAnswered]
@[simp] theorem intake_agentAnswered : (s.agentAnswered a r).intake = s.intake := by simp [agentAnswered]
@[simp] theorem deadlines_agentAnswered : (s.agentAnswered a r).deadlines = s.deadlines := by simp [agentAnswered]
@[simp] theorem samples_agentAnswered : (s.agentAnswered a r).samples = s.samples := by simp [agentAnswered]
@[simp] theorem engine_agentAnswered : (s.agentAnswered a r).engine = s.engine := by simp [agentAnswered]
@[simp] theorem events_agentAnswered : (s.agentAnswered a r).events = s.events := by simp [agentAnswered]
@[simp] theorem tick_agentAnswered : (s.agentAnswered a r).tick = s.tick := by simp [agentAnswered]

@[simp] theorem frame_agentAnswered {cs : List Component} {u : State} (h : Changes cs u s) (ha : .agents ∈ cs)
    (hp : .passCount ∈ cs) : Changes cs u (s.agentAnswered a r) :=
  frame_settle (frame_setAgent h _ _ ha) hp

end State

/-- An agent command that reaches the Agent Unit: its body's answer is written last (R150). -/
theorem agentCommand_taken {code : Byte} {body : IntakeEntry → State → ResultCode × State} {r : ResultCode} {u : State}
    (h : Taken s e .agent code) (hb : body e (s.dropEntry e) = (r, u)) :
    recordCommand .agent code body s = .next (u.agentAnswered e.index (e.answer r)) := by
  rw [recordCommand_taken h, hb, writeResult_agent h.1.kind, resultOf_word h.1.commandWord]
  rfl

/-- As `agentCommand_taken`, for a body that sets its own agent and nothing else. -/
theorem agentCommand_sets {code : Byte} {body : IntakeEntry → State → ResultCode × State} {r : ResultCode} {g : Agent}
    (h : Taken s e .agent code) (hb : body e (s.dropEntry e) = (r, (s.dropEntry e).setAgent e.index g)) :
    ∃ t, recordCommand .agent code body s = .next t ∧ t.agent e.index = { g with result := e.answer r } ∧
      t.intake = s.intake.tail ∧ AgentsBut e.index s t ∧ Changes [.intake, .agents, .passCount] s t := by
  refine ⟨_, agentCommand_taken h hb, by simp, by simp, fun b hb => by simp [hb], ?_⟩
  simp (maxDischargeDepth := 40) [Changes.refl, h.1.kind]

/-! ### FLAG_WRITE (R59) -/

/-- A flag-write word that the intake hands over next (R148, R150). -/
theorem flagWrite_taken (hawake : s.path.resetAsserted = false) (hold : s.intake.head? = some e) (hk : e.kind = .agent)
    (hflag : e.flagWord = true) (hwhole : e.torn = false) (hactive : s.part.state = .active) :
    exec .flagWrite s =
      .next ((flagWriteBody e (s.dropEntry e)).2.writeResult e (flagWriteBody e (s.dropEntry e)).1).settle := by
  show execFlagWrite s = _
  unfold execFlagWrite
  rw [event_awake _ hawake]
  cases hi : s.intake with
  | nil => rw [hi] at hold; cases hold
  | cons d l =>
    rw [hi] at hold
    cases hold
    simp [hk, hflag, State.executeRecord, hwhole, hactive]

/-- The result field a flag write leaves (R59, R168). -/
theorem resultOf_flagWord (h : e.flagWord = true) (r : ResultCode) :
    e.resultOf r = { code := 0x80, token := 0, result := r } := by
  unfold IntakeEntry.resultOf; rw [if_pos h]

/-- The bits of R59's mask: the positions of no flag, and RNA_MARK's set request. -/
theorem flagMask_bit {n : Nat} (hn : n < 32) : (0xFFF8FFF0#32).getLsbD n = decide (4 ≤ n ∧ n < 16 ∨ 19 ≤ n ∧ n < 32) := by
  have all : ∀ n < 32, (0xFFF8FFF0#32).getLsbD n = decide (4 ≤ n ∧ n < 16 ∨ 19 ≤ n ∧ n < 32) := by decide
  exact all n hn

theorem flagRequestBad_eq_false {w : Word} :
    flagRequestBad w = false ↔ ∀ n, (4 ≤ n ∧ n < 16 ∨ 19 ≤ n ∧ n < 32) → w.getLsbD n = false := by
  unfold flagRequestBad
  rw [bne_eq_false_iff_eq]
  constructor
  · intro h n hn
    have hlt : n < 32 := by omega
    have hbit : (w &&& 0xFFF8FFF0#32).getLsbD n = (0#32).getLsbD n := by rw [h]
    rw [BitVec.getLsbD_and, flagMask_bit hlt, decide_eq_true hn, Bool.and_true] at hbit
    simpa using hbit
  · intro h
    refine BitVec.eq_of_getLsbD_eq fun n hlt => ?_
    rw [BitVec.getLsbD_and, flagMask_bit hlt, BitVec.getLsbD_zero, Bool.and_eq_false_iff, decide_eq_false_iff_not]
    by_cases hn : 4 ≤ n ∧ n < 16 ∨ 19 ≤ n ∧ n < 32
    · exact .inl (h n hn)
    · exact .inr hn

theorem flagRequestBad_eq_true {w : Word} :
    flagRequestBad w = true ↔ ∃ n, (4 ≤ n ∧ n < 16 ∨ 19 ≤ n ∧ n < 32) ∧ w.getLsbD n = true := by
  rw [← Bool.not_eq_false, flagRequestBad_eq_false]
  simp only [Classical.not_forall, Bool.not_eq_false, exists_prop]

/-- Settles O8: the mask's positions decide between the body's two answers, and R59's table is read flag by flag. -/
theorem flagWriteActsByItsRequests : Obligations.FlagWriteActsByItsRequests := by
  intro s e hawake hold hk hflag hwhole hactive after
  have hexec := flagWrite_taken hawake hold hk hflag hwhole hactive
  have hafter (old : Bool) (n : Nat) : flagAfter old (e.word.getLsbD (16 + n)) (e.word.getLsbD n) = after old n := by
    show _ = match e.word.getLsbD (16 + n), e.word.getLsbD n with
      | false, false => old | true, false => true | false, true => false | true, true => old
    cases e.word.getLsbD (16 + n) <;> cases e.word.getLsbD n <;> rfl
  refine ⟨fun hgood => ?_, fun hbad => ?_⟩
  · have hbody : flagWriteBody e (s.dropEntry e) = (.ok, (s.dropEntry e).setAgent e.index
        { (s.dropEntry e).agent e.index with flags := ((s.dropEntry e).agent e.index).flags.apply e.word }) := by
      unfold flagWriteBody; simp only [flagRequestBad_eq_false.2 hgood, Bool.false_eq_true, if_false]
    rw [hbody, writeResult_agent hk, resultOf_flagWord hflag] at hexec
    refine ⟨_, hexec, ?_, by simp, fun b hb => by simp [hb], by simp (maxDischargeDepth := 40) [Changes.refl, hk]⟩
    simp only [State.agent_settle, State.agent_setAgent, if_true, ownAgent_handed hk, ← hafter]
    rfl
  · have hbody : flagWriteBody e (s.dropEntry e) = (.badField, s.dropEntry e) := by
      unfold flagWriteBody; rw [flagRequestBad_eq_true.2 hbad]; rfl
    rw [hbody] at hexec
    refine ⟨_, hexec, ?_⟩
    rw [← resultOf_flagWord hflag]
    exact onlyAnswered s e _

end Sys2Proof.Machine
end

section
/-! SUPPORT. The validation of skill entries, LOGIN and SKILLS (03 R50 to R52, R57, R63). -/

namespace Sys2Proof.Machine

variable {s : State} {e : IntakeEntry}

/-! ### Skill lists that name no queue twice (R51) -/

theorem duplicateSkill_eq_false {l : List Skill} :
    duplicateSkill l = false ↔ l.Pairwise fun x y => x.queue ≠ y.queue := by
  induction l with
  | nil => simp [duplicateSkill]
  | cons k ks ih =>
    rw [duplicateSkill, Bool.or_eq_false_iff, ih, List.pairwise_cons]
    refine and_congr_left' ?_
    simp only [List.any_eq_false, beq_iff_eq, ne_comm (a := k.queue), ne_eq]

theorem duplicateSkill_filter {l : List Skill} (h : duplicateSkill l = false) (p : Skill → Bool) :
    duplicateSkill (l.filter p) = false := by
  rw [duplicateSkill_eq_false] at h ⊢
  exact h.filter p

/-! ### The validation (R51) -/

/-- Entry `i` of a snapshot's eight. -/
def skillEntry (ws : List Word) (i : Nat) : Skill := { queue := byteField ws (2 * i), level := byteField ws (2 * i + 1) }

theorem agentSkillEntries_eq (ws : List Word) : agentSkillEntries ws = (List.range 8).map (skillEntry ws) := rfl

theorem skill_valid_eq_false {k : Skill} : k.valid = false ↔ k.level ≠ 0 ∧ (63 < k.queue ∨ 15 < k.level) := by
  unfold Skill.valid Config.numQueues
  simp only [Bool.or_eq_false_iff, beq_eq_false_iff_ne, Bool.and_eq_false_iff, decide_eq_false_iff_not]
  omega

theorem invalidEntry_iff (ws : List Word) : (agentSkillEntries ws).all Skill.valid = false ↔
    ∃ i < 8, (skillEntry ws i).level ≠ 0 ∧ (63 < (skillEntry ws i).queue ∨ 15 < (skillEntry ws i).level) := by
  simp only [agentSkillEntries_eq, List.all_map, List.all_eq_false, List.mem_range, Function.comp_apply,
    Bool.not_eq_true, skill_valid_eq_false]

theorem validEntries_iff (ws : List Word) : ¬ (agentSkillEntries ws).all Skill.valid = false ↔
    ∀ i < 8, (skillEntry ws i).level ≠ 0 → (skillEntry ws i).queue ≤ 63 ∧ (skillEntry ws i).level ≤ 15 := by
  rw [invalidEntry_iff]
  simp only [not_exists, not_and, not_or, Nat.not_lt]

theorem doubleEntry_iff (ws : List Word) : duplicateSkill (agentSkills ws) = true ↔
    ∃ i j, i < j ∧ j < 8 ∧ (skillEntry ws i).level ≠ 0 ∧ (skillEntry ws j).level ≠ 0 ∧
      (skillEntry ws i).queue = (skillEntry ws j).queue := by
  rw [← Bool.not_eq_false, duplicateSkill_eq_false]
  unfold agentSkills
  rw [agentSkillEntries_eq, List.pairwise_filter, List.pairwise_map, List.pairwise_iff_getElem]
  simp only [List.length_range, List.getElem_range, bne_iff_ne]
  constructor
  · intro h
    refine Classical.byContradiction fun hno => h ?_
    exact fun i j hi hj hlt hli hlj heq => hno ⟨i, j, hlt, hj, hli, hlj, heq⟩
  · rintro ⟨i, j, hlt, hj, hli, hlj, heq⟩ h
    exact h i j (by omega) hj hlt hli hlj heq

theorem mem_agentSkills (ws : List Word) (k : Skill) :
    k ∈ agentSkills ws ↔ ∃ i < 8, (skillEntry ws i).level ≠ 0 ∧ k = skillEntry ws i := by
  unfold agentSkills
  rw [agentSkillEntries_eq, List.mem_filter, List.mem_map]
  simp only [List.mem_range, bne_iff_ne]
  constructor
  · rintro ⟨⟨i, hi, rfl⟩, hl⟩; exact ⟨i, hi, hl, rfl⟩
  · rintro ⟨i, hi, hl, rfl⟩; exact ⟨⟨i, hi, rfl⟩, hl⟩

/-- BAD_FIELD goes before DUPLICATE_SKILL, and there is no third answer (R51). -/
theorem skillError_eq_badField {ws : List Word} :
    skillError ws = some .badField ↔ (agentSkillEntries ws).all Skill.valid = false := by
  unfold skillError
  split
  · next h => exact ⟨fun _ => h, fun _ => rfl⟩
  · next h => refine ⟨fun hs => ?_, fun hv => absurd hv h⟩; split at hs <;> cases hs

theorem skillError_eq_duplicateSkill {ws : List Word} : skillError ws = some .duplicateSkill ↔
    ¬ (agentSkillEntries ws).all Skill.valid = false ∧ duplicateSkill (agentSkills ws) = true := by
  unfold skillError
  split
  · next h => exact ⟨fun hs => (by cases hs), fun hv => absurd h hv.1⟩
  · next h =>
    split
    · next hd => exact ⟨fun _ => ⟨h, hd⟩, fun _ => rfl⟩
    · next hd => exact ⟨fun hs => (by cases hs), fun hv => absurd hv.2 hd⟩

theorem skillError_answers {ws : List Word} {r : ResultCode} (h : skillError ws = some r) :
    r = .badField ∨ r = .duplicateSkill := by
  unfold skillError at h
  split at h
  · cases h; exact .inl rfl
  · split at h <;> cases h
    exact .inr rfl

/-! ### LOGIN (R52) -/

/-- NOT_READY counts an agent no more than LOGGED_OUT does (R47, R62). -/
theorem recount_loggedOut_notReady (q : Queue) : q.recount .loggedOut .notReady = q := rfl

theorem loginBody_wrongState (h : (s.agent e.index).state ≠ .loggedOut) : loginBody e s = (.wrongState, s) := if_pos h

theorem loginBody_invalid {r : ResultCode} (h : (s.agent e.index).state = .loggedOut) (hr : skillError e.snapshot = some r) :
    loginBody e s = (r, s) := by
  unfold loginBody; simp only [h, hr, ne_eq, not_true_eq_false, if_false]

/-- An agent signed in with a snapshot: the active list and wrap-up length latched, the accumulators 0 (R52). -/
def Agent.signIn (g : Agent) (ws : List Word) (mark : Tick) : Agent :=
  { g.latch ws with
    talk := 0, wrap := 0, availableTime := 0, notReadyTime := 0, callsHandled := 0, ticksTaken := mark }

theorem loginBody_accepted (h : (s.agent e.index).state = .loggedOut) (hv : skillError e.snapshot = none) :
    loginBody e s = (.ok, (s.setAgent e.index
      ((s.agent e.index).signIn e.snapshot (caughtUp (s.agent e.index).ticksTaken s.tick))).moveAgent e.index
        .notReady) := by
  unfold loginBody; simp only [h, hv, ne_eq, not_true_eq_false, if_false]; rfl

/-- Settles O3: the body's three answers, and the two conditions of the validation, entry by entry. -/
theorem loginValidatesAndSignsIn : Obligations.LoginValidatesAndSignsIn := by
  refine ⟨fun s e ht => ⟨fun hs hv => ?_, fun hs r hr => ?_, fun hs => ?_⟩, fun ws => ?_⟩
  · have hk := ht.1.kind
    have hbody := loginBody_accepted (s := s.dropEntry e) (e := e) (by rw [agentState_handed, hs]) hv
    refine ⟨_, caughtUp (s.agent e.index).ticksTaken s.tick, agentCommand_taken ht hbody, ?_, fun q => ?_, by simp,
      fun b hb => by simp [hb], by simp (maxDischargeDepth := 40) [Changes.refl, hk]⟩
    · simp [hk, Agent.done, Agent.signIn, Agent.latch]
    · rw [State.queue_agentAnswered, State.queue_moveAgent _ _ _
        (by simpa [Agent.signIn, Agent.latch] using duplicateSkill_of_skillError hv)]
      simp [Agent.signIn, Agent.latch, hk, hs, recount_loggedOut_notReady]
  · exact recordCommand_refused ht (loginBody_invalid (by rw [agentState_handed, hs]) hr)
  · exact recordCommand_refused ht (loginBody_wrongState (by rw [agentState_handed]; exact hs))
  · intro level queue
    refine ⟨?_, ?_, fun r hr => skillError_answers hr, mem_agentSkills ws⟩
    · rw [skillError_eq_badField, invalidEntry_iff]; rfl
    · rw [skillError_eq_duplicateSkill, validEntries_iff, doubleEntry_iff]; rfl

/-! ### SKILLS (R57, R63) -/

/-- The queues only one list names (R63). -/
theorem skillsOnlyIn_names (l m : List Skill) (q : Nat) : ((skillsOnlyIn l m).any fun k => k.queue == q) =
    ((l.any fun k => k.queue == q) && !(m.any fun k => k.queue == q)) := by
  rw [Bool.eq_iff_iff]
  simp only [skillsOnlyIn, List.any_filter, List.any_eq_true, Bool.and_eq_true, Bool.not_eq_true', List.any_eq_false,
    beq_iff_eq]
  constructor
  · rintro ⟨k, hk, honly, rfl⟩
    exact ⟨⟨k, hk, rfl⟩, honly⟩
  · rintro ⟨⟨k, hk, rfl⟩, honly⟩
    exact ⟨k, hk, honly, rfl⟩

theorem duplicateSkill_skillsOnlyIn {l : List Skill} (h : duplicateSkill l = false) (m : List Skill) :
    duplicateSkill (skillsOnlyIn l m) = false := duplicateSkill_filter h _

theorem skillsBody_invalid {r : ResultCode} (hr : skillError e.snapshot = some r) : skillsBody e s = (r, s) := by
  unfold skillsBody; simp only [hr]

/-- A staffed agent that a queue's list no longer names is counted there no more, and the other way round (R62, R63). -/
theorem recount_leaving (q : Queue) (g : AgentState) : q.recount g .notReady =
    { q with
      staffed := if g ≠ .loggedOut ∧ g ≠ .notReady then q.staffed - 1 else q.staffed
      available := if g = .available then q.available - 1 else q.available } := by cases g <;> rfl

theorem recount_joining (q : Queue) (g : AgentState) : q.recount .notReady g =
    { q with
      staffed := if g ≠ .loggedOut ∧ g ≠ .notReady then q.staffed + 1 else q.staffed
      available := if g = .available then q.available + 1 else q.available } := by cases g <;> rfl

/-- The head counts after a change of an active list (R63). -/
def State.relist (s : State) (old new : List Skill) (g : AgentState) : State :=
  (s.recountAll (skillsOnlyIn old new) g .notReady).recountAll (skillsOnlyIn new old) .notReady g

theorem State.queue_relist (s : State) {old new : List Skill} (hold : duplicateSkill old = false)
    (hnew : duplicateSkill new = false) (g : AgentState) (q : Nat) : (s.relist old new g).queue q =
    if (old.any fun k => k.queue == q) = true ∧ (new.any fun k => k.queue == q) = false then (s.queue q).recount g .notReady
    else if (old.any fun k => k.queue == q) = false ∧ (new.any fun k => k.queue == q) = true then
      (s.queue q).recount .notReady g
    else s.queue q := by
  unfold relist
  rw [queue_recountAll _ _ _ _ (duplicateSkill_skillsOnlyIn hnew _),
    queue_recountAll _ _ _ _ (duplicateSkill_skillsOnlyIn hold _),
    skillsOnlyIn_names, skillsOnlyIn_names]
  cases old.any fun k => k.queue == q <;> cases new.any fun k => k.queue == q <;> rfl

namespace State

variable (s : State)

@[simp] theorem agent_relist (old new : List Skill) (g : AgentState) (a : Nat) :
    (s.relist old new g).agent a = s.agent a := by simp [relist]
@[simp] theorem intake_relist (old new : List Skill) (g : AgentState) : (s.relist old new g).intake = s.intake := by
  simp [relist]
@[simp] theorem engine_relist (old new : List Skill) (g : AgentState) : (s.relist old new g).engine = s.engine := by
  simp [relist]
@[simp] theorem frame_relist {cs : List Component} {t : State} (h : Changes cs s t) (old new : List Skill) (g : AgentState)
    (hq : .queues ∈ cs) : Changes cs s (t.relist old new g) := by
  unfold relist
  exact frame_recountAll (frame_recountAll h _ _ _ hq) _ _ _ hq

/-- A SKILLS whose entries pass: the latch, the head counts, and an AVAILABLE agent's trigger (R57, R63). -/
def reskill (a : Nat) (ws : List Word) : State :=
  let g := s.agent a
  let u := (s.setAgent a (g.latch ws)).relist g.skills (agentSkills ws) g.state
  if g.state = .available then u.addTrigger (.agent a) else u

theorem agent_reskill (a : Nat) (ws : List Word) (b : Nat) :
    (s.reskill a ws).agent b = if b = a then (s.agent a).latch ws else s.agent b := by
  unfold reskill; dsimp only; split <;> simp

theorem queue_reskill {a : Nat} {ws : List Word} (hd : duplicateSkill (s.agent a).skills = false)
    (hv : skillError ws = none) (q : Nat) : (s.reskill a ws).queue q =
      if (s.agent a).names q = true ∧ ((agentSkills ws).any fun k => k.queue == q) = false then
        (s.queue q).recount (s.agent a).state .notReady
      else if (s.agent a).names q = false ∧ ((agentSkills ws).any fun k => k.queue == q) = true then
        (s.queue q).recount .notReady (s.agent a).state
      else s.queue q := by
  have hlists := (s.setAgent a ((s.agent a).latch ws)).queue_relist hd (duplicateSkill_of_skillError hv) (s.agent a).state q
  unfold reskill
  dsimp only
  split
  · rw [queue_addTrigger]; exact hlists
  · exact hlists

theorem workList_reskill (a : Nat) (ws : List Word) : (s.reskill a ws).engine.workList =
    if (s.agent a).state = .available then withTrigger s.engine.workList (.agent a) else s.engine.workList := by
  unfold reskill withTrigger; dsimp only; split <;> simp

theorem intake_reskill (a : Nat) (ws : List Word) : (s.reskill a ws).intake = s.intake := by
  unfold reskill; dsimp only; split <;> simp

theorem frame_reskill {cs : List Component} {t : State} (h : Changes cs s t) (a : Nat) (ws : List Word) (ha : .agents ∈ cs)
    (hq : .queues ∈ cs) (hw : .workList ∈ cs) : Changes cs s (t.reskill a ws) := by
  have hlists := frame_relist _ (frame_setAgent h a ((t.agent a).latch ws) ha) (t.agent a).skills (agentSkills ws)
    (t.agent a).state hq
  unfold reskill
  dsimp only
  split
  · exact frame_addTrigger hlists _ hw
  · exact hlists

end State

theorem skillsBody_accepted (hv : skillError e.snapshot = none) :
    skillsBody e s = (.ok, s.reskill e.index e.snapshot) := by
  unfold skillsBody; simp only [hv]; rfl

/-- Settles O6: the lists' difference moves the head counts, queue by queue. -/
theorem skillsReplaceTheActiveList : Obligations.SkillsReplaceTheActiveList := by
  refine fun s e ht => ⟨fun hv hd => ?_, fun r hr => recordCommand_refused ht (skillsBody_invalid hr)⟩
  intro g named staffed
  have hk := ht.1.kind
  have hstate := agentState_handed (s := s) (e := e) e.index
  refine ⟨_, agentCommand_taken ht (skillsBody_accepted hv), ?_, fun q => ?_, ?_, ?_, fun b hb => ?_, ?_⟩
  · simp [State.agent_reskill, hk, Agent.done, Agent.latch, g]
  · rw [State.queue_agentAnswered, State.queue_reskill _ (by rw [agentSkills_handed]; exact hd) hv, hstate, names_handed,
      queue_handedAgent hk, recount_leaving, recount_joining]
    change (if g.names q = true ∧ named q = false then _ else if g.names q = false ∧ named q = true then _ else _) = _
    cases g.names q <;> cases named q <;> simp [g, staffed]
  · rw [State.engine_agentAnswered, State.workList_reskill, hstate, engine_dropEntry]
  · rw [State.intake_agentAnswered, State.intake_reskill, intake_dropEntry]
  · simp [State.agent_reskill, hb]
  · refine State.frame_agentAnswered _ _ _ (State.frame_reskill _ ?_ _ _ ?_ ?_ ?_) ?_ ?_
    · exact frame_dropEntry_agent (.refl _ _) hk (by decide) (by decide)
    all_goals decide

end Sys2Proof.Machine
end

section
/-! SUPPORT. READY, NOT_READY and LOGOUT: an agent moved, its wrap-up ended, its offer withdrawn (03 R53 to R56, R88; 04 R77,
R81; 05 R91). -/

namespace Sys2Proof.Machine

variable {s : State} {e : IntakeEntry}

/-! ### Head counts by the change of state (R47, R62) -/

theorem recount_notReady_available (q : Queue) : q.recount .notReady .available =
    { q with staffed := q.staffed + 1, available := q.available + 1 } := rfl

theorem recount_available_out (q : Queue) {out : AgentState} (h : out = .notReady ∨ out = .loggedOut) :
    q.recount .available out = { q with staffed := q.staffed - 1, available := q.available - 1 } := by
  rcases h with rfl | rfl <;> rfl

theorem recount_offered_out (q : Queue) {out : AgentState} (h : out = .notReady ∨ out = .loggedOut) :
    q.recount .offered out = { q with staffed := q.staffed - 1 } := by
  rcases h with rfl | rfl <;> rfl

theorem recount_notReady_loggedOut (q : Queue) : q.recount .notReady .loggedOut = q := rfl

/-- WRAP_UP counts an agent as BUSY does, so its end moves the head counts as a BUSY agent's does (R62, R91). -/
theorem recount_wrapUp (q : Queue) (now : AgentState) : q.recount .wrapUp now = q.recount .busy now := rfl

/-- The state a READY gives to a wrap-up's end, PEND_NOT_READY being clear (R88, R91). -/
theorem wrapEndState_byReady {f : AgentFlags} (h : f.pendNotReady = false) :
    f.wrapEndState true = if f.pendLogout then .loggedOut else .available := by
  unfold AgentFlags.wrapEndState; simp only [h, Bool.or_true, Bool.false_eq_true, if_false, if_true]

namespace State

variable (s : State)

/-- A change between two states that count alike leaves every queue as it was. -/
theorem queue_recountAll_alike {was now : AgentState} (h : ∀ q : Queue, q.recount was now = q) (l : List Skill) (q : Nat) :
    (s.recountAll l was now).queue q = s.queue q := by
  unfold recountAll
  induction l generalizing s with
  | nil => rfl
  | cons k ks ih =>
    rw [List.foldl_cons, ih, queue_setQueue, h]
    split
    · next hq => rw [hq]
    · rfl

theorem queue_moveAgent_alike {a : Nat} {now : AgentState} (h : ∀ q : Queue, q.recount (s.agent a).state now = q) (q : Nat) :
    (s.moveAgent a now).queue q = s.queue q := by
  unfold moveAgent
  dsimp only
  rw [queue_recountAll_alike _ h]
  rfl

/-- An agent's record written, its list kept, and the agent moved: the head counts of its list follow (R62). -/
theorem queue_moveAgent_set {a : Nat} {g : Agent} (hl : g.skills = (s.agent a).skills)
    (hd : duplicateSkill (s.agent a).skills = false) (now : AgentState) (q : Nat) :
    ((s.setAgent a g).moveAgent a now).queue q =
      if (s.agent a).names q then (s.queue q).recount g.state now else s.queue q := by
  rw [queue_moveAgent _ _ _ (by rw [agent_setAgent, if_pos rfl, hl]; exact hd)]
  unfold Agent.names
  rw [agent_setAgent, if_pos rfl, hl, queue_setAgent]

/-- An agent's record written, its list kept, and its wrap-up ended (R62, R91). -/
theorem queue_wrapEnd_set {a : Nat} {g : Agent} (hl : g.skills = (s.agent a).skills)
    (hd : duplicateSkill (s.agent a).skills = false) (byReady : Bool) (q : Nat) :
    ((s.setAgent a g).wrapEnd a byReady).queue q =
      if (s.agent a).names q then (s.queue q).recount g.state (g.flags.wrapEndState byReady) else s.queue q := by
  rw [queue_wrapEnd _ _ _ (by rw [agent_setAgent, if_pos rfl, hl]; exact hd)]
  unfold Agent.names
  rw [agent_setAgent, if_pos rfl, hl, queue_setAgent]

/-- The sample of a wrap-up's end (R93). -/
theorem samples_wrapEnd_set {a q : Nat} {g : Agent} (hq : g.lastQueue = some q) (byReady : Bool) :
    ((s.setAgent a g).wrapEnd a byReady).samples =
      s.samples ++ [{ queue := q, ticks := min (s.tick - g.heldAnswer).toNat 65535 }] := by
  rw [samples_wrapEnd (q := q) _ _ _ (by rw [agent_setAgent, if_pos rfl]; exact hq), agent_setAgent, if_pos rfl]
  rfl

/-- The notice of a wrap-up's end (R94). -/
theorem events_wrapEnd_set {a q : Nat} {g : Agent} (hq : g.lastQueue = some q) (byReady : Bool) :
    ((s.setAgent a g).wrapEnd a byReady).events =
      (s.post .agent .wrapEnd none (some a) (some q) (min (s.tick - g.heldAnswer).toNat 65535)).events := by
  rw [events_wrapEnd, agent_setAgent, if_pos rfl, hq]
  exact events_post_congr (by simp) (by simp) (by simp) (by simp) ..

end State

/-! ### READY (R53, R88) -/

theorem readyBody_notReady (h : (s.agent e.index).state = .notReady) (hm : (s.agent e.index).flags.rnaMark = false) :
    readyBody e s = (.ok, ((s.setAgent e.index (s.agent e.index).dropNotReady).moveAgent e.index .available).addTrigger
      (.agent e.index)) := by
  unfold readyBody; simp only [h, hm, Bool.false_eq_true, if_false]

theorem readyBody_marked (h : (s.agent e.index).state = .notReady) (hm : (s.agent e.index).flags.rnaMark = true) :
    readyBody e s = (.marked, s) := by
  unfold readyBody; simp only [h, hm, if_true]

theorem readyBody_available (h : (s.agent e.index).state = .available) : readyBody e s = (.ok, s) := by
  unfold readyBody; simp only [h]

theorem readyBody_busy (h : (s.agent e.index).state = .busy) :
    readyBody e s = (.ok, s.setAgent e.index (s.agent e.index).dropNotReady) := by
  unfold readyBody; simp only [h]

theorem readyBody_wrongState (h : (s.agent e.index).state = .loggedOut ∨ (s.agent e.index).state = .offered) :
    readyBody e s = (.wrongState, s) := by
  unfold readyBody; rcases h with h | h <;> simp only [h]

theorem readyBody_wrapUp (h : (s.agent e.index).state = .wrapUp) :
    readyBody e s = (.ok, (s.setAgent e.index (s.agent e.index).dropNotReady).wrapEnd e.index true) := by
  unfold readyBody; simp only [h]

/-- Settles O4: one clause per state of the agent; in WRAP_UP the wrap-up's end chosen by PEND_LOGOUT alone, PEND_NOT_READY
having been cleared. -/
theorem readyMakesAvailableOrEndsWrapUp : Obligations.ReadyMakesAvailableOrEndsWrapUp := by
  refine ⟨fun s e ht => ⟨fun hs hm hd => ?_, fun hs hm => ?_, fun hs => ?_, fun hs => ?_, fun hs => ?_⟩,
    fun s e q ht hs hq hd => ?_⟩
  · have hk := ht.1.kind
    have hbody := readyBody_notReady (s := s.dropEntry e) (e := e) (by rw [agentState_handed, hs])
      (by rw [agentFlags_handed, hm])
    refine ⟨_, agentCommand_taken ht hbody, by simp [hk, Agent.done, Agent.dropNotReady], fun q => ?_,
      by simp [withTrigger], by simp, fun b hb => by simp [hb], by simp (maxDischargeDepth := 40) [Changes.refl, hk]⟩
    have hstate : ((s.dropEntry e).agent e.index).dropNotReady.state = .notReady := (agentState_handed _).trans hs
    rw [State.queue_agentAnswered, State.queue_addTrigger,
      State.queue_moveAgent_set _ (skills_dropNotReady _) (by rw [agentSkills_handed]; exact hd), names_handed,
      queue_handedAgent hk, hstate, recount_notReady_available]
  · exact recordCommand_refused ht (readyBody_marked (by rw [agentState_handed, hs]) (by rw [agentFlags_handed, hm]))
  · exact recordCommand_refused ht (readyBody_available (by rw [agentState_handed, hs]))
  · obtain ⟨t, hexec, hown, hrest⟩ := agentCommand_sets ht (readyBody_busy (by rw [agentState_handed, hs]))
    refine ⟨t, hexec, ?_, hrest⟩
    rw [hown, ownAgent_handed ht.1.kind]
    rfl
  · exact recordCommand_refused ht (readyBody_wrongState (by rwa [agentState_handed]))
  · intro g n
    have hk := ht.1.kind
    have hstate : ((s.dropEntry e).agent e.index).dropNotReady.state = .wrapUp := (agentState_handed _).trans hs
    have hout : ((s.dropEntry e).agent e.index).dropNotReady.flags.wrapEndState true =
        if g.flags.pendLogout then .loggedOut else .available := by
      rw [wrapEndState_byReady rfl, Agent.dropNotReady, agentFlags_handed]
    have hlast : ((s.dropEntry e).agent e.index).dropNotReady.lastQueue = some q := by
      rw [ownAgent_handed hk]; exact hq
    have hheld : ((s.dropEntry e).agent e.index).dropNotReady.heldAnswer = g.heldAnswer := by
      rw [ownAgent_handed hk]; rfl
    refine ⟨_, agentCommand_taken ht (readyBody_wrapUp (by rw [agentState_handed, hs])), ?_, fun r => ?_, ?_, ?_, ?_, by simp,
      fun b hb => by simp [hb], ?_⟩
    · simp only [State.agent_agentAnswered, State.agent_wrapEnd, State.agent_setAgent, if_true, hout]
      simp [hk, Agent.done, Agent.dropNotReady, AgentFlags.clearPending, g]
    · rw [State.queue_agentAnswered,
        State.queue_wrapEnd_set _ (skills_dropNotReady _) (by rw [agentSkills_handed]; exact hd), names_handed,
        queue_handedAgent hk, hstate, hout]
      show (if g.names r = true then _ else _) = _
      cases g.flags.pendLogout <;> rfl
    · rw [State.engine_agentAnswered, State.workList_wrapEnd, State.agent_setAgent, if_pos rfl, hout]
      simp only [State.engine_setAgent, engine_dropEntry]
      cases g.flags.pendLogout <;> rfl
    · rw [State.samples_agentAnswered, State.samples_wrapEnd_set _ hlast, hheld]
      simp [n]
    · rw [State.events_agentAnswered, State.events_wrapEnd_set _ hlast, hheld, tick_dropEntry]
      exact State.events_post_congr (by simp) (by simp) (by simp) (by simp) ..
    · refine State.frame_agentAnswered _ _ _ (State.frame_wrapEnd _ (frame_setAgent ?_ _ _ ?_) _ _ ?_ ?_ ?_ ?_ ?_ ?_ ?_ ?_ ?_)
        ?_ ?_
      · exact frame_dropEntry_agent (.refl _ _) hk (by decide) (by decide)
      all_goals decide

/-! ### NOT_READY and LOGOUT (R54, R55) -/

theorem notReadyBody_wrongState (h : (s.agent e.index).state = .loggedOut) : notReadyBody e s = (.wrongState, s) := by
  unfold notReadyBody; simp only [h]

theorem notReadyBody_notReady (h : (s.agent e.index).state = .notReady) : notReadyBody e s = (.ok, s) := by
  unfold notReadyBody; simp only [h]

theorem notReadyBody_available (h : (s.agent e.index).state = .available) :
    notReadyBody e s = (.ok, s.moveAgent e.index .notReady) := by
  unfold notReadyBody; simp only [h]

theorem notReadyBody_offered (h : (s.agent e.index).state = .offered) :
    notReadyBody e s = (.ok, s.withdrawAgent e.index .notReady 2) := by
  unfold notReadyBody; simp only [h]; rfl

theorem notReadyBody_pending (h : (s.agent e.index).state = .busy ∨ (s.agent e.index).state = .wrapUp) :
    notReadyBody e s = (.okPending, s.setAgent e.index
      { s.agent e.index with flags := { (s.agent e.index).flags with pendNotReady := true } }) := by
  unfold notReadyBody; rcases h with h | h <;> simp only [h]

theorem logoutBody_loggedOut (h : (s.agent e.index).state = .loggedOut) : logoutBody e s = (.ok, s) := by
  unfold logoutBody; simp only [h]

theorem logoutBody_out (h : (s.agent e.index).state = .notReady ∨ (s.agent e.index).state = .available) :
    logoutBody e s = (.ok, s.moveAgent e.index .loggedOut) := by
  unfold logoutBody; rcases h with h | h <;> simp only [h]

theorem logoutBody_offered (h : (s.agent e.index).state = .offered) :
    logoutBody e s = (.ok, s.withdrawAgent e.index .loggedOut 3) := by
  unfold logoutBody; simp only [h]; rfl

theorem logoutBody_pending (h : (s.agent e.index).state = .busy ∨ (s.agent e.index).state = .wrapUp) :
    logoutBody e s = (.okPending, s.setAgent e.index
      { s.agent e.index with flags := { (s.agent e.index).flags with pendLogout := true } }) := by
  unfold logoutBody; rcases h with h | h <;> simp only [h]

/-- A command that moves its agent to another state: the record, and the head counts as the move leaves them. -/
theorem agentCommand_moves {code : Byte} {body : IntakeEntry → State → ResultCode × State} {out : AgentState}
    (h : Taken s e .agent code) (hb : body e (s.dropEntry e) = (.ok, (s.dropEntry e).moveAgent e.index out)) :
    ∃ t, recordCommand .agent code body s = .next t ∧
      t.agent e.index = { (s.agent e.index).done (e.answer .ok) with state := out, stateEntry := s.tick } ∧
      (∀ q, t.queue q = ((s.dropEntry e).moveAgent e.index out).queue q) ∧
      t.intake = s.intake.tail ∧ AgentsBut e.index s t ∧ Changes [.intake, .agents, .queues, .passCount] s t := by
  have hk := h.1.kind
  exact ⟨_, agentCommand_taken h hb, by simp [hk, Agent.done], by simp, by simp, fun b hb => by simp [hb],
    by simp (maxDischargeDepth := 40) [Changes.refl, hk]⟩

/-- An AVAILABLE agent that leaves: its queues lose it from both head counts (R54, R55, R62). -/
theorem agentCommand_leaves {code : Byte} {body : IntakeEntry → State → ResultCode × State} {out : AgentState}
    (h : Taken s e .agent code) (hb : body e (s.dropEntry e) = (.ok, (s.dropEntry e).moveAgent e.index out))
    (hout : out = .notReady ∨ out = .loggedOut) (hs : (s.agent e.index).state = .available)
    (hd : duplicateSkill (s.agent e.index).skills = false) :
    ∃ t, recordCommand .agent code body s = .next t ∧
      t.agent e.index = { (s.agent e.index).done (e.answer .ok) with state := out, stateEntry := s.tick } ∧
      (∀ q, t.queue q =
        if (s.agent e.index).names q then
          { s.queue q with staffed := (s.queue q).staffed - 1, available := (s.queue q).available - 1 }
        else s.queue q) ∧
      t.intake = s.intake.tail ∧ AgentsBut e.index s t ∧ Changes [.intake, .agents, .queues, .passCount] s t := by
  obtain ⟨t, hexec, hown, hqueues, hrest⟩ := agentCommand_moves h hb
  refine ⟨t, hexec, hown, fun q => ?_, hrest⟩
  rw [hqueues, State.queue_moveAgent _ _ _ (by rw [agentSkills_handed]; exact hd), names_handed,
    queue_handedAgent h.1.kind, agentState_handed, hs, recount_available_out _ hout]

/-! ### An offer withdrawn (R56, R81) -/

namespace State

section
variable {s : State} {a c : Nat} (hc : (s.agent a).currentCall = some c)
include hc

/-- The withdrawal as its three acts: the restore, the agent's move, the event. -/
theorem withdrawAgent_eq (now : AgentState) (detail : Nat) : s.withdrawAgent a now detail =
    (((s.restore c .withdrawn).setAgent a { s.agent a with currentCall := none }).moveAgent a now).post .dispatch
      .offerWithdrawn (some c) (some a) (s.call c).currentQueue detail := by
  unfold withdrawAgent
  simp [hc]

theorem agent_withdrawAgent (now : AgentState) (detail b : Nat) : (s.withdrawAgent a now detail).agent b =
    if b = a then { s.agent a with state := now, stateEntry := s.tick, currentCall := none } else s.agent b := by
  rw [withdrawAgent_eq hc]
  by_cases h : b = a <;> simp [h]

theorem call_withdrawAgent (now : AgentState) (detail d : Nat) : (s.withdrawAgent a now detail).call d =
    if d = c then
      { s.call c with
        state := .queued, agent := none, lastEnd := .withdrawn, offerExpiry := none
        overflowDue := rearm s.tick (s.call c).overflowDue, maxWaitDue := rearm s.tick (s.call c).maxWaitDue }
    else s.call d := by
  rw [withdrawAgent_eq hc]; simp

theorem queue_withdrawAgent {now : AgentState} (hnow : now = .notReady ∨ now = .loggedOut) (detail : Nat) {q : Nat}
    (hq : (s.call c).currentQueue = some q) (ho : (s.agent a).state = .offered)
    (hd : duplicateSkill (s.agent a).skills = false) (r : Nat) : (s.withdrawAgent a now detail).queue r =
      { s.queue r with
        waiting := if r = q then s.insertByKeys c (s.queue q).waiting else (s.queue r).waiting
        staffed := if (s.agent a).names r then (s.queue r).staffed - 1 else (s.queue r).staffed } := by
  have hsame : (s.restore c .withdrawn).agent a = s.agent a := by simp
  have hstate : ({ s.agent a with currentCall := none } : Agent).state = .offered := ho
  rw [withdrawAgent_eq hc, queue_post, queue_moveAgent_set _ (by rw [hsame]) (by rw [hsame]; exact hd), hsame, hstate,
    queue_restore _ _ _ _ _ hq, recount_offered_out _ hnow]
  cases (s.agent a).names r <;> by_cases h : r = q <;> simp [h]

theorem workList_withdrawAgent (now : AgentState) (detail : Nat) :
    (s.withdrawAgent a now detail).engine.workList = withTrigger s.engine.workList (.call c) := by
  rw [withdrawAgent_eq hc]; simp [workList_restore]

theorem events_withdrawAgent (now : AgentState) (detail : Nat) : (s.withdrawAgent a now detail).events =
    (s.post .dispatch .offerWithdrawn (some c) (some a) (s.call c).currentQueue detail).events := by
  rw [withdrawAgent_eq hc]
  apply events_post_congr <;> simp

theorem intake_withdrawAgent (now : AgentState) (detail : Nat) : (s.withdrawAgent a now detail).intake = s.intake := by
  rw [withdrawAgent_eq hc]; simp

theorem entryFollows_withdrawAgent (now : AgentState) (detail : Nat) : EntryFollows c s (s.withdrawAgent a now detail) := by
  refine entryFollows_congr (entryFollows_restore s c .withdrawn) ?_ ?_ ?_ <;> rw [withdrawAgent_eq hc] <;> simp

theorem frame_withdrawAgent {cs : List Component} {r : State} (h : Changes cs r s) (now : AgentState) (detail : Nat)
    (h1 : .calls ∈ cs) (h2 : .agents ∈ cs) (h3 : .queues ∈ cs) (h4 : .deadlines ∈ cs) (h5 : .workList ∈ cs)
    (h6 : posting ⊆ cs) : Changes cs r (s.withdrawAgent a now detail) := by
  rw [withdrawAgent_eq hc]
  refine Changes.into ?_ (changes_post ..) h6
  exact frame_moveAgent (frame_setAgent (frame_restore _ h _ _ h1 h3 h4 h5) _ _ h2) _ _ h2 h3

end

end State

/-- A command that withdraws its agent's offer: the call waits again by its keys, and the agent leaves with N lowered (R56, R77,
R81). -/
theorem agentCommand_withdraws {code : Byte} {body : IntakeEntry → State → ResultCode × State} {out : AgentState}
    {detail c q : Nat} (h : Taken s e .agent code)
    (hb : body e (s.dropEntry e) = (.ok, (s.dropEntry e).withdrawAgent e.index out detail))
    (hout : out = .notReady ∨ out = .loggedOut) (hs : (s.agent e.index).state = .offered)
    (hc : (s.agent e.index).currentCall = some c) (hq : (s.call c).currentQueue = some q)
    (hd : duplicateSkill (s.agent e.index).skills = false) :
    ∃ t, recordCommand .agent code body s = .next t ∧
      t.agent e.index =
        { (s.agent e.index).done (e.answer .ok) with state := out, stateEntry := s.tick, currentCall := none } ∧
      t.call c =
        { s.call c with
          state := .queued, agent := none, lastEnd := .withdrawn, offerExpiry := none
          overflowDue := (s.call c).overflowDue.map fun d => if (s.tick - d).toNat < 2 ^ 31 then s.tick + 1 else d
          maxWaitDue := (s.call c).maxWaitDue.map fun d => if (s.tick - d).toNat < 2 ^ 31 then s.tick + 1 else d } ∧
      (∀ r, t.queue r =
        { s.queue r with
          waiting := if r = q then s.insertByKeys c (s.queue q).waiting else (s.queue r).waiting
          staffed := if (s.agent e.index).names r then (s.queue r).staffed - 1 else (s.queue r).staffed }) ∧
      EntryFollows c s t ∧
      t.engine.workList = withTrigger s.engine.workList (.call c) ∧
      t.events = (s.post .dispatch .offerWithdrawn (some c) (some e.index) (some q) detail).events ∧
      t.intake = s.intake.tail ∧ AgentsBut e.index s t ∧ CallsBut c s t ∧
      Changes ([.intake, .agents, .calls, .queues, .deadlines, .workList, .passCount] ++ posting) s t := by
  have hk := h.1.kind
  have hcall := call_handedAgent (s := s) hk
  have hoffer : ((s.dropEntry e).agent e.index).currentCall = some c := by rw [ownAgent_handed hk]; exact hc
  refine ⟨_, agentCommand_taken h hb, ?_, ?_, fun r => ?_, ?_, ?_, ?_, ?_, fun b hb => ?_, fun d hd => ?_, ?_⟩
  · rw [State.agent_agentAnswered, if_pos rfl, State.agent_withdrawAgent hoffer, if_pos rfl, ownAgent_handed hk, tick_dropEntry]
    rfl
  · rw [State.call_agentAnswered, State.call_withdrawAgent hoffer, if_pos rfl, hcall, tick_dropEntry, State.rearm_eq,
      State.rearm_eq]
  · rw [State.queue_agentAnswered,
      State.queue_withdrawAgent hoffer hout _ (by rw [hcall, hq]) (by rw [agentState_handed, hs])
        (by rw [agentSkills_handed, hd]),
      queue_handedAgent hk, queue_handedAgent hk, names_handed,
      State.insertByKeys_congr (s := s) fun d => by rw [hcall]; exact ⟨rfl, rfl⟩]
  · refine State.entryFollows_from (State.entryFollows_congr
      (State.entryFollows_withdrawAgent hoffer out detail) ?_ ?_ ?_) (deadlines_dropEntry ..)
    all_goals simp
  · rw [State.engine_agentAnswered, State.workList_withdrawAgent hoffer, engine_dropEntry]
  · rw [State.events_agentAnswered, State.events_withdrawAgent hoffer, hcall, hq]
    exact State.events_post_congr (by simp) (by simp) (by simp) (by simp) ..
  · rw [State.intake_agentAnswered, State.intake_withdrawAgent hoffer, intake_dropEntry]
  · simp [State.agent_withdrawAgent hoffer, hb]
  · rw [State.call_agentAnswered, State.call_withdrawAgent hoffer, if_neg hd, hcall]
  · refine State.frame_agentAnswered _ _ _ (State.frame_withdrawAgent hoffer ?_ _ _ ?_ ?_ ?_ ?_ ?_ ?_) ?_ ?_
    · exact frame_dropEntry_agent (.refl _ _) hk (by decide) (by decide)
    all_goals decide

/-- Settles O5: NOT_READY and LOGOUT each by the state of their agent; the OFFERED agent of either by
`agentCommand_withdraws`. -/
theorem notReadyAndLogoutLeaveEveryState : Obligations.NotReadyAndLogoutLeaveEveryState := by
  constructor
  · rintro s e i out (⟨rfl, ht, rfl⟩ | ⟨rfl, ht, rfl⟩)
    all_goals
      have hk := ht.1.kind
      have hstate := agentState_handed (s := s) (e := e) e.index
    · refine ⟨fun hs hd => ?_, fun hs => ?_, fun _ h => (by cases h), fun hs => ?_, fun hs _ => ?_⟩
      · exact agentCommand_leaves ht (notReadyBody_available (by rw [hstate, hs])) (.inl rfl) hs hd
      · obtain ⟨t, hexec, hown, hrest⟩ := agentCommand_sets ht (notReadyBody_pending (by rwa [hstate]))
        refine ⟨t, hexec, ?_, hrest⟩
        rw [hown, ownAgent_handed hk]
        simp [Agent.done]
      · exact recordCommand_refused ht (notReadyBody_notReady (by rw [hstate, hs]))
      · exact recordCommand_refused ht (notReadyBody_wrongState (by rw [hstate, hs]))
    · refine ⟨fun hs hd => ?_, fun hs => ?_, fun hs _ => ?_, fun hs => ?_, fun _ h => (by cases h)⟩
      · exact agentCommand_leaves ht (logoutBody_out (by rw [hstate]; exact .inr hs)) (.inr rfl) hs hd
      · obtain ⟨t, hexec, hown, hrest⟩ := agentCommand_sets ht (logoutBody_pending (by rwa [hstate]))
        refine ⟨t, hexec, ?_, hrest⟩
        rw [hown, ownAgent_handed hk]
        simp [Agent.done]
      · obtain ⟨t, hexec, hown, hqueues, hrest⟩ := agentCommand_moves ht (logoutBody_out (by rw [hstate]; exact .inl hs))
        refine ⟨t, hexec, hown, fun q => ?_, hrest⟩
        rw [hqueues, State.queue_moveAgent_alike _ (by rw [hstate, hs]; exact recount_notReady_loggedOut),
          queue_handedAgent hk]
      · exact recordCommand_refused ht (logoutBody_loggedOut (by rw [hstate, hs]))
  · rintro s e i out detail c q (⟨rfl, ht, rfl, rfl⟩ | ⟨rfl, ht, rfl, rfl⟩) hs hc hq hd
    · exact agentCommand_withdraws ht (notReadyBody_offered (by rw [agentState_handed, hs])) (.inl rfl) hs hc hq hd
    · exact agentCommand_withdraws ht (logoutBody_offered (by rw [agentState_handed, hs])) (.inr rfl) hs hc hq hd

end Sys2Proof.Machine
end

section
/-! SUPPORT. The Agent Unit's tick: the accumulators, the countdown, and the wrap-up end it brings (03 R65; 05 R87,
R91, R93). -/

namespace Sys2Proof.Machine

variable {s : State} {a : Nat}

/-- The agent with a tick taken into account: the accumulator of its state (R65), and the tick counted (log 4). -/
def Agent.counted (g : Agent) : Agent := { g.accumulate with ticksTaken := g.ticksTaken + 1 }

/-- The agent at the last tick of its wrap-up, before the wrap-up ends (R87). -/
def Agent.countedOut (g : Agent) : Agent := { g.counted with wrapRemaining := 0 }

namespace Agent

variable (g : Agent)

/-- R65's table, accumulator by accumulator. -/
theorem counted_eq : g.counted =
    { g with
      ticksTaken := g.ticksTaken + 1
      notReadyTime := if g.state = .notReady then g.notReadyTime + 1 else g.notReadyTime
      availableTime := if g.state = .available then g.availableTime + 1 else g.availableTime
      talk := if g.state = .offered ∨ g.state = .busy then g.talk + 1 else g.talk
      wrap := if g.state = .wrapUp then g.wrap + 1 else g.wrap } := by
  unfold counted accumulate
  cases h : g.state <;> simp [h]

@[simp] theorem state_countedOut : g.countedOut.state = g.state := by unfold countedOut; rw [counted_eq]
@[simp] theorem flags_countedOut : g.countedOut.flags = g.flags := by unfold countedOut; rw [counted_eq]
@[simp] theorem lastQueue_countedOut : g.countedOut.lastQueue = g.lastQueue := by unfold countedOut; rw [counted_eq]
@[simp] theorem heldAnswer_countedOut : g.countedOut.heldAnswer = g.heldAnswer := by unfold countedOut; rw [counted_eq]
@[simp] theorem skills_countedOut : g.countedOut.skills = g.skills := by unfold countedOut; rw [counted_eq]

theorem lastWrapTick_eq_true {g : Agent} : g.lastWrapTick = true ↔ g.state = .wrapUp ∧ g.wrapRemaining ≤ 1 := by
  unfold lastWrapTick; simp only [Bool.and_eq_true, decide_eq_true_eq]

end Agent

namespace State

theorem takeAgentTick_notWrapping (h : (s.agent a).state ≠ .wrapUp) :
    s.takeAgentTick a = s.setAgent a (s.agent a).counted := if_pos h

theorem takeAgentTick_counting (h : (s.agent a).state = .wrapUp) (hn : 1 < (s.agent a).wrapRemaining) :
    s.takeAgentTick a = s.setAgent a { (s.agent a).counted with wrapRemaining := (s.agent a).wrapRemaining - 1 } := by
  have hlast : ¬ (s.agent a).lastWrapTick = true := fun hl => by
    have := (Agent.lastWrapTick_eq_true.1 hl).2
    omega
  unfold takeAgentTick
  dsimp only
  rw [if_neg (fun hne => hne h), if_neg hlast]
  rfl

theorem takeAgentTick_last (h : (s.agent a).lastWrapTick = true) :
    s.takeAgentTick a = (s.setAgent a (s.agent a).countedOut).wrapEnd a false := by
  unfold takeAgentTick
  dsimp only
  rw [if_neg (fun hne => hne (Agent.lastWrapTick_eq_true.1 h).1), if_pos h]
  rfl

theorem agentTickDue_of_ne (h : (s.agent a).ticksTaken ≠ s.tick) : s.agentTickDue a = true := bne_iff_ne.2 h

end State

/-- A tick that an agent has not taken (R131, log 4). -/
theorem agentTick_due (ha : a < 1024) (hawake : s.path.resetAsserted = false) (hdue : (s.agent a).ticksTaken ≠ s.tick) :
    exec (.agentTick a) s = .next (s.takeAgentTick a).settle := by
  show execAgentTick a s = _
  unfold execAgentTick
  rw [if_neg (show ¬ Config.numAgents ≤ a from Nat.not_le.2 ha), event_awake _ hawake, if_pos (State.agentTickDue_of_ne hdue)]

theorem wrapCountdownEnd_due (ha : a < 1024) (hawake : s.path.resetAsserted = false)
    (hdue : (s.agent a).ticksTaken ≠ s.tick) (hlast : (s.agent a).lastWrapTick = true) :
    exec (.wrapCountdownEnd a) s = .next (s.takeAgentTick a).settle := by
  show execWrapCountdownEnd a s = _
  unfold execWrapCountdownEnd
  rw [if_neg (show ¬ Config.numAgents ≤ a from Nat.not_le.2 ha), event_awake _ hawake, State.agentTickDue_of_ne hdue, hlast]
  rfl

/-- A tick that writes its agent's record and nothing else. -/
theorem agentTick_sets {g : Agent} (ha : a < 1024) (hawake : s.path.resetAsserted = false)
    (hdue : (s.agent a).ticksTaken ≠ s.tick) (hset : s.takeAgentTick a = s.setAgent a g) :
    ∃ t, exec (.agentTick a) s = .next t ∧ t.agent a = g ∧ AgentsBut a s t ∧ Changes [.agents, .passCount] s t := by
  refine ⟨_, agentTick_due ha hawake hdue, ?_⟩
  rw [hset]
  exact ⟨by simp, fun b hb => by simp [hb], by simp [Changes.refl]⟩

/-- Settles O40: the two ticks that only count, and the last tick of a wrap-up, which ends it. -/
theorem agentTicksCountAndEndWrapUp : Obligations.AgentTicksCountAndEndWrapUp := by
  intro s a ha hawake hdue g counted
  have hcounted : (s.agent a).counted = counted := Agent.counted_eq _
  refine ⟨fun hs => ?_, fun hs hn => ?_, fun i q hi hs hn hq hd => ?_⟩
  · rw [← hcounted]
    exact agentTick_sets ha hawake hdue (State.takeAgentTick_notWrapping hs)
  · rw [← hcounted]
    exact agentTick_sets ha hawake hdue (State.takeAgentTick_counting hs hn)
  · intro out n
    have hlast : (s.agent a).lastWrapTick = true := Agent.lastWrapTick_eq_true.2 ⟨hs, Nat.le_of_eq hn⟩
    have hexec : exec i s = .next (s.takeAgentTick a).settle := by
      rcases hi with rfl | rfl
      · exact agentTick_due ha hawake hdue
      · exact wrapCountdownEnd_due ha hawake hdue hlast
    have hout : g.flags.wrapEndState false = out := wrapEndState_byFlags _
    have hqueue : (s.agent a).countedOut.lastQueue = some q := (Agent.lastQueue_countedOut _).trans hq
    rw [State.takeAgentTick_last hlast] at hexec
    refine ⟨_, hexec, ?_, fun r => ?_, ?_, ?_, ?_, fun b hb => ?_, ?_⟩
    · rw [State.agent_settle, State.agent_wrapEnd, if_pos rfl, State.agent_setAgent, if_pos rfl, State.tick_setAgent,
        Agent.flags_countedOut, hout, Agent.countedOut, hcounted]
      rfl
    · rw [State.queue_settle, State.queue_wrapEnd_set _ (Agent.skills_countedOut _) hd, Agent.state_countedOut, hs,
        recount_wrapUp, Agent.flags_countedOut, recount_busy_wrapEnd, hout]
    · rw [State.engine_settle, State.workList_wrapEnd, State.agent_setAgent, if_pos rfl, Agent.flags_countedOut, hout,
        State.engine_setAgent]
    · rw [State.samples_settle, State.samples_wrapEnd_set _ hqueue, Agent.heldAnswer_countedOut]
    · rw [State.events_settle, State.events_wrapEnd_set _ hqueue, Agent.heldAnswer_countedOut]
    · simp [hb]
    · refine frame_settle (State.frame_wrapEnd _ (frame_setAgent (.refl _ _) _ _ ?_) _ _ ?_ ?_ ?_ ?_ ?_ ?_ ?_ ?_ ?_) ?_
      all_goals decide

end Sys2Proof.Machine
end

section
/-! SUPPORT. RESTART and DISABLE: the part control each leaves, and the live state a DISABLE drops (04 R68; 09 R151, R152,
R154). -/

namespace Sys2Proof.Machine

variable {s : State} {e : IntakeEntry}

/-- A part command whose body answers a result and leaves the state it was handed (R151). -/
theorem partCommand_refused {code : Byte} {allowed : PartState → Bool} {body : IntakeEntry → State → ResultCode × State}
    {r : ResultCode} (h : Handed s e .part code) (ha : allowed s.part.state = true)
    (hb : body e s.dropOldest = (r, s.dropOldest)) :
    ∃ t, partCommand code allowed (answering body) s = .next t ∧ OnlyAnswered s t e (e.answer r) := by
  refine ⟨_, partCommand_answering h ha body, ?_⟩
  have hanswered := onlyAnswered s e r
  rw [writeResult_part h.kind, dropEntry_part h.kind, resultOf_word h.commandWord] at hanswered
  rwa [hb]

/-- A part control that keeps its error code, its configuration and its result. -/
theorem changes_loading (s : State) (p : PartControl) (herror : p.error = s.part.error) (hconfig : p.config = s.part.config)
    (hresult : p.result = s.part.result) : Changes [.partState, .loading] s { s with part := p } := by
  constructor; intro k hk; cases k <;> simp_all [Component.agree]

/-! ### RESTART (R152) -/

/-- The part as a RESTART leaves it: LOADING, at the first word of a configuration read, without a proposal (R68, R152). -/
def State.restarted (s : State) (token : Byte) : State :=
  { s.endProposal with
    part := { s.part.abandon with
      state := .loading, phase := .config, cursor := some { table := .config, index := 0, word := 0 }
      restartToken := some token } }

theorem restartBody_eq : restartBody e s = s.restarted e.token := rfl

theorem changes_restarted (token : Byte) : Changes [.partState, .loading, .proposal] s (s.restarted token) :=
  ((changes_endProposal s).mono (by simp)).into (changes_loading s.endProposal _ rfl rfl rfl) (by simp)

/-! ### DISABLE (R151, R154) -/

/-- The part as a DISABLE in LOADING or ACTIVE leaves it (R151, R154). -/
def State.disabled (s : State) : State := { s.dropLive with part := { s.part.abandon with state := .pass } }

theorem disableBody_pass (h : s.part.state = .pass) : disableBody e s = (.ok, s) := if_pos h

theorem disableBody_leaves (h : s.part.state ≠ .pass) : disableBody e s = (.ok, s.disabled) := if_neg h

theorem changes_dropLive_disabled : Changes [.partState, .loading] s.dropLive s.disabled :=
  changes_loading s.dropLive _ rfl rfl rfl

theorem changes_disabled : Changes ([.partState, .loading] ++ liveState) s s.disabled :=
  (State.frame_dropLive s (.refl ..) (by simp +contextual)).into changes_dropLive_disabled (by simp)

theorem liveDropped_disabled (h : Canonical s) : LiveDropped s s.disabled :=
  (State.liveDropped_dropLive s h).after changes_dropLive_disabled (by decide)

theorem feedsOff_disabled (h : Canonical s) : FeedsOff s s.disabled := (State.feedsOff_dropLive s h).after rfl

/-- Settles O23: RESTART's body in any state, and DISABLE's by whether the part is in PASS. -/
theorem restartAndDisableByState : Obligations.RestartAndDisableByState := by
  intro s e waits
  have hhanded : Changes [.intake] s s.dropOldest := frame_dropOldest (.refl ..) (by simp)
  refine ⟨fun h => ?_, fun h hpass => ?_, fun h hpass hcanonical => ?_⟩
  · refine ⟨_, partCommand_handed h rfl restartBody, ?_, ?_, ?_, ?_, ?_⟩ <;> rw [restartBody_eq]
    · rw [State.part_settle]; rfl
    · rw [State.engine_settle]; rfl
    · rw [State.engine_settle]; rfl
    · rw [State.intake_settle]; rfl
    · exact frame_settle ((hhanded.mono (by simp)).into (changes_restarted _) (by simp)) (by simp)
  · exact partCommand_refused h rfl (disableBody_pass hpass)
  · have hexec := partCommand_answering (allowed := anyState) h rfl disableBody
    rw [disableBody_leaves (s := s.dropOldest) hpass] at hexec
    have hcanonical : Canonical s.dropOldest := canonical_intake _ hcanonical
    have hanswer (t : State) (r : CommandResult) : Changes [.partResult, .passCount] t (t.setPartResult r).settle :=
      frame_settle (frame_setPartResult (.refl ..) _ (by simp)) (by simp)
    refine ⟨_, hexec, ?_, ?_, ?_, ?_, ?_⟩
    · rw [State.part_settle]; rfl
    · exact ((liveDropped_disabled hcanonical).before hhanded (by decide)).after (hanswer ..) (by decide)
    · exact ((feedsOff_disabled hcanonical).before rfl).after ((hanswer _ _).keeps .feeds (by decide))
    · rw [State.intake_settle]; rfl
    · exact ((hhanded.mono (by simp)).into changes_disabled (by simp +contextual)).into (hanswer ..) (by simp)

end Sys2Proof.Machine
end

section
/-! SUPPORT. An offer that expires: its due entry taken, the call restored by keys, the agent rung out (01 R22 to R24; 04
R77, R80). -/

namespace Sys2Proof.Machine

namespace State

variable {s : State} {c a : Nat}

theorem slotReached_offer (h : (s.call c).state = .offered) (ho : SlotLate s.tick (s.call c).offerExpiry) :
    s.slotReached c .offerExpiry = true := by
  obtain ⟨k, hk, hlate⟩ := ho
  unfold slotReached Call.armed
  simp [h, hk, (reached_iff ..).mpr hlate]

theorem handleOffer_late (h : (s.call c).state = .offered) (ho : SlotLate s.tick (s.call c).offerExpiry) :
    s.handleOffer c = s.expireOffer c := by
  unfold handleOffer
  simp [h, slotDue_iff, ho]

theorem handleMaxWait_early (hm : ¬ SlotLate s.tick (s.call c).maxWaitDue) : s.handleMaxWait c = s := by
  unfold handleMaxWait
  simp [slotDue_iff, hm]

/-- A slot armed again falls due at the next tick at the earliest (R22). -/
theorem not_slotLate_rearm (now : Tick) (slot : Option Tick) : ¬ SlotLate now (rearm now slot) := by
  rintro ⟨k, hk, hlate⟩
  rw [rearm_eq] at hk
  obtain ⟨d, -, rfl⟩ := Option.map_eq_some_iff.1 hk
  unfold Late at hlate
  split at hlate
  · bv_omega
  · contradiction

section
variable (ha : (s.call c).agent = some a)
include ha

/-- The expiry's acts: the restore, the ring-out, and the event (R80). -/
theorem expireOffer_eq : s.expireOffer c =
    ((s.restore c .expired).ringOut a).post .dispatch .offerExpired (some c) (some a) (s.call c).currentQueue
      (s.call c).attempts := by
  unfold expireOffer
  simp only [unanswered_eq _ _ ha, ha]

theorem call_expireOffer (d : Nat) : (s.expireOffer c).call d = (s.restore c .expired).call d := by
  rw [expireOffer_eq ha]; simp [ringOut]

theorem agent_expireOffer (b : Nat) : (s.expireOffer c).agent b =
    if b = a then
      { s.agent a with
        state := .notReady, stateEntry := s.tick, currentCall := none
        flags := { (s.agent a).flags with rnaMark := true } }
    else s.agent b := by
  rw [expireOffer_eq ha]; simp [agent_ringOut]

theorem queue_expireOffer {q : Nat} (hq : (s.call c).currentQueue = some q) (ho : (s.agent a).state = .offered)
    (hd : duplicateSkill (s.agent a).skills = false) (r : Nat) : (s.expireOffer c).queue r =
      { s.queue r with
        waiting := if r = q then s.insertByKeys c (s.queue q).waiting else (s.queue r).waiting
        staffed := if (s.agent a).names r then (s.queue r).staffed - 1 else (s.queue r).staffed } := by
  rw [expireOffer_eq ha, queue_post, queue_ringOut _ (by simpa using ho) (by simpa using hd), queue_restore _ _ _ _ _ hq]
  simp

theorem workList_expireOffer : (s.expireOffer c).engine.workList = withTrigger s.engine.workList (.call c) := by
  rw [expireOffer_eq ha]; simp [ringOut, workList_restore]

theorem events_expireOffer : (s.expireOffer c).events =
    (s.post .dispatch .offerExpired (some c) (some a) (s.call c).currentQueue (s.call c).attempts).events := by
  rw [expireOffer_eq ha]
  apply events_post_congr <;> simp [ringOut]

theorem tick_expireOffer : (s.expireOffer c).tick = s.tick := by
  rw [expireOffer_eq ha]; simp [ringOut]

theorem entryFollows_expireOffer : EntryFollows c s (s.expireOffer c) := by
  refine entryFollows_congr (entryFollows_restore s c .expired) ?_ ?_ ?_ <;>
    rw [expireOffer_eq ha] <;> simp [ringOut]

theorem expireOffer_frame :
    Changes (posting ++ [.calls, .agents, .queues, .deadlines, .workList]) s (s.expireOffer c) := by
  rw [expireOffer_eq ha]
  simp (maxDischargeDepth := 40) [ringOut, Changes.refl, posting]

/-- A due offer expiry: the restored call has no slot left that is reached (R22, R24). -/
theorem takeDue_offered (h : (s.call c).state = .offered) (ho : SlotLate s.tick (s.call c).offerExpiry) :
    s.takeDue c = ((s.dropDeadline c).expireOffer c).refreshDeadline c := by
  have hagent : ((s.dropDeadline c).call c).agent = some a := by simpa using ha
  have hoffer : (s.dropDeadline c).handleOffer c = (s.dropDeadline c).expireOffer c :=
    handleOffer_late (by simpa using h) (by simpa using ho)
  have htick := tick_expireOffer hagent
  have hcall := call_expireOffer hagent c
  unfold takeDue
  rw [hoffer, handleMaxWait_early, handleOverflow_early]
  all_goals
    rw [htick, hcall, call_restore, if_pos rfl]
    exact not_slotLate_rearm _ _

end

end State

/-- Settles O38: the expiry's acts on the state without the due entry, and the call's entry refreshed. -/
theorem aDueOfferExpires : Obligations.ADueOfferExpires := by
  intro s d due a q hawake hfront hlate hs hexpiry hdue ha hq ho hd rearmed
  have hslot : State.SlotLate s.tick (s.call d.call).offerExpiry := ⟨due, hexpiry, hdue⟩
  have hexec : exec .offerExpiry s = .next (s.takeDue d.call).settle :=
    State.dueEvent_taken hawake hfront hlate (State.slotReached_offer hs hslot)
  rw [State.takeDue_offered ha hs hslot] at hexec
  have hagent : ((s.dropDeadline d.call).call d.call).agent = some a := by simpa using ha
  refine ⟨_, hexec, ?_, fun c hc => ?_, ?_, fun b hb => ?_, fun r => ?_, ?_, ?_, ?_, ?_⟩
  · simp [State.call_expireOffer hagent, State.rearm_eq, rearmed]
  · simp [State.call_expireOffer hagent, hc]
  · simp [State.agent_expireOffer hagent]
  · simp [State.agent_expireOffer hagent, hb]
  · rw [State.queue_settle, State.queue_refreshDeadline,
      State.queue_expireOffer hagent (q := q) (by simpa using hq) (by simpa using ho) (by simpa using hd),
      State.insertByKeys_congr (s := s) (by simp), State.agent_dropDeadline]
    simp
  · simp [State.workList_expireOffer hagent]
  · rw [State.events_settle, State.events_refreshDeadline, State.events_expireOffer hagent]
    simp only [State.call_dropDeadline, hq]
    exact State.events_post_congr (by simp) (by simp) (by simp) (by simp) ..
  · exact State.entryReinserted_of (State.entryFollows_congr
      (State.entryFollows_again (State.entryFollows_expireOffer hagent)) (by simp) (by simp) (by simp))
  · refine frame_settle (frame_refreshDeadline ?_ _ (by decide)) (by decide)
    exact (frame_dropDeadline (.refl ..) d.call (by decide)).into (State.expireOffer_frame hagent) (by decide)

end Sys2Proof.Machine
end

section
/-! SUPPORT. What the Match Engine chooses by: the best of a list by a strict order, the keys of the orders, and the agents
of a queue, longest idle first (04 R70 to R72). -/

namespace Sys2Proof.Machine

variable {α : Type} {s : State}

/-! ### The best of a list, and a list in order -/

theorem firstBy_mem {before : α → α → Bool} {l : List α} {x : α} (h : firstBy before l = some x) : x ∈ l := by
  induction l with
  | nil => simp [firstBy] at h
  | cons y ys ih =>
    unfold firstBy at h
    split at h
    · simp_all
    · next z hz =>
      split at h
      · obtain rfl := Option.some.inj h
        exact List.mem_cons_of_mem _ (ih hz)
      · simp_all

/-- What goes before every other element of a list, and behind none, is its first. -/
theorem firstBy_eq_some {before : α → α → Bool} {l : List α} {x : α} (hx : x ∈ l)
    (hbest : ∀ y ∈ l, y ≠ x → before x y = true ∧ before y x = false) : firstBy before l = some x := by
  induction l with
  | nil => cases hx
  | cons y ys ih =>
    have hys : ∀ z ∈ ys, z ≠ x → before x z = true ∧ before z x = false := fun z hz => hbest z (List.mem_cons_of_mem _ hz)
    unfold firstBy
    by_cases hin : x ∈ ys
    · rw [ih hin hys]
      by_cases hy : y = x
      · simp [hy]
      · simp [(hbest y List.mem_cons_self hy).1]
    · obtain rfl : x = y := (List.mem_cons.1 hx).resolve_right hin
      cases hfirst : firstBy before ys with
      | none => rfl
      | some z =>
        have hz := firstBy_mem hfirst
        have hne : z ≠ x := fun h => hin (h ▸ hz)
        simp [(hys z hz hne).2]

theorem mem_insertBy (before : α → α → Bool) (x y : α) (l : List α) : y ∈ insertBy before x l ↔ y = x ∨ y ∈ l := by
  induction l with
  | nil => simp [insertBy]
  | cons z zs ih =>
    unfold insertBy
    split
    · simp
    · simp only [List.mem_cons, ih, or_left_comm]

theorem mem_foldl_insertBy (before : α → α → Bool) (y : α) (l acc : List α) :
    y ∈ l.foldl (fun a x => insertBy before x a) acc ↔ y ∈ l ∨ y ∈ acc := by
  induction l generalizing acc with
  | nil => simp
  | cons x xs ih => simp only [List.foldl_cons, ih, mem_insertBy, List.mem_cons, or_assoc, or_left_comm]

section
variable {before : α → α → Bool} (htrans : ∀ x y z : α, before x y = true → before y z = true → before x z = true)
include htrans

/-- An insertion keeps a list in order, where the element goes before or behind each listed one. -/
theorem pairwise_insertBy {x : α} {l : List α} (hl : l.Pairwise fun y z => before y z = true)
    (htotal : ∀ y ∈ l, before x y = true ∨ before y x = true) :
    (insertBy before x l).Pairwise fun y z => before y z = true := by
  induction l with
  | nil => simp [insertBy]
  | cons y ys ih =>
    obtain ⟨hy, hys⟩ := List.pairwise_cons.1 hl
    unfold insertBy
    split
    · next hxy =>
      refine List.pairwise_cons.2 ⟨fun z hz => ?_, hl⟩
      rcases List.mem_cons.1 hz with rfl | hz
      · exact hxy
      · exact htrans x y z hxy (hy z hz)
    · next hxy =>
      have hyx := (htotal y List.mem_cons_self).resolve_left hxy
      refine List.pairwise_cons.2 ⟨fun z hz => ?_, ih hys fun z hz => htotal z (List.mem_cons_of_mem _ hz)⟩
      rcases (mem_insertBy ..).1 hz with rfl | hz
      · exact hyx
      · exact hy z hz

/-- Insertions one after another leave a list in order, where the order separates any two elements. -/
theorem pairwise_foldl_insertBy {l acc : List α} (hacc : acc.Pairwise fun y z => before y z = true)
    (hl : l.Pairwise fun x y => before x y = true ∨ before y x = true)
    (hboth : ∀ x ∈ l, ∀ y ∈ acc, before x y = true ∨ before y x = true) :
    (l.foldl (fun a x => insertBy before x a) acc).Pairwise fun y z => before y z = true := by
  induction l generalizing acc with
  | nil => exact hacc
  | cons x xs ih =>
    obtain ⟨hx, hxs⟩ := List.pairwise_cons.1 hl
    refine ih (pairwise_insertBy htrans hacc (hboth x List.mem_cons_self)) hxs fun z hz y hy => ?_
    rcases (mem_insertBy ..).1 hy with rfl | hy
    · exact (hx z hz).symm
    · exact hboth z (List.mem_cons_of_mem _ hz) y hy

end

/-! ### The orders of R70 to R72 -/

theorem age_inj {now t u : Tick} : age now t = age now u ↔ t = u := by
  unfold age; bv_omega

/-- The five keys by which a queue goes before another for an agent (R70). -/
def QueueFirst (s : State) (x y : Skill) : Prop :=
  let head := fun (k : Skill) => s.call ((s.queue k.queue).waiting.headD 0)
  let waited := fun (k : Skill) => age s.tick (head k).firstEntry
  let level := fun (k : Skill) => (s.queue k.queue).settings.arbitration
  x.level < y.level ∨ x.level = y.level ∧
    (level y < level x ∨ level x = level y ∧
      ((head y).priority < (head x).priority ∨ (head x).priority = (head y).priority ∧
        (waited y < waited x ∨ waited x = waited y ∧ x.queue < y.queue)))

theorem queueBefore_iff (x y : Skill) : s.queueBefore x y = true ↔ QueueFirst s x y := by
  unfold State.queueBefore QueueFirst
  simp only [← age_inj (now := s.tick), ne_eq]
  repeat' split
  all_goals simp only [decide_eq_true_eq]; omega

theorem QueueFirst.asymm {x y : Skill} (h : QueueFirst s x y) : ¬ QueueFirst s y x := by
  unfold QueueFirst at *
  dsimp only at *
  omega

/-- Longer idle, then the lower id (R71, R72). -/
def IdleFirst (s : State) (a b : Nat) : Prop :=
  let idle := fun (b : Nat) => age s.tick (s.agent b).stateEntry
  idle b < idle a ∨ idle a = idle b ∧ a < b

/-- The three keys by which an agent goes before another for a queue (R71). -/
def AgentFirst (s : State) (q a b : Nat) : Prop :=
  (s.agent a).level q < (s.agent b).level q ∨ (s.agent a).level q = (s.agent b).level q ∧ IdleFirst s a b

theorem idleBefore_iff (now : Tick) (x y : Nat × Agent) : idleBefore now x y = true ↔
    age now y.2.stateEntry < age now x.2.stateEntry ∨
      age now x.2.stateEntry = age now y.2.stateEntry ∧ x.1 < y.1 := by
  unfold idleBefore
  simp only [← age_inj (now := now), ne_eq]
  split
  all_goals simp only [decide_eq_true_eq]; omega

theorem idleBefore_trans (now : Tick) (x y z : Nat × Agent) (h : idleBefore now x y = true)
    (g : idleBefore now y z = true) : idleBefore now x z = true := by
  rw [idleBefore_iff] at *
  omega

/-- Two agents of different ids are in order one way or the other. -/
theorem idleBefore_total (now : Tick) {x y : Nat × Agent} (h : x.1 ≠ y.1) :
    idleBefore now x y = true ∨ idleBefore now y x = true := by
  rw [idleBefore_iff, idleBefore_iff]
  omega

theorem idleBefore_agents (a b : Nat) : idleBefore s.tick (a, s.agent a) (b, s.agent b) = true ↔ IdleFirst s a b :=
  idleBefore_iff ..

theorem agentBefore_agents (q a b : Nat) :
    agentBefore s.tick q (a, s.agent a) (b, s.agent b) = true ↔ AgentFirst s q a b := by
  unfold agentBefore AgentFirst
  by_cases h : (s.agent a).level q = (s.agent b).level q
  · simp [h, idleBefore_agents]
  · simp [h]

theorem AgentFirst.asymm {q a b : Nat} (h : AgentFirst s q a b) : ¬ AgentFirst s q b a := by
  unfold AgentFirst IdleFirst at *
  dsimp only at *
  omega

/-! ### The agents of a queue -/

/-- An AVAILABLE agent whose active list names a queue (R71, R72). -/
def EligibleAgent (s : State) (q a : Nat) : Prop := (s.agent a).state = .available ∧ (s.agent a).names q = true

theorem mem_freeAgents (hc : Canonical s) (q : Nat) (x : Nat × Agent) :
    x ∈ s.freeAgents q ↔ x.2 = s.agent x.1 ∧ EligibleAgent s q x.1 := by
  obtain ⟨-, -, hagents, -⟩ := hc
  unfold State.freeAgents EligibleAgent
  simp only [List.mem_filter, Bool.and_eq_true, decide_eq_true_eq]
  constructor
  · rintro ⟨hx, hfree⟩
    have hread : s.agent x.1 = x.2 := Table.read_mem Agent.cold hagents hx
    rw [hread]
    exact ⟨rfl, hfree⟩
  · rintro ⟨hread, hfree⟩
    have hlisted : s.agent x.1 ≠ Agent.cold := fun h => by rw [h] at hfree; exact absurd hfree.1 (by decide)
    have hmem : (x.1, s.agent x.1) ∈ s.agents := Table.mem_of_read Agent.cold hlisted
    rw [← hread] at hmem hfree
    exact ⟨hmem, hfree⟩

theorem freeAgents_eq_nil (hc : Canonical s) {q : Nat} (h : ∀ b, ¬ EligibleAgent s q b) : s.freeAgents q = [] :=
  List.eq_nil_iff_forall_not_mem.2 fun x hx => h x.1 ((mem_freeAgents hc q x).1 hx).2

theorem firstBy_freeAgents (hc : Canonical s) {q a : Nat} (ha : EligibleAgent s q a)
    (hbest : ∀ b, EligibleAgent s q b → b ≠ a → AgentFirst s q a b) :
    firstBy (agentBefore s.tick q) (s.freeAgents q) = some (a, s.agent a) := by
  refine firstBy_eq_some ((mem_freeAgents hc q _).2 ⟨rfl, ha⟩) ?_
  rintro ⟨b, g⟩ hb hne
  obtain ⟨hread, hfree⟩ := (mem_freeAgents hc q (b, g)).1 hb
  obtain rfl : g = s.agent b := hread
  have hfirst := hbest b hfree fun h => hne (by rw [h])
  rw [← Bool.not_eq_true, agentBefore_agents, agentBefore_agents]
  exact ⟨hfirst, hfirst.asymm⟩

theorem mem_idleOrder (hc : Canonical s) (q a : Nat) : a ∈ s.idleOrder q ↔ EligibleAgent s q a := by
  unfold State.idleOrder
  simp only [List.mem_map, mem_foldl_insertBy, mem_freeAgents hc, List.not_mem_nil, or_false]
  constructor
  · rintro ⟨x, ⟨-, hfree⟩, rfl⟩
    exact hfree
  · exact fun hfree => ⟨(a, s.agent a), ⟨rfl, hfree⟩, rfl⟩

theorem pairwise_idleOrder (hc : Canonical s) (q : Nat) : (s.idleOrder q).Pairwise (IdleFirst s) := by
  have hids : (s.freeAgents q).Pairwise fun x y => x.1 < y.1 :=
    (Table.wf_pairwise Agent.cold hc.2.2.1).sublist List.filter_sublist
  have hsorted := pairwise_foldl_insertBy (idleBefore_trans s.tick) (l := s.freeAgents q) .nil
    (hids.imp fun h => idleBefore_total s.tick (Nat.ne_of_lt h)) (by simp)
  unfold State.idleOrder
  refine List.pairwise_map.2 (hsorted.imp_of_mem fun {x y} hx hy h => ?_)
  simp only [mem_foldl_insertBy, mem_freeAgents hc, List.not_mem_nil, or_false] at hx hy
  rwa [← idleBefore_agents, ← hx.1, ← hy.1]

end Sys2Proof.Machine
end

section
/-! SUPPORT. A trigger taken: the best pair proposed, a queue's trigger expanded, or the trigger dropped (04 R68 to R72). -/

namespace Sys2Proof.Machine

variable {s : State}

/-! ### A trigger taken (R68) -/

theorem engineReady_active (hactive : s.part.state = .active) (hnone : s.engine.proposal = none)
    (hroom : s.events.dispatch.length < 128) : s.engineReady = true := by
  unfold State.engineReady Config.dispatchDepth
  simp [hactive, hnone, hroom]

section
variable {rest : List Trigger} (hawake : s.path.resetAsserted = false) (hready : s.engineReady = true)
include hawake hready

theorem exec_agentTrigger {a : Nat} (hfront : s.engine.workList = .agent a :: rest) :
    exec .agentTrigger s = .next (s.serve (s.agentChoice a)).settle := by
  show execAgentTrigger s = _
  unfold execAgentTrigger
  rw [event_awake _ hawake]
  simp only [hfront, hready, if_true]

theorem exec_callTrigger {c : Nat} (hfront : s.engine.workList = .call c :: rest) :
    exec .callTrigger s = .next (s.serve (s.callChoice c)).settle := by
  show execCallTrigger s = _
  unfold execCallTrigger
  rw [event_awake _ hawake]
  simp only [hfront, hready, if_true]

theorem exec_queueTrigger {q : Nat} (hfront : s.engine.workList = .queue q :: rest) :
    exec .queueTrigger s = .next (s.popTrigger.expand q).settle := by
  show execQueueTrigger s = _
  unfold execQueueTrigger
  rw [event_awake _ hawake]
  simp only [hfront, hready, if_true]

end

section
variable {i : Instr} {choice : Option Proposal} {g : Trigger} {rest : List Trigger}
  (hserve : exec i s = .next (s.serve choice).settle) (hfront : s.engine.workList = g :: rest)
include hserve hfront

/-- A trigger without a choice is dropped (R70, R71). -/
theorem serve_drops (hchoice : choice = none) :
    ∃ t, exec i s = .next t ∧ t.engine.workList = rest ∧ Changes [.workList, .passCount] s t := by
  subst hchoice
  refine ⟨_, hserve, ?_, ?_⟩ <;> unfold State.serve
  · simp [hfront]
  · simp [Changes.refl]

/-- A trigger with a choice leaves a proposal that holds the reservation (R69, R73). -/
theorem serve_proposes {p : Proposal} (hchoice : choice = some p) :
    ∃ t, exec i s = .next t ∧ t.engine.workList = rest ∧ t.engine.proposal = some p ∧ t.engine.reserved = true ∧
      Changes [.workList, .proposal, .passCount] s t := by
  subst hchoice
  refine ⟨_, hserve, ?_, ?_, ?_, ?_⟩ <;> unfold State.serve
  · simp [hfront, State.propose]
  · simp [State.propose]
  · simp [State.propose]
  · exact frame_settle (frame_propose (frame_popTrigger (.refl ..) (by simp)) _ (by simp)) (by simp)

end

/-! ### The choices of R70 and R71 -/

/-- A queue of the agent's active list, not PAUSED, with a waiting call (R70). -/
def EligibleQueue (s : State) (a : Nat) (k : Skill) : Prop :=
  k ∈ (s.agent a).skills ∧ (s.queue k.queue).paused = false ∧ (s.queue k.queue).waiting ≠ []

theorem mem_eligibleQueues (a : Nat) (k : Skill) : k ∈ s.eligibleQueues a ↔ EligibleQueue s a k := by
  unfold State.eligibleQueues EligibleQueue
  simp

theorem agentChoice_none {a : Nat} (h : (s.agent a).state ≠ .available ∨ ∀ k, ¬ EligibleQueue s a k) :
    s.agentChoice a = none := by
  unfold State.agentChoice
  split
  · rfl
  · next hfree =>
    have hempty : s.eligibleQueues a = [] := List.eq_nil_iff_forall_not_mem.2 fun k hk =>
      h.resolve_left hfree k ((mem_eligibleQueues a k).1 hk)
    simp only [hempty, firstBy]

theorem agentChoice_best {a c : Nat} {k : Skill} (hfree : (s.agent a).state = .available) (hk : EligibleQueue s a k)
    (hbest : ∀ j, EligibleQueue s a j → j ≠ k → QueueFirst s k j) (hc : (s.queue k.queue).waiting.head? = some c) :
    s.agentChoice a = some { call := c, agent := a, queue := k.queue, trigger := .agent a } := by
  have hfirst : firstBy s.queueBefore (s.eligibleQueues a) = some k := by
    refine firstBy_eq_some ((mem_eligibleQueues a k).2 hk) fun j hj hne => ?_
    have hkj := hbest j ((mem_eligibleQueues a j).1 hj) hne
    rw [← Bool.not_eq_true, queueBefore_iff, queueBefore_iff]
    exact ⟨hkj, hkj.asymm⟩
  unfold State.agentChoice
  simp [hfree, hfirst, hc]

theorem callChoice_notQueued {c : Nat} (h : (s.call c).state ≠ .queued) : s.callChoice c = none := by
  unfold State.callChoice
  split
  · contradiction
  · rfl

section
variable {c q : Nat} (hs : (s.call c).state = .queued) (hq : (s.call c).currentQueue = some q)
include hs hq

theorem callChoice_none (hc : Canonical s) (h : (s.queue q).paused = true ∨ ∀ b, ¬ EligibleAgent s q b) :
    s.callChoice c = none := by
  unfold State.callChoice
  simp only [hs, hq]
  split
  · rfl
  · next hpaused => simp only [freeAgents_eq_nil hc (h.resolve_left hpaused), firstBy]

theorem callChoice_best (hc : Canonical s) (hpaused : (s.queue q).paused = false) {a h : Nat} (ha : EligibleAgent s q a)
    (hbest : ∀ b, EligibleAgent s q b → b ≠ a → AgentFirst s q a b) (hh : (s.queue q).waiting.head? = some h) :
    s.callChoice c = some { call := h, agent := a, queue := q, trigger := .call c } := by
  unfold State.callChoice
  simp [hs, hq, hpaused, firstBy_freeAgents hc ha hbest, hh]

end

/-- Settles O43: each clause is what the trigger's choice is, which the engine drops or proposes. -/
theorem triggersChooseTheBestPair : Obligations.TriggersChooseTheBestPair := by
  refine ⟨fun s a rest hawake hactive hnone hroom hfront => ?_, fun s c rest hc hawake hactive hnone hroom hfront => ?_⟩
  · have hserve := exec_agentTrigger hawake (engineReady_active hactive hnone hroom) hfront
    intro eligible head waited level before
    refine ⟨fun h => serve_drops hserve hfront (agentChoice_none h), fun hfree k hk hbest => ?_⟩
    have hhead := List.head?_eq_some_head hk.2.2
    obtain ⟨t, hexec, hrest⟩ := serve_proposes hserve hfront (agentChoice_best hfree hk hbest hhead)
    exact ⟨t, _, hexec, hhead, hrest⟩
  · have hserve := exec_callTrigger hawake (engineReady_active hactive hnone hroom) hfront
    intro eligible idle before dropped
    refine ⟨fun h => serve_drops hserve hfront (callChoice_notQueued h), fun q hs hq => ⟨fun h => ?_, ?_⟩⟩
    · exact serve_drops hserve hfront (callChoice_none hs hq hc h)
    · intro hpaused a h ha hbest hh
      exact serve_proposes hserve hfront (callChoice_best hs hq hc hpaused ha hbest hh)

/-! ### The expansion of a queue trigger (R72) -/

theorem workList_foldl_addTrigger (l : List Nat) (s : State) :
    (l.foldl (fun s a => s.addTrigger (.agent a)) s).engine.workList =
      l.foldl (fun w a => withTrigger w (.agent a)) s.engine.workList := by
  induction l generalizing s with
  | nil => rfl
  | cons a l ih => rw [List.foldl_cons, List.foldl_cons, ih, State.workList_addTrigger]; rfl

theorem frame_foldl_addTrigger {cs : List Component} {t : State} (h : Changes cs s t) (hw : .workList ∈ cs) (l : List Nat) :
    Changes cs s (l.foldl (fun s a => s.addTrigger (.agent a)) t) := by
  induction l generalizing t with
  | nil => exact h
  | cons a l ih => exact ih (frame_addTrigger h _ hw)

theorem expand_paused {q : Nat} (h : (s.queue q).paused = true) : s.expand q = s := if_pos h

theorem expand_unpaused {q : Nat} (h : (s.queue q).paused = false) :
    s.expand q = (s.idleOrder q).foldl (fun s a => s.addTrigger (.agent a)) s := if_neg (by simp [h])

theorem idleOrder_popTrigger (q : Nat) : s.popTrigger.idleOrder q = s.idleOrder q := rfl

/-- Settles O44: the expansion adds the triggers of the agents in longest-idle order. -/
theorem queueTriggersExpand : Obligations.QueueTriggersExpand := by
  intro s q rest hc hawake hactive hnone hroom hfront idle
  have hexec := exec_queueTrigger hawake (engineReady_active hactive hnone hroom) hfront
  have hpop : Changes [.workList, .passCount] s s.popTrigger := frame_popTrigger (.refl ..) (by simp)
  refine ⟨fun hpaused => ?_, fun hpaused => ?_⟩
  · rw [expand_paused (s := s.popTrigger) hpaused] at hexec
    exact ⟨_, hexec, by simp [hfront], frame_settle hpop (by simp)⟩
  · rw [expand_unpaused (s := s.popTrigger) hpaused, idleOrder_popTrigger] at hexec
    refine ⟨_, s.idleOrder q, hexec, mem_idleOrder hc q, pairwise_idleOrder hc q, ?_, ?_⟩
    · rw [State.engine_settle]
      have hlist := workList_foldl_addTrigger (s.idleOrder q) s.popTrigger
      rw [State.engine_popTrigger, hfront] at hlist
      exact hlist
    · exact frame_settle (frame_foldl_addTrigger hpop (by simp) _) (by simp)

end Sys2Proof.Machine
end

section
/-! SUPPORT. EXTEND_WRAP: the sum held to the wrap ceiling (05 R89). -/

namespace Sys2Proof.Machine

variable {s : State} {e : IntakeEntry}

/-! ### The ranges of a byte and a halfword of a record (R166) -/

theorem byteField_lt (ws : List Word) (o : Nat) : byteField ws o < 256 := Nat.mod_lt _ (by decide)

theorem halfField_lt (ws : List Word) (o : Nat) : halfField ws o < 65536 := Nat.mod_lt _ (by decide)

/-! ### EXTEND_WRAP (R89) -/

theorem extendWrapBody_wrongState (h : (s.agent e.index).state ≠ .wrapUp) : extendWrapBody e s = (.wrongState, s) := if_pos h

/-- R89 in WRAP_UP: the sum where it stands within the ceiling, and the ceiling where it exceeds it. -/
theorem extendWrapBody_wrapUp (h : (s.agent e.index).state = .wrapUp) :
    let sum := (s.agent e.index).wrapRemaining + agentExtension e.snapshot
    extendWrapBody e s = (if sum ≤ s.part.config.wrapCeiling then .ok else .okClamped,
      s.setAgent e.index
        { s.agent e.index with
          wrapRemaining := if sum ≤ s.part.config.wrapCeiling then sum else s.part.config.wrapCeiling }) := by
  intro sum
  unfold extendWrapBody
  simp only [h, ne_eq, not_true_eq_false, if_false]
  by_cases hsum : sum ≤ s.part.config.wrapCeiling
  · rw [if_neg (Nat.not_lt.2 hsum), if_pos hsum, if_pos hsum]
  · rw [if_pos (Nat.lt_of_not_le hsum), if_neg hsum, if_neg hsum]

/-- Settles O7: the agent's state decides between the two answers, and the extension is a halfword of the snapshot. -/
theorem extendWrapLengthensARunningWrapUp : Obligations.ExtendWrapLengthensARunningWrapUp := by
  refine fun s e ht => ⟨fun hs => ?_, fun hs => ?_, Nat.le_of_lt_succ (halfField_lt ..)⟩
  · intro sum
    obtain ⟨t, hexec, hown, hrest⟩ := agentCommand_sets ht (extendWrapBody_wrapUp (by rwa [agentState_handed]))
    refine ⟨t, hexec, ?_, hrest⟩
    rw [hown, ownAgent_handed ht.1.kind, part_dropEntry]
    rfl
  · exact recordCommand_refused ht (extendWrapBody_wrongState (by rwa [agentState_handed]))

end Sys2Proof.Machine
end

section
/-! SUPPORT. ENABLE: the fields of the configuration block, and the latch of the configuration with its validation (05 R86; 08
R135; 09 R151, R152, R154, R167). -/

namespace Sys2Proof.Machine

variable {s : State} {e : IntakeEntry}

/-! ### The configuration block (R167) -/

theorem Staging.length_configWords (g : Staging) : g.configWords.length = 64 := by simp [Staging.configWords]

theorem Staging.getD_configWords (g : Staging) {w : Nat} (hw : w < 64) :
    g.configWords.getD w 0 = Table.read 0 g.config w := getD_map_range _ _ _ _ hw

theorem length_feeds_configOf (ws : List Word) : (configOf ws).feeds.length = 4 := by simp [configOf]

theorem feeds_configOf (ws : List Word) {f : Nat} (hf : f < 4) : (configOf ws).feeds.getD f {} = feedConfigOf ws f :=
  getD_map_range _ _ _ _ hf

/-- A byte-wide field of the active configuration holds the whole byte. -/
theorem toNat_ofNat_byteField (ws : List Word) (o : Nat) : (BitVec.ofNat 8 (byteField ws o)).toNat = byteField ws o := by
  rw [BitVec.toNat_ofNat, Nat.mod_eq_of_lt (byteField_lt ws o)]

/-- R135's range of a feed's delay: 64 first, then the smaller of 4,096 and the ring size less 64. -/
theorem delay_feedConfigOf (ws : List Word) (f : Nat) :
    let x := feedConfigOf ws f
    let delay := halfField ws (0x20 + 16 * f + 0x0C)
    x.delay = if delay < 64 then 64 else min delay (min 4096 (x.ringEnd.toNat - x.ringStart.toNat - 64)) := by
  intro x delay
  show (if delay < 64 then 64 else
    if min 4096 (x.ringEnd.toNat - x.ringStart.toNat - 64) < delay then
      min 4096 (x.ringEnd.toNat - x.ringStart.toNat - 64) else delay) = _
  generalize min 4096 (x.ringEnd.toNat - x.ringStart.toNat - 64) = bound
  by_cases hb : bound < delay
  · rw [if_pos hb, Nat.min_eq_right (Nat.le_of_lt hb)]
  · rw [if_neg hb, Nat.min_eq_left (Nat.le_of_not_lt hb)]

/-! ### The latch of the configuration (R152) -/

/-- The part with its configuration staging latched and its first loading read to come, queue record 0 (R152, R153). -/
def State.configLatched (s : State) : State :=
  { s with
    part := { s.part with
      state := .loading, error := .none, config := configOf s.staging.configWords, phase := .records
      cursor := some { table := .queue, index := 0, word := 0 }, restartToken := none } }

theorem latchConfig_valid (h : validate s.path.straps (configOf s.staging.configWords) = .none) :
    s.latchConfig = (.ok, s.configLatched) := by
  unfold State.latchConfig; simp only [h]; rfl

theorem latchConfig_invalid (h : validate s.path.straps (configOf s.staging.configWords) ≠ .none) :
    s.latchConfig = (.configError,
      s.configLatched.failLoading (validate s.path.straps (configOf s.staging.configWords))) := by
  unfold State.latchConfig
  dsimp only
  split
  · next hvalid => exact absurd hvalid h
  · rfl

/-- What a latch may change of the part control. -/
def latching : List Component := [.partState, .configError, .config, .loading]

/-- A part control that keeps its result. -/
theorem changes_latching (s : State) (p : PartControl) (h : p.result = s.part.result) :
    Changes latching s { s with part := p } := by
  constructor; intro k hk; cases k <;> simp_all [Component.agree, latching]

theorem changes_configLatched : Changes latching s s.configLatched := changes_latching s _ rfl

theorem changes_dropLive_failLoading (err : ConfigError) : Changes latching s.dropLive (s.failLoading err) :=
  changes_latching s.dropLive _ rfl

theorem changes_failLoading (err : ConfigError) : Changes (latching ++ liveState) s (s.failLoading err) :=
  (State.frame_dropLive s (.refl ..) (by simp +contextual)).into (changes_dropLive_failLoading err) (by simp +contextual)

theorem liveDropped_failLoading (h : Canonical s) (err : ConfigError) : LiveDropped s (s.failLoading err) :=
  (State.liveDropped_dropLive s h).after (changes_dropLive_failLoading err) (by decide)

theorem feedsOff_failLoading (h : Canonical s) (err : ConfigError) : FeedsOff s (s.failLoading err) :=
  (State.feedsOff_dropLive s h).after rfl

/-! ### ENABLE (R151) -/

theorem enableBody_wrongState (h : s.part.state ≠ .pass) : enableBody e s = (.wrongState, s) := if_pos h

theorem enableBody_pass (h : s.part.state = .pass) : enableBody e s = s.latchConfig := if_neg (by simp [h])

/-- An ENABLE handed over in PASS ends as the latch ends, with the latch's result written last. -/
theorem enable_pass (h : Handed s e .part 1) (hpass : s.part.state = .pass) {r : ResultCode} {u : State}
    (hlatch : s.dropOldest.latchConfig = (r, u)) : exec .enable s = .next (u.setPartResult (e.answer r)).settle := by
  have hexec := partCommand_answering (allowed := anyState) h rfl enableBody
  rw [enableBody_pass (s := s.dropOldest) hpass, hlatch] at hexec
  exact hexec

theorem changes_dropOldest (s : State) : Changes [.intake] s s.dropOldest := frame_dropOldest (.refl ..) (by simp)

theorem changes_answered (s : State) (r : CommandResult) : Changes [.partResult, .passCount] s (s.setPartResult r).settle :=
  frame_settle (frame_setPartResult (.refl ..) _ (by simp)) (by simp)

/-- Settles O21: the block's fields one by one, then ENABLE outside PASS, with a valid configuration and with an invalid
one. -/
theorem enableLatchesAndValidates : Obligations.EnableLatchesAndValidates := by
  refine ⟨fun g ws f => ?_, fun s e h => ⟨fun hpass => ?_, fun hpass hvalid => ?_, fun err hpass herr hinvalid hc => ?_⟩⟩
  · dsimp only
    refine ⟨g.length_configWords, fun w hw => g.getD_configWords hw, rfl, rfl, rfl, BitVec.toNat_ofNat ..,
      toNat_ofNat_byteField .., toNat_ofNat_byteField .., rfl, length_feeds_configOf ws, fun hf => ?_⟩
    rw [feeds_configOf ws hf]
    exact ⟨rfl, rfl, beq_iff_eq, BitVec.toNat_ofNat .., rfl, rfl, delay_feedConfigOf ws f⟩
  · exact partCommand_refused h rfl (enableBody_wrongState hpass)
  · refine ⟨_, enable_pass h hpass (latchConfig_valid hvalid), ?_⟩
    rw [State.part_settle, State.intake_settle]
    refine ⟨rfl, rfl, ?_⟩
    exact (((changes_dropOldest s).mono (by simp)).into changes_configLatched (by simp [latching])).into (changes_answered ..)
      (by simp)
  · subst herr
    have hlatched := changes_configLatched (s := s.dropOldest)
    have hcanonical : Canonical s.dropOldest.configLatched := canonical_part _ (canonical_intake _ hc)
    refine ⟨_, enable_pass h hpass (latchConfig_invalid (s := s.dropOldest) hinvalid), ?_⟩
    rw [State.part_settle, State.intake_settle]
    refine ⟨rfl, rfl, rfl, rfl, rfl, rfl, rfl, ?_, ?_, rfl, ?_⟩
    · exact (((liveDropped_failLoading hcanonical _).before hlatched (by decide)).before (changes_dropOldest s) (by decide)).after
        (changes_answered ..) (by decide)
    · exact (((feedsOff_failLoading hcanonical _).before rfl).before rfl).after
        ((changes_answered ..).keeps .feeds (by decide))
    · exact ((((changes_dropOldest s).mono (by simp)).into hlatched (by simp [latching])).into (changes_failLoading _)
        (by simp +contextual [latching])).into (changes_answered ..) (by simp)

end Sys2Proof.Machine
end

section
/-! SUPPORT. The Wait Estimator: a sample smoothed into H, and a queue's EWT republished with the alarm check (06 R97 to R100,
R104). -/

namespace Sys2Proof.Machine

variable {s : State}

/-! ### A sample (R97, R98) -/

/-- A quotient rounded toward zero, of a dividend that is not negative. -/
theorem tdiv_bounds {d p : Int} (hp : 0 < p) (hd : 0 ≤ d) :
    0 ≤ d.tdiv p ∧ p * d.tdiv p ≤ d ∧ d < p * (d.tdiv p + 1) := by
  have hsum : p * d.tdiv p + d.tmod p = d := Int.mul_tdiv_add_tmod d p
  have hlow : 0 ≤ d.tmod p := Int.tmod_nonneg p hd
  have hhigh : d.tmod p < p := Int.tmod_lt_of_pos d hp
  rw [Int.mul_add, Int.mul_one]
  exact ⟨Int.tdiv_nonneg hd (Int.le_of_lt hp), by omega, by omega⟩

/-- The same from the other side: the quotient of the opposite dividend is the opposite quotient. -/
theorem tdiv_bounds_of_nonpos {d p : Int} (hp : 0 < p) (hd : d ≤ 0) :
    d.tdiv p ≤ 0 ∧ d ≤ p * d.tdiv p ∧ p * (d.tdiv p - 1) < d := by
  obtain ⟨hsign, hlow, hhigh⟩ := tdiv_bounds hp (Int.neg_nonneg_of_nonpos hd)
  rw [Int.neg_tdiv] at hsign hlow hhigh
  rw [Int.mul_neg] at hlow
  rw [Int.mul_add, Int.mul_neg, Int.mul_one] at hhigh
  rw [Int.mul_sub, Int.mul_one]
  exact ⟨by omega, by omega, by omega⟩

theorem smooth_eq (h n k : Nat) :
    (smooth h n k : Int) = min (max ((h : Int) + (16 * (n : Int) - (h : Int)).tdiv (2 ^ k)) 0) 1048560 :=
  Int.toNat_of_nonneg (Int.le_min.2 ⟨Int.le_max_right _ _, by decide⟩)

/-- The state without sample `i` of the samples handed over. -/
def State.withoutSample (s : State) (i : Nat) : State := { s with samples := s.samples.eraseIdx i }

namespace State

@[simp] theorem queue_withoutSample (i q : Nat) : (s.withoutSample i).queue q = s.queue q := rfl

@[simp] theorem samples_withoutSample (i : Nat) : (s.withoutSample i).samples = s.samples.eraseIdx i := rfl

theorem frame_withoutSample (i : Nat) {cs : List Component} (h : .samples ∈ cs) : Changes cs s (s.withoutSample i) :=
  frame_samples (.refl ..) _ h

theorem takeSample_idle {x : Sample} (h : (s.queue x.queue).state = .idle) : s.takeSample x = s := if_pos h

theorem takeSample_smooths {x : Sample} (h : (s.queue x.queue).state ≠ .idle) :
    s.takeSample x = s.setQueue x.queue
      { s.queue x.queue with
        handle := smooth (s.queue x.queue).handle x.ticks (s.queue x.queue).settings.shift } := if_neg h

end State

theorem handleTimeSample_taken {i : Nat} {x : Sample} (hawake : s.path.resetAsserted = false)
    (hx : s.samples[i]? = some x) : exec (.handleTimeSample i) s = .next ((s.withoutSample i).takeSample x).settle := by
  show execHandleTimeSample i s = _
  unfold execHandleTimeSample
  rw [event_awake _ hawake, hx]
  rfl

/-- Settles O41: the smoothed value is the truncated quotient added, held to its range. -/
theorem samplesAreSmoothed : Obligations.SamplesAreSmoothed := by
  intro s i x hawake hx q d p
  have hexec := handleTimeSample_taken hawake hx
  refine ⟨fun hidle => ?_, fun hlive => ?_⟩
  · rw [State.takeSample_idle (by simpa using hidle)] at hexec
    exact ⟨_, hexec, by simp, frame_settle (State.frame_withoutSample i (by simp)) (by simp)⟩
  · rw [State.takeSample_smooths (by simpa using hlive)] at hexec
    have hp : 0 < p := Int.pow_pos (by decide)
    refine ⟨_, d.tdiv p, hexec, by simp, tdiv_bounds hp, tdiv_bounds_of_nonpos hp, ?_, by simp [q],
      fun r hr => by simp [hr], ?_⟩
    · rw [State.queue_settle, State.queue_setQueue, if_pos rfl]
      exact smooth_eq ..
    · exact frame_settle (frame_setQueue (State.frame_withoutSample i (by simp)) _ _ (by simp)) (by simp)

/-! ### A tick (R99, R100, R104) -/

theorem ewtRepublish_due {n : Nat} (hn : n < 64) (hawake : s.path.resetAsserted = false)
    (hdue : (s.queue n).ticksTaken ≠ s.tick) : exec (.ewtRepublish n) s = .next (s.republish n).settle := by
  show execEwtRepublish n s = _
  unfold execEwtRepublish
  rw [if_neg (show ¬ Config.numQueues ≤ n from Nat.not_le.2 hn), event_awake _ hawake,
    if_pos (show s.queueTickDue n = true from bne_iff_ne.2 hdue)]

/-- The EWT, without staff and with (R100). -/
theorem expectedWait_eq {p h n ewt : Nat}
    (hewt : n = 0 ∧ ewt = 65535 ∨ 0 < n ∧ ewt = min ((p * h + 16 * n - 1) / (16 * n)) 65535) :
    expectedWait p h n = ewt := by
  unfold expectedWait
  rcases hewt with ⟨hn, rfl⟩ | ⟨hn, rfl⟩
  · rw [if_pos hn]; rfl
  · rw [if_neg (Nat.ne_of_gt hn)]; rfl

namespace Queue

variable (q : Queue) (ewt : Nat)

/-- The queue with its tick counted (log 4) and an EWT published. -/
def published : Queue := { q with ticksTaken := q.ticksTaken + 1, ewt := ewt }

variable {q ewt}

theorem alarmAfter_rises (h : q.alarm = .normal) (hover : q.settings.upper ≠ 0 ∧ q.settings.upper < ewt) :
    q.alarmAfter ewt = .high := by
  unfold alarmAfter; rw [h]; exact if_pos hover

theorem alarmAfter_falls (h : q.alarm = .high) (hunder : ewt < q.settings.lower) : q.alarmAfter ewt = .normal := by
  unfold alarmAfter; rw [h]; exact if_pos hunder

theorem alarmAfter_stays (h : q.alarm = .normal ∧ ¬ (q.settings.upper ≠ 0 ∧ q.settings.upper < ewt) ∨
    q.alarm = .high ∧ ¬ ewt < q.settings.lower) : q.alarmAfter ewt = q.alarm := by
  unfold alarmAfter
  rcases h with ⟨h, hin⟩ | ⟨h, hin⟩
  · rw [h]; exact if_neg hin
  · rw [h]; exact if_neg hin

end Queue

namespace State

variable {n ewt : Nat}

theorem republish_idle (h : (s.queue n).state = .idle) :
    s.republish n = s.setQueue n { s.queue n with ticksTaken := (s.queue n).ticksTaken + 1 } := if_pos h

/-- The alarm keeps its state: the EWT alone is new. -/
theorem republish_stays (h : (s.queue n).state ≠ .idle)
    (hewt : expectedWait (s.queue n).nextPosition (s.queue n).handle (s.queue n).staffed = ewt)
    (hstays : (s.queue n).alarmAfter ewt = (s.queue n).alarm) :
    s.republish n = s.setQueue n ((s.queue n).published ewt) := by
  unfold republish
  dsimp only
  rw [if_neg h, hewt, if_pos hstays, hstays]
  rfl

/-- The alarm changes, and its notice carries the EWT (R104). -/
theorem republish_turns {now : Alarm} (h : (s.queue n).state ≠ .idle)
    (hewt : expectedWait (s.queue n).nextPosition (s.queue n).handle (s.queue n).staffed = ewt)
    (hnow : (s.queue n).alarmAfter ewt = now) (hturns : now ≠ (s.queue n).alarm) :
    s.republish n = (s.setQueue n { (s.queue n).published ewt with alarm := now }).post .queue
      (if now = .high then .ewtHigh else .ewtNormal) none none (some n) ewt := by
  unfold republish
  dsimp only
  rw [if_neg h, hewt, hnow, if_neg hturns]
  rfl

theorem frame_republish {cs : List Component} {r : State} (h : Changes cs r s) (n : Nat) (hq : .queues ∈ cs)
    (hd : .dispatch ∈ cs) (hn : .notices ∈ cs) (hseq : .sequence ∈ cs) (hsum : .summaries ∈ cs) (hl : .lost ∈ cs) :
    Changes cs r (s.republish n) := by
  unfold republish
  dsimp only
  split
  · exact frame_setQueue h _ _ hq
  · split
    · exact frame_setQueue h _ _ hq
    · exact frame_post (frame_setQueue h _ _ hq) _ _ _ _ _ _ hd hn hseq hsum hl

/-- The other queues stand as they stood. -/
theorem queue_republish {r : Nat} (hr : r ≠ n) : (s.republish n).queue r = s.queue r := by
  unfold republish
  dsimp only
  split
  · simp [hr]
  · split <;> simp [hr]

end State

/-- Settles O42: the queue's tick by the alarm's three outcomes. -/
theorem ticksRepublishTheWait : Obligations.TicksRepublishTheWait := by
  intro s n hn hawake hdue q place
  have hexec := ewtRepublish_due hn hawake hdue
  refine ⟨fun hidle => ?_, fun hlive ewt hewt => ?_⟩
  · rw [State.republish_idle hidle] at hexec
    exact ⟨_, hexec, by simp [q], fun r hr => by simp [hr], by simp [Changes.refl]⟩
  · have hwait : expectedWait q.nextPosition q.handle q.staffed = ewt := expectedWait_eq hewt
    have posted (z : Queue) (kind : EventKind) :
        ((s.setQueue n z).post .queue kind none none (some n) ewt).events =
          (s.post .queue kind none none (some n) ewt).events :=
      State.events_post_congr (s := s) (u := s.setQueue n z) rfl rfl rfl rfl ..
    refine ⟨_, hexec, fun r hr => (State.queue_settle ..).trans (State.queue_republish hr), ?_, fun halarm hover => ?_,
      fun halarm hunder => ?_, fun hstays => ?_⟩
    · exact frame_settle (State.frame_republish (.refl ..) n (by simp) (by decide) (by decide) (by decide) (by decide)
        (by decide)) (by simp)
    · rw [State.republish_turns hlive hwait (Queue.alarmAfter_rises halarm hover) (fun h => nomatch h.trans halarm)]
      exact ⟨by simp [Queue.published, q], (State.events_settle _).trans (posted ..)⟩
    · rw [State.republish_turns hlive hwait (Queue.alarmAfter_falls halarm hunder) (fun h => nomatch h.trans halarm)]
      exact ⟨by simp [Queue.published, q], (State.events_settle _).trans (posted ..)⟩
    · rw [State.republish_stays hlive hwait (Queue.alarmAfter_stays hstays)]
      exact ⟨by simp [Queue.published, q], by simp⟩

end Sys2Proof.Machine
end

section
/-! SUPPORT. Beginning a program step and resuming a saved one, kind by kind (06 R101 to R103; 07 R112, R115 to R121). -/

namespace Sys2Proof.Machine

theorem Context.fallBack_defined (x : Context) {g : Segment} (n : Nat) (h : g.defined = true) :
    x.fallBack g n =
      { x with source := .segment, segment := g, position := if n < g.length then n else g.loopStart } := if_pos h

theorem Context.fallBack_silent (x : Context) {g : Segment} (n : Nat) (h : ¬ g.defined = true) :
    x.fallBack g n = { x with source := .silence, position := 0 } := if_neg h

theorem ProgramStep.keepsPlace_iff (g : ProgramStep) :
    g.keepsPlace = true ↔ g.kind = .play ∨ g.kind = .quiet ∨ g.kind = .tone ∨ g.kind = .feed := by
  unfold keepsPlace
  cases g.kind <;> simp

namespace State

variable {s : State} {k : Nat}

/-! ### One act, and what follows it -/

theorem control_of_beginStep {i : Nat} {u : State} {a : Control} (h : s.beginStep k i = (u, a)) :
    s.control k (.begin i) = u.control k a := by
  rw [control_begins, h]

theorem control_of_resumeStep {r : ReturnRecord} {u : State} {a : Control} (h : s.resumeStep k r = (u, a)) :
    s.control k (.resume r) = u.control k a := by
  rw [control_resumes, h]

theorem control_of_returnStep {r : ReturnRecord} {u : State} {a : Control} (h : s.returnStep k r = (u, a)) :
    s.control k (.returned r) = u.control k a := by
  rw [control_returns, h]

theorem control_begin_cases {i : Nat} {P : Prop} [Decidable P] {a b : State × Control}
    (h : s.beginStep k i = if P then a else b) :
    (P → s.control k (.begin i) = a.1.control k a.2) ∧ (¬ P → s.control k (.begin i) = b.1.control k b.2) :=
  ⟨fun hp => control_of_beginStep (h.trans (if_pos hp)), fun hp => control_of_beginStep (h.trans (if_neg hp))⟩

theorem control_resume_cases {r : ReturnRecord} {P : Prop} [Decidable P] {a b : State × Control}
    (h : s.resumeStep k r = if P then a else b) :
    (P → s.control k (.resume r) = a.1.control k a.2) ∧ (¬ P → s.control k (.resume r) = b.1.control k b.2) :=
  ⟨fun hp => control_of_resumeStep (h.trans (if_pos hp)), fun hp => control_of_resumeStep (h.trans (if_neg hp))⟩

/-- The stop with BAD_STEP (R115), as the whole of what control did. -/
theorem contextEnded_badStep {u : State} (h : u = (s.badStep k).control k .done) :
    ContextEnded s u k .playout .playoutFault 1 :=
  contextEnded_of k _ _ _ h

/-! ### The place in line, and the entry a SAY step chooses (R101 to R103) -/

theorem sayPlace_none {c : Nat} (hq : (s.call c).state ≠ .queued) (ho : (s.call c).state ≠ .offered) :
    s.sayPlace c = none := by
  unfold sayPlace
  cases h : (s.call c).state with
  | queued => exact absurd h hq
  | offered => exact absurd h ho
  | free => rfl
  | connected => rfl
  | agentHold => rfl

theorem sayPlace_inLine {c q n : Nat} (h : InLine s c q n) : s.sayPlace c = some (q, n) := by
  obtain ⟨hqueue, ⟨hstate, rfl⟩ | ⟨hstate, rfl⟩⟩ := h
  · unfold sayPlace position
    rw [hstate, hqueue]
    rfl
  · unfold sayPlace
    rw [hstate, hqueue]

/-- The step that a beginning or a resumption at index `i` reads (R114). -/
def stepOf (s : State) (k i : Nat) : ProgramStep := (s.program (s.context k).program).steps.getD i {}

/-- The entry that a SAY step at index `i` plays, or none when it is passed over. -/
def sayChoice (s : State) (k i : Nat) : Option Nat :=
  if (s.stepOf k i).kind = .sayWait then s.sayWaitSegment (s.context k).call (s.program (s.context k).program)
  else s.sayPositionSegment (s.context k).call (s.program (s.context k).program)

theorem sayChoice_none (i : Nat) (h : s.sayPlace (s.context k).call = none) : s.sayChoice k i = none := by
  unfold sayChoice sayWaitSegment sayPositionSegment
  rw [h]
  exact ite_self _

theorem sayChoice_inLine (i : Nat) {q n : Nat} (h : InLine s (s.context k).call q n) :
    s.sayChoice k i =
      entryWithFallback
        (if (s.stepOf k i).kind = .sayWait then (s.program (s.context k).program).bands
          else (s.program (s.context k).program).positions)
        (if (s.stepOf k i).kind = .sayWait then waitBand (s.callWait q n) else min n 8) := by
  unfold sayChoice sayWaitSegment sayPositionSegment
  rw [sayPlace_inLine h]
  split <;> rfl

/-! ### Beginnings (R115 to R120) -/

/-- The context that has begun step `i`, before what the step's kind adds. -/
def begunAt (s : State) (k i : Nat) : Context := (s.context k).beginStep i (s.stepOf k i)

/-- The beginning of a step that plays a chosen segment once, or is passed over without one (R102, R103). -/
def sayBegun (s : State) (k i : Nat) : Option Nat → State × Control
  | none => (s.setContext k (s.begunAt k i), .begin (i + 1))
  | some n =>
    if (s.segment n).defined then (s.setContext k { s.begunAt k i with segment := s.segment n }, .done)
    else (s.setContext k (s.begunAt k i), .begin (i + 1))

section
variable {i : Nat}

theorem beginStep_refused (h : 16 ≤ i ∨ 16 ≤ (s.context k).beginnings + 1) : s.beginStep k i = (s.badStep k, .done) :=
  if_pos h

variable (hi : i < 16) (hb : (s.context k).beginnings + 1 < 16)
include hi hb

theorem begin_not_refused : ¬ (Config.stepsPerProgram ≤ i ∨ Config.maxBeginnings ≤ (s.context k).beginnings + 1) := by
  unfold Config.stepsPerProgram Config.maxBeginnings
  omega

theorem beginStep_play_eq (hk : (s.stepOf k i).kind = .play) : s.beginStep k i =
    if (s.segment (s.stepOf k i).arg).defined then
      (s.setContext k
        { s.begunAt k i with segment := s.segment (s.stepOf k i).arg, passes := (s.stepOf k i).count }, .done)
    else (s.setContext k (s.begunAt k i), .begin (i + 1)) := by
  unfold stepOf at hk
  unfold beginStep
  rw [if_neg (begin_not_refused hi hb)]
  simp only [hk]
  rfl

theorem beginStep_quiet (hk : (s.stepOf k i).kind = .quiet) : s.beginStep k i =
    if (s.stepOf k i).count = 0 then (s.setContext k (s.begunAt k i), .begin (i + 1))
    else (s.setContext k (s.begunAt k i), .done) := by
  unfold stepOf at hk
  unfold beginStep
  rw [if_neg (begin_not_refused hi hb)]
  simp only [hk]
  rfl

theorem beginStep_tone (hk : (s.stepOf k i).kind = .tone) : s.beginStep k i =
    if (s.stepOf k i).period = 0 then (s.badStep k, .done)
    else if (s.segment (s.stepOf k i).arg).defined then
      (s.setContext k
        { s.begunAt k i with segment := s.segment (s.stepOf k i).arg, bursts := (s.stepOf k i).count }, .done)
    else (s.setContext k (s.begunAt k i), .begin (i + 1)) := by
  unfold stepOf at hk
  unfold beginStep
  rw [if_neg (begin_not_refused hi hb)]
  simp only [hk]
  rfl

theorem beginStep_feed (hk : (s.stepOf k i).kind = .feed) : s.beginStep k i =
    if 4 ≤ (s.stepOf k i).feed then (s.badStep k, .done)
    else if (s.feed (s.stepOf k i).feed).state = .live then
      (s.setContext k ((s.begunAt k i).join (s.feed (s.stepOf k i).feed)), .done)
    else (s.setContext k ((s.begunAt k i).fallBack (s.segment (s.stepOf k i).arg) 0), .done) := by
  unfold stepOf at hk
  unfold beginStep
  rw [if_neg (begin_not_refused hi hb)]
  simp only [hk]
  rfl

theorem beginStep_say (hk : (s.stepOf k i).kind = .sayWait ∨ (s.stepOf k i).kind = .sayPosition) :
    s.beginStep k i = s.sayBegun k i (s.sayChoice k i) := by
  unfold sayChoice
  unfold stepOf at *
  unfold beginStep
  rw [if_neg (begin_not_refused hi hb)]
  rcases hk with hk | hk
  · simp only [hk]
    rfl
  · simp only [hk]
    rfl

theorem beginStep_jump (hk : (s.stepOf k i).kind = .jump) :
    s.beginStep k i = (s.setContext k (s.begunAt k i), .begin (s.stepOf k i).arg) := by
  unfold stepOf at hk
  unfold beginStep
  rw [if_neg (begin_not_refused hi hb)]
  simp only [hk]
  rfl

theorem beginStep_call (hk : (s.stepOf k i).kind = .call) : s.beginStep k i =
    if 4 ≤ (s.context k).stack.length then
      ((s.setContext k (s.begunAt k i)).post .playout .playoutFault (some (s.context k).call) none none 2, .begin (i + 1))
    else
      (s.setContext k { s.begunAt k i with stack := callRecord i :: (s.context k).stack }, .begin (s.stepOf k i).arg) := by
  unfold stepOf at hk
  unfold beginStep
  rw [if_neg (begin_not_refused hi hb)]
  simp only [hk]
  rfl

theorem beginStep_ret_empty (hk : (s.stepOf k i).kind = .ret) (hs : (s.context k).stack = []) : s.beginStep k i =
    ((s.setContext k (s.begunAt k i)).post .playout .playoutFault (some (s.context k).call) none none 3, .begin 0) := by
  unfold stepOf at hk
  unfold beginStep
  rw [if_neg (begin_not_refused hi hb)]
  simp only [hk, hs]
  rfl

theorem beginStep_ret {r : ReturnRecord} {rest : List ReturnRecord} (hk : (s.stepOf k i).kind = .ret)
    (hs : (s.context k).stack = r :: rest) : s.beginStep k i =
    (s.setContext k
      { s.begunAt k i with
        stack := rest
        timer := if rest = [] then (s.program (s.context k).program).period else (s.context k).timer }, .returned r) := by
  have hpop := s.popReturn_setContext k (s.begunAt k i) r rest hs
  unfold stepOf at hk
  unfold beginStep
  rw [if_neg (begin_not_refused hi hb)]
  simp only [hk, hs]
  exact congrArg (fun a => (a.1, Control.returned r)) hpop

theorem beginStep_stop (hk : (s.stepOf k i).kind = .stop) : s.beginStep k i =
    ((s.endContext k).post .call .programEnd (some (s.context k).call) none none (s.context k).program, .done) := by
  unfold stepOf at hk
  unfold beginStep
  rw [if_neg (begin_not_refused hi hb)]
  simp only [hk]

theorem beginStep_other {n : Nat} (hk : (s.stepOf k i).kind = .other n) : s.beginStep k i = (s.badStep k, .done) := by
  unfold stepOf at hk
  unfold beginStep
  rw [if_neg (begin_not_refused hi hb)]
  simp only [hk]

end

/-! ### Resumptions (R121) -/

section
variable {r : ReturnRecord}

/-- The context resumed at a record's place, before what the step's kind adds. -/
def resumedAt (s : State) (k : Nat) (r : ReturnRecord) : Context := (s.context k).resumeAt r (s.stepOf k r.step)

/-- The context resumed at a record's place, on the step's segment as the library now has it (R121). -/
def resumedOn (s : State) (k : Nat) (r : ReturnRecord) : Context :=
  { s.resumedAt k r with segment := s.segment (s.stepOf k r.step).arg }

theorem resumeStep_refused (h : 16 ≤ r.step) : s.resumeStep k r = (s.badStep k, .done) := if_pos h

variable (hr : r.step < 16)
include hr

theorem resumeStep_play (hk : (s.stepOf k r.step).kind = .play) : s.resumeStep k r =
    if (s.segment (s.stepOf k r.step).arg).defined then
      if (s.segment (s.stepOf k r.step).arg).length ≤ r.position then (s.setContext k (s.resumedOn k r)).endPass k
      else (s.setContext k (s.resumedOn k r), .done)
    else (s.setContext k (s.resumedAt k r), .begin (r.step + 1)) := by
  unfold stepOf at hk
  unfold resumeStep
  rw [if_neg (show ¬ Config.stepsPerProgram ≤ r.step from Nat.not_le.2 hr)]
  simp only [hk]
  rfl

theorem resumeStep_quiet (hk : (s.stepOf k r.step).kind = .quiet) : s.resumeStep k r =
    if (s.stepOf k r.step).count * 800 ≤ r.position then (s.setContext k (s.resumedAt k r), .begin (r.step + 1))
    else (s.setContext k (s.resumedAt k r), .done) := by
  unfold stepOf at hk
  unfold resumeStep
  rw [if_neg (show ¬ Config.stepsPerProgram ≤ r.step from Nat.not_le.2 hr)]
  simp only [hk]
  rfl

theorem resumeStep_tone (hk : (s.stepOf k r.step).kind = .tone) : s.resumeStep k r =
    if (s.stepOf k r.step).period = 0 then (s.badStep k, .done)
    else if (s.segment (s.stepOf k r.step).arg).defined then
      if (s.stepOf k r.step).period ≤ r.phase then (s.setContext k (s.resumedOn k r)).endPeriod k
      else (s.setContext k (s.resumedOn k r), .done)
    else (s.setContext k (s.resumedAt k r), .begin (r.step + 1)) := by
  unfold stepOf at hk
  unfold resumeStep
  rw [if_neg (show ¬ Config.stepsPerProgram ≤ r.step from Nat.not_le.2 hr)]
  simp only [hk]
  rfl

theorem resumeStep_feed (hk : (s.stepOf k r.step).kind = .feed) : s.resumeStep k r =
    if 4 ≤ (s.stepOf k r.step).feed then (s.badStep k, .done)
    else if (s.feed (s.stepOf k r.step).feed).state = .live then
      (s.setContext k ((s.resumedAt k r).join (s.feed (s.stepOf k r.step).feed)), .done)
    else
      (s.setContext k
        ((s.resumedAt k r).fallBack (s.segment (s.stepOf k r.step).arg) (if r.fallback then r.position else 0)), .done) := by
  unfold stepOf at hk
  unfold resumeStep
  rw [if_neg (show ¬ Config.stepsPerProgram ≤ r.step from Nat.not_le.2 hr)]
  simp only [hk]
  rfl

/-- A step of any other kind begins from its start. -/
theorem resumeStep_afresh (hk : ¬ (s.stepOf k r.step).keepsPlace = true) : s.resumeStep k r = (s, .begin r.step) := by
  rw [ProgramStep.keepsPlace_iff] at hk
  unfold resumeStep
  rw [if_neg (show ¬ Config.stepsPerProgram ≤ r.step from Nat.not_le.2 hr)]
  cases hkind : (s.stepOf k r.step).kind with
  | play | quiet | tone | feed => simp [hkind] at hk
  | stop | sayWait | sayPosition | jump | call | ret | other =>
    unfold stepOf at hkind
    simp only [hkind]

end

/-! ### A step that a RETURN names (R115, R121) -/

section
variable {r : ReturnRecord}

theorem returnStep_refused (hk : (s.stepOf k r.step).keepsPlace = true) (hb : 16 ≤ (s.context k).beginnings + 1) :
    s.returnStep k r = (s.badStep k, .done) := by
  unfold returnStep
  exact (if_pos hk).trans (if_pos hb)

theorem returnStep_counted (hk : (s.stepOf k r.step).keepsPlace = true) (hb : (s.context k).beginnings + 1 < 16) :
    s.returnStep k r =
      (s.setContext k { s.context k with beginnings := (s.context k).beginnings + 1 }).resumeStep k r := by
  unfold returnStep
  exact (if_pos hk).trans (if_neg (Nat.not_le.2 hb))

theorem returnStep_afresh (hk : ¬ (s.stepOf k r.step).keepsPlace = true) : s.returnStep k r = s.resumeStep k r := by
  unfold returnStep
  exact if_neg hk

end

end State

open State in
/-- Settles O47: each kind's act by its equation, then what follows that act. -/
theorem programStepsBeginAndResumeByKind : Obligations.ProgramStepsBeginAndResumeByKind := by
  refine ⟨?_, ?_⟩
  · intro s k i x p g c y t begun follows skipped bad defined
    refine ⟨fun h => contextEnded_badStep (control_of_beginStep (beginStep_refused h)), fun hi hb =>
      ⟨fun hk => ?play, fun hk => ?quiet, fun hk => ?tone, fun hk => ?feed, fun hk => ?say, fun hk => ?jump, fun hk => ?call,
        fun hk => ?ret, fun hk => ?stop, fun m hk => ?other⟩⟩
    case play => exact control_begin_cases (beginStep_play_eq hi hb hk)
    case quiet => exact (control_begin_cases (beginStep_quiet hi hb hk)).symm
    case tone =>
      have hstep := beginStep_tone hi hb hk
      exact ⟨fun hp => contextEnded_badStep (control_of_beginStep (hstep.trans (if_pos hp))),
        fun hp => control_begin_cases (hstep.trans (if_neg hp))⟩
    case feed =>
      have hstep := beginStep_feed hi hb hk
      refine ⟨fun hf => contextEnded_badStep (control_of_beginStep (hstep.trans (if_pos hf))), fun hf => ?_⟩
      obtain ⟨hring, hback⟩ := control_begin_cases (hstep.trans (if_neg (Nat.not_le.2 hf)))
      exact ⟨hring, fun hl =>
        ⟨fun hd => (hback hl).trans (congrArg (s.setContext k) (Context.fallBack_defined _ _ hd)),
          fun hd => (hback hl).trans (congrArg (s.setContext k) (Context.fallBack_silent _ _ hd))⟩⟩
    case say =>
      have hstep := beginStep_say hi hb hk
      have hskip (h : s.sayChoice k i = none) : skipped := by
        rw [h] at hstep
        exact control_of_beginStep hstep
      refine ⟨fun hq ho => hskip (sayChoice_none i (sayPlace_none hq ho)), fun q n hline => ?_⟩
      intro h staffed wait b entries
      have hchoice : s.sayChoice k i = entryWithFallback entries b := sayChoice_inLine i hline
      refine ⟨fun hall => hskip (hchoice.trans (entryWithFallback_none _ _ hall)), fun m hm => ?_⟩
      rw [hchoice, entryWithFallback_some _ _ _ hm] at hstep
      rw [← Bool.not_eq_true]
      exact control_begin_cases hstep
    case jump => exact control_of_beginStep (beginStep_jump hi hb hk)
    case call =>
      obtain ⟨hfull, hroom⟩ := control_begin_cases (beginStep_call hi hb hk)
      exact ⟨fun hd => hroom (Nat.not_le.2 hd), hfull⟩
    case ret =>
      exact ⟨fun hs => control_of_beginStep (beginStep_ret_empty hi hb hk hs),
        fun r rest hs => control_of_beginStep (beginStep_ret hi hb hk hs)⟩
    case stop => exact contextEnded_of k _ _ _ (control_of_beginStep (beginStep_stop hi hb hk))
    case other => exact contextEnded_badStep (control_of_beginStep (beginStep_other hi hb hk))
  · intro s k r x g y z t begun follows next bad defined n freed
    refine ⟨fun hr => contextEnded_badStep (control_of_resumeStep (resumeStep_refused hr)), fun hr =>
      ⟨fun hk => ?rplay, fun hk => ?rquiet, fun hk => ?rtone, fun hk => ?rfeed, fun h1 h2 h3 h4 => ?rother⟩, ?returned⟩
    case rplay =>
      have hstep := resumeStep_play hr hk
      refine ⟨(control_resume_cases hstep).2, fun hd hl =>
        (control_resume_cases (hstep.trans (if_pos hd))).2 (Nat.not_le.2 hl), fun hd hl => ?_⟩
      intro again
      have hend := (hstep.trans (if_pos hd)).trans (if_pos hl)
      obtain ⟨hforever, hmore, hlast, hfree⟩ := s.endPass_setContext k z
      refine ⟨fun hc => control_of_resumeStep (hend.trans (hforever hc)), fun hc =>
        ⟨fun hn => control_of_resumeStep (hend.trans (hmore hc hn)),
          fun hn => control_of_resumeStep (hend.trans (hlast hc hn)), fun hn => ?_⟩⟩
      obtain ⟨hzero, hpos⟩ := hfree hc hn
      exact ⟨fun h0 => control_of_resumeStep (hend.trans (hzero h0)),
        fun h0 => control_of_resumeStep (hend.trans (hpos h0))⟩
    case rquiet =>
      obtain ⟨hover, hleft⟩ := control_resume_cases (resumeStep_quiet hr hk)
      exact ⟨fun hl => hleft (Nat.not_le.2 hl), hover⟩
    case rtone =>
      have hstep := resumeStep_tone hr hk
      refine ⟨fun hp => contextEnded_badStep (control_of_resumeStep (hstep.trans (if_pos hp))), fun hp => ?_⟩
      have hsound := hstep.trans (if_neg hp)
      refine ⟨(control_resume_cases hsound).2, fun hd hl =>
        (control_resume_cases (hsound.trans (if_pos hd))).2 (Nat.not_le.2 hl), fun hd hl => ?_⟩
      intro again
      have hend := (hsound.trans (if_pos hd)).trans (if_pos hl)
      obtain ⟨hforever, hmore, hlast, hfree⟩ := s.endPeriod_setContext k z
      refine ⟨fun hc => control_of_resumeStep (hend.trans (hforever hc)), fun hc =>
        ⟨fun hn => control_of_resumeStep (hend.trans (hmore hc hn)),
          fun hn => control_of_resumeStep (hend.trans (hlast hc hn)), fun hn => ?_⟩⟩
      obtain ⟨hzero, hpos⟩ := hfree hc hn
      exact ⟨fun h0 => control_of_resumeStep (hend.trans (hzero h0)),
        fun h0 => control_of_resumeStep (hend.trans (hpos h0))⟩
    case rfeed =>
      have hstep := resumeStep_feed hr hk
      refine ⟨fun hf => contextEnded_badStep (control_of_resumeStep (hstep.trans (if_pos hf))), fun hf => ?_⟩
      obtain ⟨hring, hback⟩ := control_resume_cases (hstep.trans (if_neg (Nat.not_le.2 hf)))
      exact ⟨hring, fun hl =>
        ⟨fun hd => (hback hl).trans (congrArg (s.setContext k) (Context.fallBack_defined _ _ hd)),
          fun hd => (hback hl).trans (congrArg (s.setContext k) (Context.fallBack_silent _ _ hd))⟩⟩
    case rother =>
      have hk : ¬ g.keepsPlace = true := by
        rw [ProgramStep.keepsPlace_iff]
        simp [h1, h2, h3, h4]
      exact control_of_resumeStep (resumeStep_afresh hr hk)
    case returned =>
      intro keeps
      have hkeeps : (s.stepOf k r.step).keepsPlace = true ↔ keeps := ProgramStep.keepsPlace_iff _
      exact ⟨fun hk hb => contextEnded_badStep (control_of_returnStep (returnStep_refused (hkeeps.2 hk) hb)),
        fun hk hb => (control_of_returnStep (returnStep_counted (hkeeps.2 hk) hb)).trans (control_resumes ..).symm,
        fun hk => (control_of_returnStep (returnStep_afresh (mt hkeeps.1 hk))).trans (control_resumes ..).symm⟩

end Sys2Proof.Machine
end

section
/-! SUPPORT. The grant of a pass-through beat (07 R127; 09 R155), and LIBRARY_APPLY (07 R114). -/

namespace Sys2Proof.Machine

variable {s : State}

/-! ### The grant of a pass-through beat (R127, R155) -/

/-- The state after the front pass-through beat has taken the slot. -/
def State.passed (s : State) (b : Beat) (rest : List Beat) (count : Nat) : State :=
  { s with path := { s.path with forward := rest, port := .passThrough b, passCount := count } }

theorem changes_passed (s : State) (b : Beat) (rest : List Beat) (count : Nat) :
    Changes [.forward, .port, .passCount] s (s.passed b rest count) := by
  constructor
  intro k hk
  cases k <;> simp_all [Component.agree, State.passed]

section
variable {b : Beat} {rest : List Beat} (hf : s.path.forward = b :: rest) (ha : s.path.resetAsserted = false)
include hf ha

theorem exec_passThroughBeatGrant : exec .passThroughBeatGrant s =
    if s.ownServable && decide (8 ≤ s.path.passCount) then .next s else .next (s.passed b rest s.passCountNext) := by
  show execPassThroughBeatGrant s = _
  unfold execPassThroughBeatGrant
  rw [hf]
  exact if_neg (ne_true_of_eq_false ha)

/-- A beat granted, and the count that the grant leaves. -/
theorem passThroughBeat_granted {count : Nat} (hturn : OwnServable s → s.path.passCount < 8) (hcount : s.passCountNext = count) :
    ∃ t, exec .passThroughBeatGrant s = .next t ∧ t.path.forward = rest ∧ t.path.port = .passThrough b ∧
      t.path.passCount = count ∧ Changes [.forward, .port, .passCount] s t := by
  have hgrant : ¬ (s.ownServable && decide (8 ≤ s.path.passCount)) = true := by
    rw [Bool.and_eq_true, ownServable_iff, decide_eq_true_eq]
    exact fun h => Nat.not_le.2 (hturn h.1) h.2
  exact ⟨_, (exec_passThroughBeatGrant hf ha).trans (if_neg hgrant), rfl, rfl, hcount, changes_passed ..⟩

end

theorem passCountNext_own (h : OwnServable s) : s.passCountNext = s.path.passCount + 1 :=
  if_pos ((ownServable_iff s).2 h)

theorem passCountNext_rest (h : ¬ OwnServable s) : s.passCountNext = 0 := if_neg (mt (ownServable_iff s).1 h)

/-- Settles O34: by whether a servable request of the part's own stands, and by the count. -/
theorem passThroughBeatsAreGranted : Obligations.PassThroughBeatsAreGranted := by
  intro s b rest hf ha own
  refine ⟨fun hno => ?_, fun hown hlow => ?_, fun hown hhigh => ?_⟩
  · exact passThroughBeat_granted hf ha (fun h => absurd h hno) (passCountNext_rest hno)
  · exact passThroughBeat_granted hf ha (fun _ => hlow) (passCountNext_own hown)
  · have hwait : (s.ownServable && decide (8 ≤ s.path.passCount)) = true := by
      rw [Bool.and_eq_true, ownServable_iff, decide_eq_true_eq]
      exact ⟨hown, hhigh⟩
    exact (exec_passThroughBeatGrant hf ha).trans (if_pos hwait)

/-! ### LIBRARY_APPLY (R114) -/

/-- The words of a program as staged. -/
def Staging.programWords (g : Staging) (n : Nat) : List Word :=
  (List.range 64).map fun w => Table.read 0 g.programs (64 * n + w)

/-- A segment's length as staged, where 0 stands for the greatest (R113). -/
def Staging.segmentLength (g : Staging) (n : Nat) : Nat :=
  if (Table.read 0 g.segments (4 * n + 1)).toNat % 16777216 = 0 then 16777216
  else (Table.read 0 g.segments (4 * n + 1)).toNat % 16777216

def Staging.segmentLoop (g : Staging) (n : Nat) : Nat := (Table.read 0 g.segments (4 * n + 2)).toNat % 16777216

theorem segment_clamped (g : Staging) (n : Nat) : (g.segment n).2 = true ↔ g.segmentLength n ≤ g.segmentLoop n := by
  unfold Staging.segment Staging.segmentLength Staging.segmentLoop tripleField
  simp only [show 4 / 4 = 1 from rfl, show 8 / 4 = 2 from rfl, getD_map_range _ 4 1 _ (by decide),
    getD_map_range _ 4 2 _ (by decide), decide_eq_true_eq]

theorem stepKindOf_tone (n : Nat) : stepKindOf n = .tone ↔ n = 6 := by
  unfold stepKindOf
  split <;> simp_all

theorem stepOf_clamped (ws : List Word) (o : Nat) :
    (stepOf ws o).2 = true ↔ byteField ws o = 6 ∧ halfField ws (o + 8) < halfField ws (o + 10) := by
  unfold stepOf
  simp only [Bool.and_eq_true, beq_iff_eq, decide_eq_true_eq, stepKindOf_tone]

theorem program_clamped (g : Staging) (n : Nat) : (g.program n).2 = true ↔
    ∃ i < 16, byteField (g.programWords n) (64 + 12 * i) = 6 ∧
      halfField (g.programWords n) (64 + 12 * i + 8) < halfField (g.programWords n) (64 + 12 * i + 10) := by
  simp only [← stepOf_clamped]
  unfold Staging.program Config.stepsPerProgram Staging.programWords
  simp

/-- Whether the latch brings a value into range (R114). -/
theorem latchLibrary_clamped : s.latchLibrary.1 = true ↔
    (∃ n < 256, s.staging.segmentLength n ≤ s.staging.segmentLoop n) ∨
      ∃ n < 64, ∃ i < 16, byteField (s.staging.programWords n) (64 + 12 * i) = 6 ∧
        halfField (s.staging.programWords n) (64 + 12 * i + 8) < halfField (s.staging.programWords n) (64 + 12 * i + 10) := by
  simp only [← segment_clamped, ← program_clamped]
  unfold State.latchLibrary Config.numSegments Config.numPrograms
  simp

theorem changes_latchLibrary (s : State) : Changes [.library] s s.latchLibrary.2 := by
  constructor
  intro k hk
  cases k <;> simp_all [Component.agree, State.latchLibrary]

/-- Settles O24: the latch's library, and its result by what it brings into range. -/
theorem libraryApplyLatchesTheLibrary : Obligations.LibraryApplyLatchesTheLibrary := by
  intro s e ht descriptor stored length loop words high
  have hexec := partCommand_answering (allowed := onlyActive) ht.1 (by rw [ht.2]; rfl) libraryApplyBody
  have hclamped : s.dropOldest.latchLibrary.1 = true ↔
      (∃ n < 256, length n ≤ loop n) ∨ ∃ n < 64, ∃ i < 16, high n i := latchLibrary_clamped
  refine ⟨_, hexec, ?_, fun h => ?_, fun hsegments hprograms => ?_, ?_, ?_⟩
  · exact State.libraryLatched_congr (s := s.dropOldest) rfl (fun n => by simp [libraryApplyBody])
      (fun n => by simp [libraryApplyBody]) (State.libraryLatched_latchLibrary s.dropOldest)
  · simp [libraryApplyBody, hclamped.2 h]
  · have hkept : s.dropOldest.latchLibrary.1 = false := by
      rw [← Bool.not_eq_true, hclamped]
      rintro (⟨n, hn, h⟩ | ⟨n, hn, i, hi, h⟩)
      · exact Nat.not_le.2 (hsegments n hn) h
      · exact hprograms n hn i hi h
    simp [libraryApplyBody, hkept]
  · simp [libraryApplyBody, State.latchLibrary]
  · have hlatched : Changes [.intake, .library] s s.dropOldest.latchLibrary.2 :=
      (frame_dropOldest (cs := [.intake]) (.refl ..) (by simp)).append (changes_latchLibrary _)
    exact frame_settle (frame_setPartResult (hlatched.mono (by simp)) _ (by simp)) (by simp)

end Sys2Proof.Machine
end

section
/-! SUPPORT. Reads: the words the part answers, and those it passes to memory (09 R146; 10 R161, R165). -/

namespace Sys2Proof.Machine

variable {s : State} {i : Instr} {b : ReadBeat}

/-- A read beat with none waiting is taken by its word's class (R146). -/
theorem exec_read (hp : presents i (.read b)) (ha : s.path.resetAsserted = false) (hw : s.path.waiting = []) :
    exec i s = .next (s.takeRead (s.classify b.address) b).settle := by
  rw [State.exec_beat hp ha, State.present_accept hw rfl]
  rfl

section
variable (hp : presents i (.read b)) (ha : s.path.resetAsserted = false) (hw : s.path.waiting = [])
include hp ha hw

theorem read_answers {w : Word} (h : s.takeRead (s.classify b.address) b = s.answerRead w) :
    ∃ t, exec i s = .next t ∧ t.path.answer = .data w ∧ Changes [.answer, .passCount] s t := by
  refine ⟨_, exec_read hp ha hw, ?_, ?_⟩ <;> rw [h]
  · simp
  · exact frame_settle (frame_answerRead (.refl ..) _ (by simp)) (by simp)

theorem read_passes (h : s.takeRead (s.classify b.address) b = s.forwardBeat (.read b)) :
    ∃ t, exec i s = .next t ∧ t.path.forward = s.path.forward ++ [.read b] ∧ Changes [.forward, .passCount] s t := by
  refine ⟨_, exec_read hp ha hw, ?_, ?_⟩ <;> rw [h]
  · simp
  · exact frame_settle (frame_forwardBeat (.refl ..) _ (by simp)) (by simp)

end

/-! ### The words of each class -/

theorem takeRead_callPart {c w : Nat} : s.takeRead (.callPart c w) b =
    if s.part.state = .active then s.answerRead (s.callWord c w) else s.forwardBeat (.read b) := rfl

theorem takeRead_agentPart {g w : Nat} : s.takeRead (.agentPart g w) b =
    if s.part.state = .active then s.answerRead (s.agentWord g w) else s.forwardBeat (.read b) := rfl

/-- The event window with an event chosen to be shown (R161). -/
def State.showing (s : State) (r : Option EventRecord) : State := { s with events := { s.events with shown := r } }

theorem takeRead_eventWord_first :
    s.takeRead (.eventWord 0) b = (s.showing s.events.choose).answerRead (eventWord s.events.choose 0) := rfl

theorem takeRead_eventWord {w : Nat} (hw : 1 ≤ w) :
    s.takeRead (.eventWord w) b = s.answerRead (eventWord s.events.shown w) := if_neg (by omega)

theorem changes_showing (s : State) (r : Option EventRecord) : Changes [.shown] s (s.showing r) := by
  constructor
  intro k hk
  cases k <;> simp_all [Component.agree, State.showing]

/-- The dispatch head is chosen before the notice head (R161). -/
theorem choose_eq (u : EventUnit) : u.choose =
    match u.dispatch, u.notices with
    | r :: _, _ => some r
    | [], r :: _ => some r
    | [], [] => none := by
  unfold EventUnit.choose
  cases u.dispatch with
  | cons r _ => rfl
  | nil => cases u.notices <;> rfl

/-- A channel read that is no voice read of a bound channel (R125). -/
theorem takeRead_channel_other {ch : Nat}
    (h : s.part.state ≠ .active ∨ b.tag ≠ s.part.config.voiceTag ∨ s.binding ch = none) :
    s.takeRead (.channel ch) b = s.forwardBeat (.read b) := by
  have hnone : s.voiceContext b.tag ch = none := by
    unfold State.voiceContext
    rcases h with h | h | h <;> simp [h]
  simp only [State.takeRead, hnone]

/-- Settles O33: a read is taken by the class of its word, and the class answers or forwards. -/
theorem readsAreAnsweredFromLiveState : Obligations.ReadsAreAnsweredFromLiveState := by
  intro s i b hp ha hw answers passes cls kind record
  have hanswers {w : Word} (h : s.takeRead (s.classify b.address) b = s.answerRead w) : answers w := read_answers hp ha hw h
  have hpasses (h : s.takeRead (s.classify b.address) b = s.forwardBeat (.read b)) : passes := read_passes hp ha hw h
  have hcls (r : EventRecord) : r.cls.code = cls r := by
    obtain ⟨_, c, _⟩ := r
    cases c <;> rfl
  have hkind (r : EventRecord) : r.kind.code = kind r := by
    obtain ⟨_, _, k, _⟩ := r
    cases k <;> rfl
  have hrecord (r : EventRecord) {w : Nat} (hlt : w < 4) : eventWord (some r) w = record r w := by
    have hfirst : eventWord (some r) 0 = record r 0 := by
      show packHalves _ (r.cls.code + 256 * r.kind.code) = _
      rw [hcls, hkind]
      rfl
    match w, hlt with
    | 0, _ => exact hfirst
    | 1, _ => rfl
    | 2, _ => rfl
    | 3, _ => rfl
  refine ⟨fun w h => hanswers ?statusWord, fun q w h => hanswers ?queueWord, fun c w h hact => hanswers ?callWord,
    fun g w h hact => hanswers ?agentWord, fun c w h hact => hpasses ?inactive, fun h => ?first, fun w h hpos hlt => ?other,
    fun c w h => hpasses ?host, fun ch h hno => hpasses ?channel⟩
  case statusWord => rw [h]; rfl
  case queueWord => rw [h]; rfl
  case callWord => rw [h, takeRead_callPart, if_pos hact]
  case agentWord => rw [h, takeRead_agentPart, if_pos hact]
  case inactive =>
    rcases h with h | h
    · rw [h, takeRead_callPart, if_neg hact]
    · rw [h, takeRead_agentPart, if_neg hact]
  case first =>
    have hexec := exec_read hp ha hw
    rw [h, takeRead_eventWord_first] at hexec
    have hframe : Changes [.answer, .shown] s ((s.showing s.events.choose).answerRead (eventWord s.events.choose 0)) :=
      frame_answerRead ((changes_showing s _).mono (by simp)) _ (by simp)
    refine ⟨_, hexec, ?_, fun r hr => ?_, fun hn => ?_, frame_settle (hframe.mono (by simp)) (by simp)⟩
    · rw [State.events_settle]
      exact choose_eq s.events
    · rw [State.events_settle] at hr
      have hchosen : s.events.choose = some r := hr
      rw [State.answer_settle, hchosen]
      exact congrArg UpstreamAnswer.data (hrecord r (by decide))
    · rw [State.events_settle] at hn
      have hchosen : s.events.choose = none := hn
      rw [State.answer_settle, hchosen]
      rfl
  case other =>
    have htake := takeRead_eventWord (s := s) (b := b) hpos
    rw [← h] at htake
    refine ⟨fun r hr => hanswers ?_, fun hn => hanswers ?_⟩
    · rw [htake, hr, hrecord r hlt]
    · rw [htake, hn]
      rfl
  case host => rcases h with h | h | h | h | h | h | h | h | h | h | h | h <;> rw [h] <;> rfl
  case channel => rw [h, takeRead_channel_other hno]

end Sys2Proof.Machine
end

section
/-! SUPPORT. Voice reads: the lanes served from a context's buffer, and the source a FEED step takes after one (07 R125; 08
R140, R141). -/

namespace Sys2Proof.Machine

variable {s : State}

/-! ### The lanes of a beat (R125) -/

/-- What a beat's lanes are served with: each enabled lane the next sample, or silence with none left. -/
theorem serveLanes_eq (silence : Byte) (e : BitVec 4) (lanes : List Nat) (buffer : List Byte) :
    (serveLanes silence e lanes buffer).2.1 = buffer.drop (lanes.filter e.getLsbD).length ∧
      (serveLanes silence e lanes buffer).2.2 = decide (buffer.length < (lanes.filter e.getLsbD).length) ∧
      ∀ j, (hj : j < lanes.length) → (serveLanes silence e lanes buffer).1.getD j 0 =
        if e.getLsbD lanes[j] then buffer.getD ((lanes.take j).filter e.getLsbD).length silence else silence := by
  induction lanes generalizing buffer with
  | nil => simp [serveLanes]
  | cons l lanes ih =>
    by_cases hl : e.getLsbD l = true
    · cases buffer with
      | nil =>
        obtain ⟨hleft, -, hserved⟩ := ih []
        refine ⟨by simp [serveLanes, hl, hleft], by simp [serveLanes, hl], fun j hj => ?_⟩
        cases j with
        | zero => simp [serveLanes, hl]
        | succ j => simpa [serveLanes, hl] using hserved j (by simpa using hj)
      | cons x buffer =>
        obtain ⟨hleft, hshort, hserved⟩ := ih buffer
        refine ⟨by simp [serveLanes, hl, hleft], by simp [serveLanes, hl, hshort], fun j hj => ?_⟩
        cases j with
        | zero => simp [serveLanes, hl]
        | succ j => simpa [serveLanes, hl] using hserved j (by simpa using hj)
    · obtain ⟨hleft, hshort, hserved⟩ := ih buffer
      refine ⟨by simp [serveLanes, hl, hleft], by simp [serveLanes, hl, hshort], fun j hj => ?_⟩
      cases j with
      | zero => simp [serveLanes, hl]
      | succ j => simpa [serveLanes, hl] using hserved j (by simpa using hj)

/-- A byte of a word packed of four. -/
theorem extract_packBytes (w x y z : Byte) (l : Nat) (hl : l < 4) :
    (packBytes w.toNat x.toNat y.toNat z.toNat).extractLsb' (8 * l) 8 = [w, x, y, z].getD l 0 := by
  have hw := w.isLt
  have hx := x.isLt
  have hy := y.isLt
  have hz := z.isLt
  have hbyte (n : Byte) (h : (w.toNat + 256 * x.toNat + 65536 * y.toNat + 16777216 * z.toNat) / 2 ^ (8 * l) % 256 = n.toNat) :
      (packBytes w.toNat x.toNat y.toNat z.toNat).extractLsb' (8 * l) 8 = n := by
    apply BitVec.eq_of_toNat_eq
    unfold packBytes
    rw [BitVec.extractLsb'_toNat, BitVec.toNat_ofNat, Nat.shiftRight_eq_div_pow, ← h, Nat.mod_eq_of_lt (a := _ + _) (by omega)]
  match l, hl with
  | 0, _ => exact hbyte w (by simp only [Nat.mul_zero, Nat.pow_zero]; omega)
  | 1, _ => exact hbyte x (by simp only [show 2 ^ (8 * 1) = 256 from rfl]; omega)
  | 2, _ => exact hbyte y (by simp only [show 2 ^ (8 * 2) = 65536 from rfl]; omega)
  | 3, _ => exact hbyte z (by simp only [show 2 ^ (8 * 3) = 16777216 from rfl]; omega)

theorem extract_lanesWord (bytes : List Byte) (l : Nat) (hl : l < 4) :
    (lanesWord bytes).extractLsb' (8 * l) 8 = bytes.getD l 0 := by
  unfold lanesWord
  rw [extract_packBytes _ _ _ _ l hl]
  match l, hl with
  | 0, _ => rfl
  | 1, _ => rfl
  | 2, _ => rfl
  | 3, _ => rfl

/-- The lanes of a beat that are enabled, in ascending order. -/
def enabledLanes (e : BitVec 4) : List Nat := (List.range 4).filter fun l => e.getLsbD l

/-- How many enabled lanes lie below lane `l`. -/
theorem enabledLanes_below (e : BitVec 4) (l : Nat) (hl : l < 4) :
    (([0, 1, 2, 3].take l).filter e.getLsbD).length = ((enabledLanes e).filter (· < l)).length := by
  have all : ∀ e : BitVec 4, ∀ l < 4,
      (([0, 1, 2, 3].take l).filter e.getLsbD).length = ((enabledLanes e).filter (· < l)).length := by decide
  exact all e l hl

/-- The word of a voice beat, lane by lane (R125). -/
theorem extract_served (silence : Byte) (e : BitVec 4) (buffer : List Byte) (l : Nat) (hl : l < 4) :
    (lanesWord (serveLanes silence e [0, 1, 2, 3] buffer).1).extractLsb' (8 * l) 8 =
      if e.getLsbD l then buffer.getD ((enabledLanes e).filter (· < l)).length silence else silence := by
  obtain ⟨-, -, hserved⟩ := serveLanes_eq silence e [0, 1, 2, 3] buffer
  have hlane : [0, 1, 2, 3][l] = l := by
    match l, hl with
    | 0, _ => rfl
    | 1, _ => rfl
    | 2, _ => rfl
    | 3, _ => rfl
  rw [extract_lanesWord _ l hl, hserved l hl, hlane, enabledLanes_below e l hl]

/-! ### Following a feed (R140) -/

theorem Context.onFeed_iff (x : Context) : x.onFeed = true ↔ ∃ j, x.activity = .step j ∧ x.step.kind = .feed := by
  unfold Context.onFeed
  cases x.activity <;> simp

theorem Context.hungry_iff (x : Context) : x.hungry = true ↔
    (x.state = .starting ∨ x.state = .playing) ∧ x.inFlight = false ∧ x.buffer.length ≤ 8 := by
  unfold Context.hungry Config.lowWater
  simp [running_iff, and_assoc]

/-- A context reads a feed when it is hungry and on a FEED step of it (R140). -/
theorem Context.reads_iff (x : Context) (f : Nat) : x.reads f ↔ x.hungry = true ∧ x.onFeed = true ∧ x.step.feed = f := by
  rw [Context.hungry_iff, Context.onFeed_iff]
  unfold Context.reads
  constructor
  · rintro ⟨hrun, hfree, hfill, j, hact, hkind, hfeed⟩
    exact ⟨⟨hrun, hfree, hfill⟩, ⟨j, hact, hkind⟩, hfeed⟩
  · rintro ⟨⟨hrun, hfree, hfill⟩, ⟨j, hact, hkind⟩, hfeed⟩
    exact ⟨hrun, hfree, hfill, j, hact, hkind, hfeed⟩

section
variable {x : Context}

theorem Context.followed_off (h : ¬ x.onFeed = true) : x.followed s = x := if_neg h

/-- A reader whose source is the one its feed's state asks for stays as it is. -/
theorem Context.followed_settled (h : x.onFeed = true → ((s.feed x.step.feed).state = .live ↔ x.source = .ring)) :
    x.followed s = x := by
  by_cases hon : x.onFeed = true
  · have h := h hon
    unfold Context.followed
    rw [if_pos hon]
    by_cases hl : (s.feed x.step.feed).state = .live
    · simp [h.1 hl, hl]
    · have hs : x.source ≠ .ring := mt h.2 hl
      cases hsource : x.source <;> simp_all
  · exact x.followed_off hon

/-- Off the ring of a LIVE feed a reader joins it (R141). -/
theorem Context.followed_joins (hon : x.onFeed = true) (hl : (s.feed x.step.feed).state = .live) (hs : x.source ≠ .ring) :
    x.followed s =
      { x with
        source := .ring, pointer := (s.feed x.step.feed).joinPlace, position := 0
        redirected := x.redirected || x.inFlight } := by
  unfold Context.followed
  rw [if_pos hon]
  cases hsource : x.source with
  | ring => exact absurd hsource hs
  | segment | silence => simp only [hl, decide_true]; rfl

/-- A reader on the ring of a feed that is not LIVE goes to its fallback (R118). -/
theorem Context.followed_falls (hon : x.onFeed = true) (hl : (s.feed x.step.feed).state ≠ .live) (hs : x.source = .ring) :
    x.followed s = { x.fallBack (s.segment x.step.arg) 0 with redirected := x.redirected || x.inFlight } := by
  unfold Context.followed
  rw [if_pos hon]
  simp only [hl, hs, decide_false]

/-- A reader has no fetch in flight, so none is redirected. -/
theorem Context.reads_redirected {f : Nat} (h : x.reads f) : (x.redirected || x.inFlight) = x.redirected := by
  obtain ⟨-, hfree, -⟩ := h
  rw [hfree, Bool.or_false]

theorem Context.reader_joins {f : Nat} (h : x.reads f) (hl : (s.feed f).state = .live) (hs : x.source ≠ .ring) :
    x.followed s = { x with source := .ring, pointer := (s.feed f).joinPlace, position := 0 } := by
  obtain ⟨-, hon, rfl⟩ := (Context.reads_iff ..).1 h
  rw [Context.followed_joins hon hl hs, Context.reads_redirected h]

theorem Context.reader_falls {f : Nat} (h : x.reads f) (hl : (s.feed f).state ≠ .live) (hs : x.source = .ring) :
    x.followed s = x.fallBack (s.segment x.step.arg) 0 := by
  obtain ⟨-, hon, rfl⟩ := (Context.reads_iff ..).1 h
  rw [Context.followed_falls hon hl hs, Context.reads_redirected h]
  unfold Context.fallBack
  split <;> rfl

end

/-! ### A voice read (R125) -/

section
variable {b : ReadBeat} {ch k : Nat}

theorem takeRead_voice (hact : s.part.state = .active) (htag : b.tag = s.part.config.voiceTag) (hb : s.binding ch = some k)
    (hrun : (s.context k).running = true) : s.takeRead (.channel ch) b = s.voiceBeat k b.enables := by
  have hcontext : s.voiceContext b.tag ch = some k := by
    unfold State.voiceContext
    simp [hact, htag, hb, hrun]
  simp only [State.takeRead, hcontext]

theorem voiceBeat_starting (h : (s.context k).state = .starting) (e : BitVec 4) :
    s.voiceBeat k e = s.answerRead (lanesWord (List.replicate 4 s.part.config.silence)) := if_pos h

/-- A context whose buffer a voice beat has drained. -/
def Context.drained (x : Context) (e : BitVec 4) : Context :=
  { x with buffer := x.buffer.drop (enabledLanes e).length }

/-- What a voice beat leaves before its context looks at its feed: the word answered, the buffer drained, a shortfall
counted. -/
def State.voiceServed (s : State) (k : Nat) (e : BitVec 4) : State :=
  let t := (s.answerRead (lanesWord (serveLanes s.part.config.silence e [0, 1, 2, 3] (s.context k).buffer).1)).setContext k
    ((s.context k).drained e)
  if (s.context k).buffer.length < (enabledLanes e).length then t.countUnderrun (s.context k).call else t

theorem voiceBeat_playing (h : (s.context k).state = .playing) (e : BitVec 4) : s.voiceBeat k e =
    if ((s.context k).drained e).hungry then (s.voiceServed k e).followFeed k else s.voiceServed k e := by
  obtain ⟨hleft, hshort, -⟩ := serveLanes_eq s.part.config.silence e [0, 1, 2, 3] (s.context k).buffer
  have hlanes : ([0, 1, 2, 3].filter e.getLsbD) = enabledLanes e := rfl
  rw [hlanes] at hleft hshort
  have hcontext : (s.voiceServed k e).context k = (s.context k).drained e := by
    unfold State.voiceServed State.countUnderrun
    dsimp only
    split <;> simp
  have hserved : s.voiceBeat k e =
      if ((s.voiceServed k e).context k).hungry then (s.voiceServed k e).followFeed k else s.voiceServed k e := by
    unfold State.voiceBeat State.voiceServed Context.drained
    simp only [h, hleft, hshort, reduceCtorEq, if_false, decide_eq_true_eq]
  rw [hserved, hcontext]

section
variable (k : Nat) (e : BitVec 4)

theorem frame_voiceServed : Changes [.answer, .contexts, .calls] s (s.voiceServed k e) := by
  unfold State.voiceServed State.countUnderrun
  dsimp only
  split <;> simp (maxDischargeDepth := 40) [Changes.refl]

theorem answer_voiceServed : (s.voiceServed k e).path.answer =
    .data (lanesWord (serveLanes s.part.config.silence e [0, 1, 2, 3] (s.context k).buffer).1) := by
  unfold State.voiceServed State.countUnderrun
  dsimp only
  split <;> rfl

theorem context_voiceServed (j : Nat) :
    (s.voiceServed k e).context j = if j = k then (s.context k).drained e else s.context j := by
  unfold State.voiceServed State.countUnderrun
  dsimp only
  split <;> simp

/-- One shortfall or more counts once against the call, held to the greatest count (R4). -/
theorem call_voiceServed (c : Nat) : (s.voiceServed k e).call c =
    if c = (s.context k).call then
      { s.call c with
        underruns :=
          if (s.context k).buffer.length < (enabledLanes e).length then min ((s.call c).underruns + 1) 65535
          else (s.call c).underruns }
    else s.call c := by
  unfold State.voiceServed State.countUnderrun
  dsimp only
  by_cases hc : c = (s.context k).call
  · subst hc
    split <;> simp
  · split <;> simp [hc]

theorem voiceServed_keeps : (∀ i, (s.voiceServed k e).feed i = s.feed i) ∧
    ∀ n, (s.voiceServed k e).segment n = s.segment n := by
  unfold State.voiceServed State.countUnderrun
  dsimp only
  split <;> simp

end

/-- The context after a voice beat: drained, and on the source its feed's state asks for where its request comes to stand
(R140). -/
def Context.voiced (x : Context) (s : State) (e : BitVec 4) : Context :=
  if (x.drained e).hungry then (x.drained e).followed s else x.drained e

theorem Context.voiced_followed {x : Context} {e : BitVec 4} (h : (x.drained e).hungry = true) :
    x.voiced s e = (x.drained e).followed s := if_pos h

theorem Context.voiced_settled {x : Context} {e : BitVec 4}
    (h : ∀ f, (x.drained e).reads f → ((s.feed f).state = .live ↔ x.source = .ring)) : x.voiced s e = x.drained e := by
  unfold Context.voiced
  split
  · next hh =>
    exact Context.followed_settled fun hon => h _ ((Context.reads_iff ..).2 ⟨hh, hon, rfl⟩)
  · rfl

theorem voiceBeat_eq (h : (s.context k).state = .playing) (e : BitVec 4) :
    (s.voiceBeat k e).path.answer = (s.voiceServed k e).path.answer ∧
      (∀ c, (s.voiceBeat k e).call c = (s.voiceServed k e).call c) ∧
      (∀ j, (s.voiceBeat k e).context j = if j = k then (s.context k).voiced s e else s.context j) ∧
      Changes [.answer, .contexts, .calls] s (s.voiceBeat k e) := by
  obtain ⟨hfeed, hsegment⟩ := voiceServed_keeps (s := s) k e
  have hframe := frame_voiceServed (s := s) k e
  rw [voiceBeat_playing h]
  unfold Context.voiced
  split
  · refine ⟨by simp, fun c => by simp, fun j => ?_, State.frame_followFeed _ hframe _ (by simp)⟩
    rw [State.context_followFeed, State.followed_congr _ hfeed hsegment]
    by_cases hj : j = k <;> simp [hj, context_voiceServed]
  · exact ⟨rfl, fun c => rfl, context_voiceServed k e, hframe⟩

/-- A voice read of a PLAYING context, by what its context becomes (R125). -/
theorem voiceRead_leaves {i : Instr} {z : Context} (hexec : exec i s = .next (s.voiceBeat k b.enables).settle)
    (hplay : (s.context k).state = .playing) (hz : (s.context k).voiced s b.enables = z) :
    ∃ t word, exec i s = .next t ∧ t.path.answer = .data word ∧
      (∀ l < 4, word.extractLsb' (8 * l) 8 =
        if b.enables.getLsbD l then
          (s.context k).buffer.getD ((enabledLanes b.enables).filter (· < l)).length s.part.config.silence
        else s.part.config.silence) ∧
      t.context k = z ∧ ContextsBut k s t ∧
      t.call (s.context k).call =
        { s.call (s.context k).call with
          underruns :=
            if (s.context k).buffer.length < (enabledLanes b.enables).length then
              min ((s.call (s.context k).call).underruns + 1) 65535
            else (s.call (s.context k).call).underruns } ∧
      CallsBut (s.context k).call s t ∧ Changes [.answer, .contexts, .calls, .passCount] s t := by
  obtain ⟨hanswer, hcall, hcontext, hframe⟩ := voiceBeat_eq hplay b.enables
  refine ⟨_, _, hexec, ?_, extract_served _ _ _, ?_, fun j hj => ?_, ?_, fun c hc => ?_,
    frame_settle (hframe.mono (by simp)) (by simp)⟩
  · rw [State.answer_settle, hanswer, answer_voiceServed]
  · rw [State.context_settle, hcontext, if_pos rfl, hz]
  · rw [State.context_settle, hcontext, if_neg hj]
  · rw [State.call_settle, hcall, call_voiceServed, if_pos rfl]
  · rw [State.call_settle, hcall, call_voiceServed, if_neg hc]

end

/-- Settles O32: the lanes as they are served, and the source the drained context's feed asks for. -/
theorem voiceReadsTakeTheNextSamples : Obligations.VoiceReadsTakeTheNextSamples := by
  intro s i b ch k hp ha hw hact htag hcls hb x asked lane drained leaves
  have hexec (hrun : x.running = true) : exec i s = .next (s.voiceBeat k b.enables).settle := by
    rw [exec_read hp ha hw, hcls, takeRead_voice hact htag hb hrun]
  have hleaves (hplay : x.state = .playing) {z : Context} (hz : x.voiced s b.enables = z) : leaves z :=
    voiceRead_leaves (hexec ((running_iff x).2 (.inr hplay))) hplay hz
  refine ⟨fun hplay hno => ?_, fun f hplay hreads => ?_, fun hstart => ?_⟩
  · exact hleaves hplay (Context.voiced_settled fun f hf => absurd hf (hno f))
  · intro seg
    obtain ⟨hhungry, hon, hfeed⟩ := (Context.reads_iff ..).1 hreads
    have hfollow {z : Context} (hz : (x.drained b.enables).followed s = z) : leaves z :=
      hleaves hplay ((Context.voiced_followed hhungry).trans hz)
    have hback (hdown : (s.feed f).state ≠ .live) (hring : x.source = .ring) :
        (x.drained b.enables).followed s = (x.drained b.enables).fallBack seg 0 := Context.reader_falls hreads hdown hring
    refine ⟨fun hsettled => hfollow (Context.followed_settled fun _ => ?_), fun hlive hsource =>
      hfollow (Context.reader_joins hreads hlive hsource), fun hdown hring hdef =>
      hfollow ((hback hdown hring).trans (Context.fallBack_defined _ _ hdef)), fun hdown hring hundef =>
      hfollow ((hback hdown hring).trans (Context.fallBack_silent _ _ (ne_true_of_eq_false hundef)))⟩
    rw [← hfeed] at hsettled
    exact hsettled
  · have hvoice := hexec ((running_iff x).2 (.inl hstart))
    rw [voiceBeat_starting hstart] at hvoice
    refine ⟨_, _, hvoice, by rw [State.answer_settle, State.path_answerRead], fun l hl => ?_,
      frame_settle (frame_answerRead (.refl ..) _ (by simp)) (by simp)⟩
    rw [extract_lanesWord _ l hl, List.getD_eq_getElem?_getD, List.getElem?_replicate, if_pos hl, Option.getD_some]

end Sys2Proof.Machine
end

section
/-! SUPPORT. What an event of the Playout Engine hands to control, and a group of samples placed (07 R115 to R118, R123,
R124). -/

namespace Sys2Proof.Machine

variable {s w : State} {k : Nat}

/-! ### A context written, and what goes on from it -/

/-- A state between an event's beginning and the writing of its context: the contexts and the free values still stand as the
event found them, and the events are `e`. -/
structure Unwritten (cs : List Component) (s w : State) (e : EventUnit) : Prop where
  contexts : w.playout.contexts = s.playout.contexts
  frame : Changes cs s w
  events : w.events = e
  freeIndex : w.freeIndex = s.freeIndex

theorem Unwritten.refl (cs : List Component) (s : State) : Unwritten cs s s s.events := ⟨rfl, .refl .., rfl, rfl⟩

section
variable {i : Instr} {cs : List Component} {e : EventUnit} {r : State × Control} (hw : Unwritten cs s w e) (hc : .contexts ∈ cs)
  (he : exec i s = .next (r.1.control k r.2).settle)
include hw hc he

theorem goesOn_of_answer {y : Context} {x : Control} (hr : r = (w.setContext k y, x)) : GoesOn i cs s k e y x := by
  subst hr
  refine ⟨_, w.setContext k y, he, ?_, fun j hj => ?_, hw.events, frame_setContext hw.frame _ _ hc, changes_settle _⟩
  · rw [State.context_setContext, if_pos rfl]
  · rw [State.context_setContext, if_neg hj]
    exact congrArg (fun t => Table.read Context.cold t j) hw.contexts

/-- A count of 0 has been lowered: the free value decides how the activity goes on (log 11). -/
theorem goesFreely_of_answer {y : Context} {again : Nat → Context} {x : Control}
    (hzero : (Config.loweredZero w.freeIndex).toNat = 0 →
      r = (({ w with freeIndex := w.freeIndex + 1 } : State).setContext k y, x))
    (hpos : (Config.loweredZero w.freeIndex).toNat ≠ 0 →
      r = (({ w with freeIndex := w.freeIndex + 1 } : State).setContext k (again (Config.loweredZero w.freeIndex).toNat), .done)) :
    GoesFreely i cs s k y again x := by
  rw [hw.freeIndex] at hzero hpos
  have hframe : Changes (.freeIndex :: cs) s { w with freeIndex := s.freeIndex + 1 } :=
    frame_freeIndex (hw.frame.mono (List.subset_cons_self ..)) _ (by simp)
  have hcontext (j : Nat) : w.context j = s.context j := congrArg (fun t => Table.read Context.cold t j) hw.contexts
  have hwritten (y : Context) {x : Control} (hr : r = (({ w with freeIndex := s.freeIndex + 1 } : State).setContext k y, x)) :
      ∃ t v, exec i s = .next t ∧ v.context k = y ∧ v.freeIndex = s.freeIndex + 1 ∧ ContextsBut k s v ∧
        Changes (.freeIndex :: cs) s v ∧ Changes [.passCount] (v.control k x) t := by
    subst hr
    refine ⟨_, ({ w with freeIndex := s.freeIndex + 1 } : State).setContext k y, he, ?_, rfl, fun j hj => ?_,
      frame_setContext hframe _ _ (by simp [hc]), changes_settle _⟩
    · rw [State.context_setContext, if_pos rfl]
    · rw [State.context_setContext, if_neg hj]
      exact hcontext j
  unfold GoesFreely
  by_cases hn : (Config.loweredZero s.freeIndex).toNat = 0
  · simp only [if_pos hn]
    exact hwritten y (hzero hn)
  · simp only [if_neg hn]
    exact hwritten _ (hpos hn)

/-- The end of a pass or a period, with `left` of `count` passes or bursts to go: again without end, again, at the last, or
by the free value. -/
theorem goesOn_lowered {count left : Nat} {forever y : Context} {again : Nat → Context} {x : Control}
    (hforever : count = 0 → r = (w.setContext k forever, .done))
    (hmore : count ≠ 0 → 1 < left → r = (w.setContext k (again (left - 1)), .done))
    (hlast : count ≠ 0 → left = 1 → r = (w.setContext k y, x))
    (hfree : count ≠ 0 → left = 0 →
      ((Config.loweredZero w.freeIndex).toNat = 0 →
        r = (({ w with freeIndex := w.freeIndex + 1 } : State).setContext k y, x)) ∧
      ((Config.loweredZero w.freeIndex).toNat ≠ 0 →
        r = (({ w with freeIndex := w.freeIndex + 1 } : State).setContext k (again (Config.loweredZero w.freeIndex).toNat),
          .done))) :
    (count = 0 → GoesOn i cs s k e forever .done) ∧
    (count ≠ 0 →
      (1 < left → GoesOn i cs s k e (again (left - 1)) .done) ∧ (left = 1 → GoesOn i cs s k e y x) ∧
      (left = 0 → GoesFreely i cs s k y again x)) := by
  refine ⟨fun h => goesOn_of_answer hw hc he (hforever h), fun h => ⟨fun h1 => goesOn_of_answer hw hc he (hmore h h1),
    fun h1 => goesOn_of_answer hw hc he (hlast h h1), fun h1 => ?_⟩⟩
  obtain ⟨hzero, hpos⟩ := hfree h h1
  exact goesFreely_of_answer hw hc he hzero hpos

/-- The end of a pass (R116), as an event leaves it. -/
theorem goesOn_endPass {z : Context} {j : Nat} (ha : z.activity = .step j) (hr : r = (w.setContext k z).endPass k) :
    (z.step.count = 0 → GoesOn i cs s k e { z with position := z.segment.loopStart } .done) ∧
    (z.step.count ≠ 0 →
      (1 < z.passes → GoesOn i cs s k e { z with position := z.segment.loopStart, passes := z.passes - 1 } .done) ∧
      (z.passes = 1 → GoesOn i cs s k e z (.begin (j + 1))) ∧
      (z.passes = 0 →
        GoesFreely i cs s k z (fun n => { z with position := z.segment.loopStart, passes := n }) (.begin (j + 1)))) := by
  obtain ⟨hforever, hmore, hlast, hfree⟩ := w.endPass_setContext k z
  have hindex : z.index = j := by unfold Context.index; rw [ha]
  subst hr
  rw [hindex] at hlast hfree
  exact goesOn_lowered hw hc he (again := fun n => { z with position := z.segment.loopStart, passes := n }) hforever hmore
    hlast hfree

/-- The end of a period (R117), as an event leaves it. -/
theorem goesOn_endPeriod {z : Context} {j : Nat} (ha : z.activity = .step j) (hr : r = (w.setContext k z).endPeriod k) :
    (z.step.count = 0 → GoesOn i cs s k e { z with phase := 0, position := 0 } .done) ∧
    (z.step.count ≠ 0 →
      (1 < z.bursts → GoesOn i cs s k e { z with phase := 0, position := 0, bursts := z.bursts - 1 } .done) ∧
      (z.bursts = 1 → GoesOn i cs s k e z (.begin (j + 1))) ∧
      (z.bursts = 0 →
        GoesFreely i cs s k z (fun n => { z with phase := 0, position := 0, bursts := n }) (.begin (j + 1)))) := by
  obtain ⟨hforever, hmore, hlast, hfree⟩ := w.endPeriod_setContext k z
  have hindex : z.index = j := by unfold Context.index; rw [ha]
  subst hr
  rw [hindex] at hlast hfree
  exact goesOn_lowered hw hc he (again := fun n => { z with phase := 0, position := 0, bursts := n }) hforever hmore hlast
    hfree

end

/-- An event that only writes its context. -/
theorem goesOn_leaves {i : Instr} {cs : List Component} {e : EventUnit} {y : Context} (hw : Unwritten cs s w e)
    (hc : .contexts ∈ cs) (he : exec i s = .next (w.setContext k y).settle) : GoesOn i cs s k e y .done :=
  goesOn_of_answer (r := (w.setContext k y, .done)) hw hc he rfl

/-! ### A group placed (R124) -/

/-- Where the write side stands after a group has joined the buffer of a context, and what control does next. -/
def State.placing (w : State) (k : Nat) (z : Context) (l : List Byte) : State × Control :=
  (w.setContext k (z.fill l)).advance k l.length

theorem place_eq (s : State) (k : Nat) (l : List Byte) :
    s.place k l = (s.placing k (s.context k) l).1.control k (s.placing k (s.context k) l).2 := rfl

theorem place_setContext (w : State) (k : Nat) (z : Context) (l : List Byte) :
    (w.setContext k z).place k l = (w.placing k z l).1.control k (w.placing k z l).2 := by
  rw [place_eq]
  unfold State.placing
  rw [State.context_setContext, if_pos rfl, State.setContext_setContext]

section
variable {z : Context} {l : List Byte}

/-- A context whose group has moved it on in its segment, or in its stretch of silence. -/
def Context.moved (z : Context) (l : List Byte) : Context := { z.fill l with position := z.position + l.length }

section
variable {i : Nat} (ha : z.activity = .step i)
include ha

theorem placing_played (hk : z.step.kind = .play ∨ z.step.kind = .sayWait ∨ z.step.kind = .sayPosition)
    (hl : z.position + l.length < z.segment.length) : w.placing k z l = (w.setContext k (z.moved l), .done) := by
  unfold State.placing State.advance
  rcases hk with hk | hk | hk <;>
    simp [Context.fill, Context.moved, ha, hk, Nat.not_le.2 hl, State.setContext_setContext]

theorem placing_pass (hk : z.step.kind = .play) (hl : z.segment.length ≤ z.position + l.length) :
    w.placing k z l = (w.setContext k (z.moved l)).endPass k := by
  unfold State.placing State.advance
  simp [Context.fill, Context.moved, ha, hk, hl, State.setContext_setContext]

theorem placing_said (hk : z.step.kind = .sayWait ∨ z.step.kind = .sayPosition)
    (hl : z.segment.length ≤ z.position + l.length) :
    w.placing k z l = (w.setContext k (z.moved l), .begin (i + 1)) := by
  unfold State.placing State.advance
  rcases hk with hk | hk <;> simp [Context.fill, Context.moved, ha, hk, hl, State.setContext_setContext]

theorem placing_quiet (hk : z.step.kind = .quiet) : w.placing k z l =
    (w.setContext k (z.moved l), if z.step.count * 800 ≤ z.position + l.length then .begin (i + 1) else .done) := by
  unfold State.placing State.advance Config.framesPerTick
  simp only [State.context_setContext, if_true, Context.fill, Context.moved, ha, hk, State.setContext_setContext]
  split <;> rfl

/-- A TONE step's on samples move it on in its segment and its period (R117). -/
theorem placing_sounded (hk : z.step.kind = .tone) (hp : z.phase < z.step.on) : w.placing k z l =
    if z.step.period ≤ z.phase + l.length then
      (w.setContext k { z.moved l with phase := z.phase + l.length }).endPeriod k
    else (w.setContext k { z.moved l with phase := z.phase + l.length }, .done) := by
  unfold State.placing State.advance
  simp only [State.context_setContext, if_true, Context.fill, Context.moved, ha, hk, hp, State.setContext_setContext]

/-- The silent samples of a TONE period move it on in its period alone (R117). -/
theorem placing_silent (hk : z.step.kind = .tone) (hp : z.step.on ≤ z.phase) : w.placing k z l =
    if z.step.period ≤ z.phase + l.length then (w.setContext k { z.fill l with phase := z.phase + l.length }).endPeriod k
    else (w.setContext k { z.fill l with phase := z.phase + l.length }, .done) := by
  unfold State.placing State.advance
  simp only [State.context_setContext, if_true, Context.fill, ha, hk, if_neg (Nat.not_lt.2 hp), State.setContext_setContext]

/-- A reader's pointer goes round its ring (R142). -/
theorem placing_ring (hk : z.step.kind = .feed) (hs : z.source = .ring) : w.placing k z l =
    (w.setContext k
      { z.fill l with
        pointer :=
          if z.pointer + BitVec.ofNat 32 l.length = (w.feed z.step.feed).latched.ringEnd then
            (w.feed z.step.feed).latched.ringStart
          else z.pointer + BitVec.ofNat 32 l.length }, .done) := by
  unfold State.placing State.advance
  simp [Context.fill, ha, hk, hs, State.setContext_setContext]

/-- A fallback plays without end, from its loop start again (R118). -/
theorem placing_fallback (hk : z.step.kind = .feed) (hs : z.source = .segment) : w.placing k z l =
    (w.setContext k
      { z.fill l with
        position :=
          if z.segment.length ≤ z.position + l.length then z.segment.loopStart else z.position + l.length }, .done) := by
  unfold State.placing State.advance
  by_cases hl : z.segment.length ≤ z.position + l.length <;>
    simp [Context.fill, ha, hk, hs, hl, State.setContext_setContext]

theorem placing_silence (hk : z.step.kind = .feed) (hs : z.source = .silence) :
    w.placing k z l = (w.setContext k (z.fill l), .done) := by
  unfold State.placing State.advance
  simp [Context.fill, ha, hk, hs]

end

theorem placing_announced (ha : z.activity = .announcement) (hl : z.position + l.length < z.segment.length) :
    w.placing k z l = (w.setContext k (z.moved l), .done) := by
  unfold State.placing State.advance
  simp [Context.fill, Context.moved, ha, Nat.not_le.2 hl, State.setContext_setContext]

/-- The end of an announcement pops the record it saved (R123). -/
theorem placing_returns {r : ReturnRecord} {rest : List ReturnRecord} (ha : z.activity = .announcement)
    (hl : z.segment.length ≤ z.position + l.length) (hstack : z.stack = r :: rest) : w.placing k z l =
      (w.setContext k
        { z.moved l with
          stack := rest, timer := if rest = [] then (w.program z.program).period else z.timer }, .resume r) := by
  have hpop := w.popReturn_setContext k (z.moved l) r rest hstack
  unfold State.placing State.advance
  simpa [Context.fill, Context.moved, ha, hl, State.setContext_setContext] using hpop

end

/-! ### Following a feed, as a state (R140) -/

theorem followFeed_settled
    (h : (s.context k).onFeed = true → ((s.feed (s.context k).step.feed).state = .live ↔ (s.context k).source = .ring)) :
    s.followFeed k = s := by
  unfold State.followFeed
  dsimp only
  split
  · next hon =>
    have h := h hon
    by_cases hl : (s.feed (s.context k).step.feed).state = .live
    · simp [hl, h.1 hl]
    · have hs : (s.context k).source ≠ .ring := mt h.2 hl
      cases hsource : (s.context k).source <;> simp_all
  · rfl

/-- A reader whose source is not the one its feed's state asks for is written anew. -/
theorem followFeed_switches (hon : (s.context k).onFeed = true)
    (h : ¬ ((s.feed (s.context k).step.feed).state = .live ↔ (s.context k).source = .ring)) :
    s.followFeed k = s.setContext k ((s.context k).followed s) := by
  unfold State.followFeed Context.followed
  by_cases hl : (s.feed (s.context k).step.feed).state = .live
  · cases hsource : (s.context k).source <;> simp_all
  · cases hsource : (s.context k).source <;> simp_all

end Sys2Proof.Machine
end

section
/-! SUPPORT. Generated groups and interjection ticks (07 R117 to R119, R122, R124; 08 R140). -/

namespace Sys2Proof.Machine

variable {s : State} {k : Nat}

/-! ### The interjection timer (R122) -/

theorem Context.counts_iff (x : Context) : x.counts = true ↔ x.state = .playing ∧ x.stack = [] ∧ x.timer ≠ 0 := by
  unfold Context.counts
  simp [List.isEmpty_iff, and_assoc]

/-- A context that has taken a tick. -/
def Context.ticked (x : Context) : Context := { x with ticksTaken := x.ticksTaken + 1 }

theorem takeContextTick_idle (h : ¬ (s.context k).counts = true) : s.takeContextTick k = s.setContext k (s.context k).ticked :=
  if_pos (eq_false_of_ne_true h)

theorem takeContextTick_counts (h : (s.context k).counts = true) (ht : (s.context k).timer ≠ 1) :
    s.takeContextTick k = s.setContext k { (s.context k).ticked with timer := (s.context k).timer - 1 } := by
  unfold State.takeContextTick
  simp only [h, ht, if_false, Bool.true_eq_false]
  rfl

/-- The tick that brings the timer to 0 cuts the activity and begins the interjection step (R122). -/
theorem takeContextTick_interjects (h : (s.context k).counts = true) (ht : (s.context k).timer = 1) :
    s.takeContextTick k =
      (s.setContext k ({ (s.context k).ticked with timer := 0 }.cut false)).control k
        (.begin (s.program (s.context k).program).interjectionStep) := by
  unfold State.takeContextTick State.interject
  simp only [h, ht, if_true, if_false, Bool.true_eq_false, State.context_setContext, State.setContext_setContext,
    State.program_setContext]
  rfl

section
variable (hk : k < 512) (ha : s.path.resetAsserted = false) (hd : (s.context k).ticksTaken ≠ s.tick)
include hk ha hd

theorem exec_interjectionTick : exec (.interjectionTick k) s = .next (s.takeContextTick k).settle := by
  show execInterjectionTick k s = _
  unfold execInterjectionTick
  rw [if_neg (show ¬ Config.numContexts ≤ k from Nat.not_le.2 hk), event_awake _ ha, if_pos (show s.contextTickDue k = true from bne_iff_ne.2 hd)]

theorem exec_interjection (hc : (s.context k).counts = true) (ht : (s.context k).timer = 1) :
    exec (.interjection k) s = .next (s.takeContextTick k).settle := by
  have hdue : s.contextTickDue k = true := bne_iff_ne.2 hd
  show execInterjection k s = _
  unfold execInterjection
  rw [if_neg (show ¬ Config.numContexts ≤ k from Nat.not_le.2 hk), event_awake _ ha, if_pos (by simp [hdue, hc, ht])]

end

/-- What an interjection saves of a step (R120, R122; log 37). -/
theorem Context.saved_step (x : Context) {j : Nat} (h : x.activity = .step j) : x.saved false =
    { step := j, position := x.position, passes := x.passes, phase := x.phase, bursts := x.bursts, announcement := false
      fallback := decide (x.step.kind = .feed) && decide (x.source ≠ .ring) } := by
  have hfeed : (x.step.kind == .feed) = decide (x.step.kind = .feed) := by
    cases x.step.kind <;> rfl
  have hring : (x.source != .ring) = decide (x.source ≠ .ring) := by
    cases x.source <;> rfl
  unfold Context.saved Context.index Context.onFeed
  rw [h, ← hfeed, ← hring]

/-- Settles O50: a tick by whether the timer counts, and by whether it stands at 1. -/
theorem timersInterject : Obligations.TimersInterject := by
  intro s k hk ha hd x goesOn leaves
  have htick := exec_interjectionTick hk ha hd
  have hwrites {y : Context} (h : s.takeContextTick k = s.setContext k y) : leaves (.interjectionTick k) y := by
    rw [h] at htick
    exact goesOn_leaves (.refl ..) (by simp) htick
  refine ⟨fun hidle => hwrites (takeContextTick_idle ?_), fun hp hs ht => hwrites (takeContextTick_counts ?_ ?_),
    fun i j hi hp hs ht hact => ?_⟩
  · rw [Context.counts_iff]
    rintro ⟨hplay, hstack, htimer⟩
    rcases hidle with h | h | h
    · exact h hplay
    · exact h hstack
    · exact htimer h
  · exact (Context.counts_iff _).2 ⟨hp, hs, Nat.ne_of_gt (Nat.zero_lt_of_lt ht)⟩
  · exact Nat.ne_of_gt ht
  · have hcounts : x.counts = true := (Context.counts_iff _).2 ⟨hp, hs, by rw [ht]; decide⟩
    have hexec : exec i s = .next (s.takeContextTick k).settle := by
      rcases hi with rfl | rfl
      · exact htick
      · exact exec_interjection hk ha hd hcounts ht
    rw [takeContextTick_interjects hcounts ht] at hexec
    refine goesOn_of_answer (r := (s.setContext k _, .begin (s.program x.program).interjectionStep)) (.refl ..) (by simp) hexec ?_
    have hsaved := Context.saved_step { x.ticked with timer := 0 } hact
    unfold Context.cut
    rw [hsaved]
    simp only [Context.ticked, show (s.context k).stack = [] from hs]
    rfl

/-! ### Generated groups (R124) -/

section
variable {x : Context} {i : Nat} (ha : x.activity = .step i)
include ha

theorem next_quiet (hk : x.step.kind = .quiet) : x.next = .generated (x.step.count * 800 - x.position) := by
  unfold Context.next
  simp only [ha, hk]
  rfl

theorem next_silent (hk : x.step.kind = .tone) (hp : x.step.on ≤ x.phase) :
    x.next = .generated (x.step.period - x.phase) := by
  unfold Context.next
  simp only [ha, hk, if_neg (Nat.not_lt.2 hp)]

theorem next_silence (hk : x.step.kind = .feed) (hs : x.source = .silence) : x.next = .generated 8 := by
  unfold Context.next
  simp only [ha, hk, hs]
  rfl

theorem next_ring (hk : x.step.kind = .feed) (hs : x.source = .ring) : x.next = .ring x.step.feed := by
  unfold Context.next
  simp only [ha, hk, hs]

end

theorem placeGenerated_ring {f : Nat} (h : (s.context k).next = .ring f) : s.placeGenerated k = s := by
  unfold State.placeGenerated
  simp only [h]

section
variable {left : Nat} (hk : k < 512) (ha : s.path.resetAsserted = false) (hrun : (s.context k).running = true)
  (hfill : (s.context k).buffer.length ≤ 8) (hnext : (s.context k).next = .generated left) (hleft : 0 < left)
include hk ha hrun hfill hnext hleft

/-- A context that wants a generated group reads its feed's state first (R124, R140). -/
theorem exec_generatedGroup :
    exec (.generatedGroup k) s = .next ((s.followFeed k).placeGenerated k).settle := by
  have hwants : (s.context k).wantsGenerated = true := by
    unfold Context.wantsGenerated Config.lowWater
    simp [hrun, hfill, hnext, hleft]
  show execGeneratedGroup k s = _
  unfold execGeneratedGroup
  rw [if_neg (show ¬ Config.numContexts ≤ k from Nat.not_le.2 hk), event_awake _ ha, if_pos hwants]

theorem exec_generatedGroup_places (hstay : s.followFeed k = s) : exec (.generatedGroup k) s =
    .next ((s.placing k (s.context k) (List.replicate (min 8 left) s.part.config.silence)).1.control k
      (s.placing k (s.context k) (List.replicate (min 8 left) s.part.config.silence)).2).settle := by
  rw [exec_generatedGroup hk ha hrun hfill hnext hleft, hstay]
  unfold State.placeGenerated
  simp only [hnext, if_neg (Nat.ne_of_gt hleft)]
  rfl

end

/-- Settles O49: the group that each silent stretch takes, and where its end leads. -/
theorem generatedGroupsAreSilence : Obligations.GeneratedGroupsAreSilence := by
  intro s k hk ha x hstate hfill i hact goesOn leaves silent
  have hrun : x.running = true := (running_iff x).2 hstate
  have hplaces {left : Nat} (hnext : x.next = .generated left) (hleft : 0 < left) (hstay : s.followFeed k = s) :=
    exec_generatedGroup_places hk ha hrun hfill hnext hleft hstay
  have hoff (h : x.step.kind ≠ .feed) : s.followFeed k = s :=
    followFeed_settled fun hon => by
      obtain ⟨_, _, hkind⟩ := (Context.onFeed_iff _).1 hon
      exact absurd hkind h
  have hwritten : Unwritten [.contexts] s s s.events := .refl ..
  have hcontexts : Component.contexts ∈ [Component.contexts] := by simp
  refine ⟨fun hq hpos => ?quiet, fun ht hon hphase => ?tone, fun hf hs => ⟨fun hlost => ?silence, fun hlive hfree => ?joins⟩⟩
  case quiet =>
    intro n
    have hexec := hplaces (next_quiet hact hq) (by omega) (hoff (by simp [hq]))
    have hplaced := placing_quiet (w := s) (k := k) (l := List.replicate n s.part.config.silence) hact hq
    simp only [Context.moved, List.length_replicate] at hplaced
    refine ⟨fun h => goesOn_of_answer hwritten hcontexts hexec (hplaced.trans ?_),
      fun h => goesOn_of_answer hwritten hcontexts hexec (hplaced.trans ?_)⟩
    · rw [if_neg (Nat.not_le.2 h)]
      rfl
    · rw [if_pos (Nat.le_of_eq h.symm)]
      rfl
  case tone =>
    intro n
    have hexec := hplaces (next_silent hact ht hon) (by omega) (hoff (by simp [ht]))
    have hplaced := placing_silent (w := s) (k := k) (l := List.replicate n s.part.config.silence) hact ht hon
    rw [List.length_replicate] at hplaced
    refine ⟨fun h => goesOn_of_answer hwritten hcontexts hexec (hplaced.trans (if_neg (Nat.not_le.2 h))), ?_⟩
    by_cases hend : x.phase + n = x.step.period
    · obtain ⟨hforever, hcounted⟩ := goesOn_endPeriod hwritten hcontexts hexec (z := { silent n with phase := x.phase + n }) hact
        (hplaced.trans (if_pos (Nat.le_of_eq hend.symm)))
      refine ⟨fun _ hmore => ?_, fun _ hc hb => (hcounted hc).2.1 hb, fun _ hc hb => (hcounted hc).2.2 hb⟩
      by_cases hc : x.step.count = 0
      · rw [if_pos hc]
        exact hforever hc
      · rw [if_neg hc]
        exact (hcounted hc).1 (hmore.resolve_left hc)
    · exact ⟨fun h => absurd h hend, fun h => absurd h hend, fun h => absurd h hend⟩
  case silence =>
    have hstay : s.followFeed k = s := followFeed_settled fun _ => by simp [hlost, hs, x]
    exact goesOn_of_answer hwritten hcontexts (hplaces (next_silence hact hf hs) (by decide) hstay)
      (placing_silence hact hf hs)
  case joins =>
    have hon : x.onFeed = true := (Context.onFeed_iff _).2 ⟨i, hact, hf⟩
    have hring : x.source ≠ .ring := by simp [hs]
    have hkeep : (x.redirected || x.inFlight) = x.redirected := by rw [hfree, Bool.or_false]
    have hjoined := Context.followed_joins hon hlive hring
    rw [hkeep] at hjoined
    have hexec := exec_generatedGroup hk ha hrun hfill (next_silence hact hf hs) (by decide)
    rw [followFeed_switches hon (by simp [hlive, hring, x]), hjoined] at hexec
    rw [placeGenerated_ring (f := x.step.feed)
      (by rw [State.context_setContext, if_pos rfl]; exact next_ring hact hf rfl)] at hexec
    exact goesOn_leaves hwritten hcontexts hexec

end Sys2Proof.Machine
end

section
/-! SUPPORT. The end of a fetch burst: its data or its error discarded or delivered (07 R112, R116 to R118, R123, R128, R129;
08 R140, R142). -/

namespace Sys2Proof.Machine

variable {s : State} {k : Nat}

/-! ### The burst cleared (R128) -/

/-- No burst is outstanding. -/
def State.fetchCleared (s : State) : State := { s with playout := { s.playout with fetch := none } }

/-- A context whose burst has come back. -/
def Context.landed (x : Context) : Context := { x with inFlight := false, redirected := false }

theorem unwritten_fetchCleared (s : State) : Unwritten [.contexts, .fetch] s s.fetchCleared s.events := by
  refine ⟨rfl, ⟨fun c hc => ?_⟩, rfl, rfl⟩
  cases c <;> simp_all [Component.agree, State.fetchCleared]

theorem clearFetch_eq (s : State) (k : Nat) : s.clearFetch k = s.fetchCleared.setContext k (s.context k).landed := rfl

theorem clearFetch_setContext (y : Context) :
    (s.setContext k y).clearFetch k = s.fetchCleared.setContext k y.landed := by
  rw [clearFetch_eq, State.context_setContext, if_pos rfl]
  exact State.setContext_setContext s.fetchCleared k y y.landed

/-! ### What a burst's end finds (R128, R129, R140) -/

section
variable {deliver : State → State}

theorem arrive_draining (h : (s.context k).state = .draining) : s.arrive k deliver =
    s.fetchCleared.setContext k { Context.cold with ticksTaken := (s.context k).ticksTaken } := if_pos h

variable (h : (s.context k).state ≠ .draining)
include h

theorem arrive_discards (hstay : s.followFeed k = s) (hr : (s.context k).redirected = true) :
    s.arrive k deliver = s.fetchCleared.setContext k (s.context k).landed := by
  unfold State.arrive
  simp only [if_neg h, hstay, hr, if_true, clearFetch_eq]

theorem arrive_delivers (hstay : s.followFeed k = s) (hr : (s.context k).redirected = false) :
    s.arrive k deliver = deliver (s.fetchCleared.setContext k (s.context k).landed) := by
  unfold State.arrive
  simp only [if_neg h, hstay, hr, Bool.false_eq_true, if_false, clearFetch_eq]

/-- A burst for a reader that takes its other source delivers nothing (R128, R140). -/
theorem arrive_switches {y : Context} (hswitch : s.followFeed k = s.setContext k y) (hr : y.redirected = true) :
    s.arrive k deliver = s.fetchCleared.setContext k y.landed := by
  unfold State.arrive
  simp only [if_neg h, hswitch, State.context_setContext, if_true, hr, clearFetch_setContext]

end

/-! ### What a delivery keeps of the fetch -/

theorem Controlled.fetch {c ch : Nat} {t : State} (h : Controlled k c ch s t) : t.playout.fetch = s.playout.fetch := by
  rw [h.rest]

theorem fetch_endPass : (s.endPass k).1.playout.fetch = s.playout.fetch := (answer_endPass rfl rfl).1.fetch

theorem fetch_endPeriod : (s.endPeriod k).1.playout.fetch = s.playout.fetch := (answer_endPeriod rfl rfl).1.fetch

theorem fetch_popReturn : (s.popReturn k).1.playout.fetch = s.playout.fetch := (answer_popReturn rfl rfl).1.fetch

theorem fetch_advance (n : Nat) : (s.advance k n).1.playout.fetch = s.playout.fetch := by
  unfold State.advance
  dsimp only
  repeat' split
  all_goals simp [fetch_endPass, fetch_endPeriod, fetch_popReturn]

theorem fetch_place (l : List Byte) : (s.place k l).playout.fetch = s.playout.fetch := by
  unfold State.place
  simp [fetch_advance]

theorem fetch_fetchFailed : (s.fetchFailed k).playout.fetch = s.playout.fetch := by
  unfold State.fetchFailed State.endActivity
  dsimp only
  split <;> simp [fetch_popReturn]

theorem fetch_arrive {deliver : State → State} (hd : ∀ u : State, (deliver u).playout.fetch = u.playout.fetch) :
    (s.arrive k deliver).playout.fetch = none := by
  unfold State.arrive
  dsimp only
  repeat' split
  · rfl
  · rfl
  · rw [hd]
    rfl

/-! ### The two responses -/

section
variable {b : FetchBurst} (ha : s.path.resetAsserted = false) (hb : s.playout.fetch = some b)
include ha hb

theorem exec_burstArrival (first second : Word) : exec (.burstArrival first second) s =
    .next (s.arrive b.context fun s => s.place b.context (burstSamples b first second)).settle := by
  show execBurstArrival first second s = _
  unfold execBurstArrival
  rw [event_awake _ ha]
  simp only [hb]

theorem exec_fetchError :
    exec .fetchError s = .next (s.arrive b.context fun s => s.fetchFailed b.context).settle := by
  show execFetchError s = _
  unfold execFetchError
  rw [event_awake _ ha]
  simp only [hb]

/-- Whatever the response, it is discarded or delivered to the burst's context. -/
theorem exec_endsBurst {a : Instr} {first second : Word} (h : a = .burstArrival first second ∨ a = .fetchError) :
    ∃ deliver : State → State, (∀ u, (deliver u).playout.fetch = u.playout.fetch) ∧
      exec a s = .next (s.arrive b.context deliver).settle := by
  rcases h with rfl | rfl
  · exact ⟨_, fun _ => fetch_place _, exec_burstArrival ha hb first second⟩
  · exact ⟨_, fun _ => fetch_fetchFailed, exec_fetchError ha hb⟩

end

/-! ### An error delivered (R129) -/

/-- PLAYOUT_FAULT with FETCH_ERROR for a call (R129). -/
def State.fetchFault (s : State) (c : Nat) : State := s.post .playout .playoutFault (some c) none none 4

theorem fetchFault_setContext (w : State) (y : Context) (c : Nat) :
    (w.setContext k y).fetchFault c = (w.fetchFault c).setContext k y := by
  unfold State.fetchFault State.post
  dsimp only
  have henables : (w.setContext k y).part = w.part := rfl
  have hroom : (w.setContext k y).eventRoom .playout = w.eventRoom .playout := rfl
  rw [henables, hroom]
  repeat' split
  all_goals rfl

theorem unwritten_fetchFault (s : State) (c : Nat) :
    Unwritten ([.contexts, .fetch] ++ posting) s (s.fetchCleared.fetchFault c) (s.fetchFault c).events := by
  refine ⟨?_, (unwritten_fetchCleared s).frame.append (changes_post ..), ?_, ?_⟩
  · unfold State.fetchFault
    rw [State.playout_post]
    rfl
  · unfold State.fetchFault
    exact State.events_post_congr (s := s) (u := s.fetchCleared) rfl rfl rfl rfl ..
  · unfold State.fetchFault
    rw [State.freeIndex_post]
    rfl

/-- The activity that an error ends (R129). -/
theorem fetchFailed_step {w : State} {y : Context} {i : Nat} (hact : y.activity = .step i) :
    (w.setContext k y).fetchFailed k = ((w.fetchFault y.call).setContext k y).control k (.begin (i + 1)) := by
  have hfault := fetchFault_setContext (k := k) w y y.call
  unfold State.fetchFault at *
  unfold State.fetchFailed State.endActivity
  simp only [State.context_setContext, if_true, detailFetchError, hfault, hact]

theorem fetchFailed_announcement {w : State} {y : Context} {r : ReturnRecord} {rest : List ReturnRecord}
    (hact : y.activity = .announcement) (hstack : y.stack = r :: rest) : (w.setContext k y).fetchFailed k =
      ((w.fetchFault y.call).setContext k
        { y with stack := rest, timer := if rest = [] then (w.program y.program).period else y.timer }).control k (.resume r) := by
  have hfault := fetchFault_setContext (k := k) w y y.call
  have hpop := (w.fetchFault y.call).popReturn_setContext k y r rest hstack
  unfold State.fetchFault at *
  rw [State.program_post] at hpop
  unfold State.fetchFailed State.endActivity
  simp only [State.context_setContext, if_true, detailFetchError, hfault, hact, hpop]

/-- Settles O48: a burst's end discarded by what its context stands at, data placed by the activity's kind, and an error by
the activity it ends. -/
theorem burstsEndByArrivalOrError : Obligations.BurstsEndByArrivalOrError := by
  intro s b first second ha hb k x f fallback cs data samples after placed settled resumed
  have hcontexts : Component.contexts ∈ cs := by simp [cs]
  have hoff (h : ¬ x.onFeed = true) : s.followFeed k = s := followFeed_settled fun hon => absurd hon h
  have hannounced (h : x.activity = .announcement) : ¬ x.onFeed = true := by
    rw [Context.onFeed_iff]
    simp [h]
  have hkind (h : x.step.kind ≠ .feed) : ¬ x.onFeed = true := by
    rw [Context.onFeed_iff]
    simp [h]
  have hsettled (h : settled) : s.followFeed k = s := followFeed_settled fun hon => by
    obtain ⟨_, _, hfeed⟩ := (Context.onFeed_iff _).1 hon
    exact h hfeed
  refine ⟨fun a hend => ?discarded, fun hstate hr => ?delivered, fun hstate hr => ?failed⟩
  case discarded =>
    intro leaves
    obtain ⟨deliver, hfetch, hexec⟩ := exec_endsBurst ha hb hend
    have hwrites {y : Context} (h : s.arrive k deliver = s.fetchCleared.setContext k y) : leaves y := by
      rw [h] at hexec
      exact goesOn_leaves (unwritten_fetchCleared s) hcontexts hexec
    refine ⟨⟨_, hexec, ?_⟩, fun hdrain => hwrites (arrive_draining hdrain), fun hstate hr hann =>
      hwrites (arrive_discards hstate (hoff (hannounced hann)) hr), fun i hstate hact => ⟨fun hr hset =>
      hwrites (arrive_discards hstate (hsettled hset) hr), fun hfeed hfly => ?_⟩⟩
    · rw [State.playout_settle]
      exact fetch_arrive hfetch
    · have hon : x.onFeed = true := (Context.onFeed_iff _).2 ⟨i, hact, hfeed⟩
      have hmarked : (x.redirected || x.inFlight) = true := by rw [hfly, Bool.or_true]
      have hswitch (h : ¬ (f.state = .live ↔ x.source = .ring)) : s.followFeed k = s.setContext k (x.followed s) :=
        followFeed_switches hon h
      refine ⟨fun hl hs => ?_, fun hl hs => ?_⟩
      · have hjoins := hswitch (by simp [hl, hs])
        rw [Context.followed_joins hon hl hs] at hjoins
        exact hwrites (arrive_switches hstate hjoins hmarked)
      · have hfalls := hswitch (by simp [hl, hs])
        rw [Context.followed_falls hon hl hs] at hfalls
        have hlanded := hwrites (arrive_switches hstate hfalls hmarked)
        refine ⟨fun hdef => ?_, fun hundef => ?_⟩
        · rw [Context.fallBack_defined x 0 hdef] at hlanded
          exact hlanded
        · rw [Context.fallBack_silent x 0 (ne_true_of_eq_false hundef)] at hlanded
          exact hlanded
  case delivered =>
    intro goesOn freely
    have hwritten : Unwritten cs s s.fetchCleared s.events := unwritten_fetchCleared s
    have hexec (hstay : s.followFeed k = s) : exec (.burstArrival first second) s =
        .next ((s.fetchCleared.placing k after samples).1.control k (s.fetchCleared.placing k after samples).2).settle := by
      rw [exec_burstArrival ha hb, arrive_delivers hstate hstay hr, place_setContext]
      rfl
    have hgoes {y : Context} {z : Control} (hstay : s.followFeed k = s)
        (hr : s.fetchCleared.placing k after samples = (s.fetchCleared.setContext k y, z)) : goesOn y z :=
      goesOn_of_answer hwritten hcontexts (hexec hstay) hr
    refine ⟨fun i hact => ⟨fun hk hl => ?played, fun hk hl => ?pass, fun hk hl => ?said, fun hk hp => ?tone,
      fun hk hl hs => ?ring, fun hk hl hs => ?back⟩, fun hact => ⟨fun hl => ?announced, fun r rest hl hstack => ?returns⟩⟩
    case played =>
      exact hgoes (hoff (hkind (by rcases hk with h | h | h <;> simp [h]))) (placing_played (z := after) hact hk hl)
    case pass =>
      exact goesOn_endPass hwritten hcontexts (hexec (hoff (hkind (by simp [hk])))) (z := placed) hact
        (placing_pass (z := after) hact hk hl)
    case said =>
      exact hgoes (hoff (hkind (by rcases hk with h | h <;> simp [h]))) (placing_said (z := after) hact hk hl)
    case tone =>
      intro sounded again
      have hstay := hoff (hkind (by simp [hk]))
      have hplaced := placing_sounded (w := s.fetchCleared) (k := k) (z := after) (l := samples) hact hk hp
      exact ⟨fun h => hgoes hstay (hplaced.trans (if_neg (Nat.not_le.2 h))), fun h =>
        goesOn_endPeriod hwritten hcontexts (hexec hstay) (z := sounded) hact (hplaced.trans (if_pos h))⟩
    case ring =>
      exact hgoes (hsettled fun _ => ⟨fun _ => hs, fun _ => hl⟩) (placing_ring (z := after) hact hk hs)
    case back =>
      exact hgoes (hsettled fun _ => ⟨fun h => absurd h hl, fun h => absurd (hs.symm.trans h) (by decide)⟩)
        (placing_fallback (z := after) hact hk hs)
    case announced => exact hgoes (hoff (hannounced hact)) (placing_announced (z := after) hact hl)
    case returns => exact hgoes (hoff (hannounced hact)) (placing_returns (z := after) hact hl hstack)
  case failed =>
    intro goesOn
    have hexec (hstay : s.followFeed k = s) :
        exec .fetchError s = .next ((s.fetchCleared.setContext k after).fetchFailed k).settle := by
      rw [exec_fetchError ha hb, arrive_delivers hstate hstay hr]
      rfl
    have hgoes {y : Context} {z : Control} (hstay : s.followFeed k = s)
        (hr : (s.fetchCleared.setContext k after).fetchFailed k =
          ((s.fetchCleared.fetchFault x.call).setContext k y).control k z) : goesOn y z := by
      have hexec := hexec hstay
      rw [hr] at hexec
      exact goesOn_of_answer (r := ((s.fetchCleared.fetchFault x.call).setContext k y, z)) (unwritten_fetchFault s x.call)
        (List.mem_append_left _ hcontexts) hexec rfl
    exact ⟨fun i hact hset => hgoes (hsettled hset) (fetchFailed_step (y := after) hact), fun r rest hact hstack =>
      hgoes (hoff (hannounced hact)) (fetchFailed_announcement (y := after) hact hstack)⟩

end Sys2Proof.Machine
end

section
/-! SUPPORT. The fetcher: when a request stands, which one the grant serves, and the burst it forms (07 R126, R127; 08 R141,
R142; 09 R155). -/

namespace Sys2Proof.Machine

variable {s : State} {k : Nat} {x : Context}

/-! ### Where the next samples come from (R116 to R118, R126) -/

/-- A context that plays its segment sample by sample: an announcement, a step that plays, or a FEED step on its fallback. -/
def Context.plays (x : Context) : Prop :=
  x.activity = .announcement ∨ ∃ i, x.activity = .step i ∧
    (x.step.kind = .play ∨ x.step.kind = .sayWait ∨ x.step.kind = .sayPosition ∨ x.step.kind = .feed ∧ x.source = .segment)

theorem next_plays (h : x.plays) :
    x.next = .memory (x.segment.address x.position) (x.segment.length - x.position) := by
  unfold Context.next
  rcases h with h | ⟨i, ha, h | h | h | ⟨h, hs⟩⟩
  · simp only [h]
  · simp only [ha, h]
  · simp only [ha, h]
  · simp only [ha, h]
  · simp only [ha, h, hs]

theorem next_sounded {i : Nat} (ha : x.activity = .step i) (hk : x.step.kind = .tone) (hp : x.phase < x.step.on) : x.next =
    .memory (x.segment.address (toneSample x.segment x.position))
      (min (x.step.on - x.phase) (x.segment.length - toneSample x.segment x.position)) := by
  unfold Context.next
  simp only [ha, hk, if_pos hp]

/-- The on sample of a TONE period lies in its segment where the segment, or its loop, holds a sample (R117). -/
theorem toneSample_lt_iff (g : Segment) (n : Nat) :
    toneSample g n < g.length ↔ n < g.length ∨ g.loopStart < g.length := by
  unfold toneSample
  by_cases hn : n < g.length
  · simp [hn]
  · rw [if_neg hn]
    by_cases hl : g.loopStart < g.length
    · have hmod := Nat.mod_lt (n - g.length) (Nat.sub_pos_of_lt hl)
      exact ⟨fun _ => .inr hl, fun _ => by omega⟩
    · exact ⟨fun h => by omega, fun h => by omega⟩

/-! ### When a request stands (R126, R141) -/

theorem requests_iff : s.requests x = true ↔ x.hungry = true ∧
    match x.next with
    | .memory _ left => 0 < left
    | .ring f => 0 < (s.feed f).availableAt x.pointer
    | .generated _ => False
    | .nothing => False := by
  unfold State.requests
  rw [Bool.and_eq_true]
  cases x.next <;> simp

theorem requests_memory {a : Word} {left : Nat} (h : x.next = .memory a left) :
    s.requests x = true ↔ x.hungry = true ∧ 0 < left := by
  rw [requests_iff, h]

theorem requests_ring {f : Nat} (h : x.next = .ring f) :
    s.requests x = true ↔ x.hungry = true ∧ 0 < (s.feed f).availableAt x.pointer := by
  rw [requests_iff, h]

theorem requests_plays (h : x.plays) : s.requests x = true ↔ x.hungry = true ∧ x.position < x.segment.length := by
  rw [requests_memory (next_plays h), Nat.sub_pos_iff_lt]

theorem requests_sounded {i : Nat} (ha : x.activity = .step i) (hk : x.step.kind = .tone) (hp : x.phase < x.step.on) :
    s.requests x = true ↔ x.hungry = true ∧ (x.position < x.segment.length ∨ x.segment.loopStart < x.segment.length) := by
  rw [requests_memory (next_sounded ha hk hp), Nat.lt_min, Nat.sub_pos_iff_lt, Nat.sub_pos_iff_lt, toneSample_lt_iff]
  exact and_congr_right fun _ => and_iff_right hp

/-- The three sources that hold a request: a segment played, the on part of a TONE period, a ring. -/
theorem requests_sources : s.requests x = true ↔ x.hungry = true ∧
    (x.plays ∧ x.position < x.segment.length ∨
      (∃ i, x.activity = .step i ∧ x.step.kind = .tone) ∧ x.phase < x.step.on ∧
        (x.position < x.segment.length ∨ x.segment.loopStart < x.segment.length) ∨
      (∃ i, x.activity = .step i ∧ x.step.kind = .feed) ∧ x.source = .ring ∧
        0 < (s.feed x.step.feed).availableAt x.pointer) := by
  cases ha : x.activity with
  | announcement =>
    rw [requests_plays (.inl ha)]
    simp [Context.plays, ha]
  | step i =>
    cases hk : x.step.kind with
    | play | sayWait | sayPosition =>
      rw [requests_plays (.inr ⟨i, ha, by simp [hk]⟩)]
      simp [Context.plays, ha, hk]
    | feed =>
      cases hs : x.source with
      | ring =>
        rw [requests_ring (next_ring ha hk hs)]
        simp [Context.plays, ha, hk, hs]
      | segment =>
        rw [requests_plays (.inr ⟨i, ha, by simp [hk, hs]⟩)]
        simp [Context.plays, ha, hk, hs]
      | silence =>
        rw [requests_iff, next_silence ha hk hs]
        simp [Context.plays, ha, hk, hs]
    | quiet =>
      rw [requests_iff, next_quiet ha hk]
      simp [Context.plays, ha, hk]
    | tone =>
      by_cases hp : x.phase < x.step.on
      · rw [requests_sounded ha hk hp]
        simp [Context.plays, ha, hk, hp]
      · rw [requests_iff, next_silent ha hk (Nat.not_lt.1 hp)]
        simp [Context.plays, ha, hk, hp]
    | stop | jump | call | ret | other =>
      have hnothing : x.next = .nothing := by
        unfold Context.next
        simp only [ha, hk]
      rw [requests_iff, hnothing]
      simp [Context.plays, ha, hk]

/-! ### The request the fetcher serves (R126) -/

/-- The better of the request found so far and the next one. -/
def State.preferFetch (s : State) (best : Option (Nat × Context)) (e : Nat × Context) : Option (Nat × Context) :=
  if s.requests e.2 then
    match best with
    | none => some e
    | some b => if e.2.buffer.length < b.2.buffer.length then some e else best
  else best

theorem chooseFetch_eq (s : State) : s.chooseFetch = (s.playout.contexts.foldl s.preferFetch none).map (·.1) := rfl

section
variable {best : Option (Nat × Context)} {b e : Nat × Context}

theorem preferFetch_better (hr : s.requests e.2 = true)
    (h : ∀ b, best = some b → e.2.buffer.length < b.2.buffer.length) : s.preferFetch best e = some e := by
  unfold State.preferFetch
  rw [if_pos hr]
  cases best with
  | none => rfl
  | some b => exact if_pos (h b rfl)

theorem preferFetch_kept (h : s.requests e.2 = true → b.2.buffer.length ≤ e.2.buffer.length) :
    s.preferFetch (some b) e = some b := by
  unfold State.preferFetch
  split
  · next hr => exact if_neg (Nat.not_lt.2 (h hr))
  · rfl

theorem preferFetch_cases (h : s.preferFetch best e = some b) : b = e ∧ s.requests e.2 = true ∨ best = some b := by
  unfold State.preferFetch at h
  split at h
  · next hr =>
    split at h
    · exact .inl ⟨(Option.some.inj h).symm, hr⟩
    · split at h
      · exact .inl ⟨(Option.some.inj h).symm, hr⟩
      · exact .inr h
  · exact .inr h

theorem foldl_preferFetch_kept {l : List (Nat × Context)}
    (h : ∀ e ∈ l, s.requests e.2 = true → b.2.buffer.length ≤ e.2.buffer.length) :
    l.foldl s.preferFetch (some b) = some b := by
  induction l with
  | nil => rfl
  | cons e l ih =>
    rw [List.foldl_cons, preferFetch_kept (h e List.mem_cons_self)]
    exact ih fun x hx => h x (List.mem_cons_of_mem _ hx)

end

/-- Of a table's requests the fold finds the emptiest, the lowest number among equals. -/
theorem foldl_preferFetch {l : List (Nat × Context)} (hsorted : l.Pairwise fun x y => x.1 < y.1) (hmem : (k, x) ∈ l)
    (hr : s.requests x = true)
    (hbest : ∀ e ∈ l, e.1 ≠ k → s.requests e.2 = true →
      x.buffer.length < e.2.buffer.length ∨ x.buffer.length = e.2.buffer.length ∧ k < e.1)
    {best : Option (Nat × Context)} (hfound : ∀ b, best = some b → x.buffer.length < b.2.buffer.length) :
    l.foldl s.preferFetch best = some (k, x) := by
  induction l generalizing best with
  | nil => cases hmem
  | cons e l ih =>
    obtain ⟨hlt, hsorted⟩ := List.pairwise_cons.1 hsorted
    rw [List.foldl_cons]
    rcases List.mem_cons.1 hmem with rfl | hmem
    · rw [preferFetch_better hr hfound]
      refine foldl_preferFetch_kept fun e he hreq => ?_
      have := hbest e (List.mem_cons_of_mem _ he) (Nat.ne_of_gt (hlt e he)) hreq
      dsimp only
      omega
    · have hbefore : e.1 < k := hlt _ hmem
      refine ih hsorted hmem (fun d hd => hbest d (List.mem_cons_of_mem _ hd)) fun b hb => ?_
      rcases preferFetch_cases hb with ⟨rfl, hreq⟩ | hb
      · have := hbest b List.mem_cons_self (Nat.ne_of_lt hbefore) hreq
        omega
      · exact hfound b hb

theorem mem_of_requests (h : s.requests (s.context k) = true) : (k, s.context k) ∈ s.playout.contexts := by
  refine Table.mem_of_read Context.cold fun hcold => ?_
  have hno : s.requests Context.cold = false := rfl
  rw [show s.context k = Context.cold from hcold, hno] at h
  cases h

theorem chooseFetch_best (hc : Canonical s) (hr : s.requests (s.context k) = true)
    (hbest : ∀ j, j ≠ k → s.requests (s.context j) = true →
      (s.context k).buffer.length < (s.context j).buffer.length ∨
        (s.context k).buffer.length = (s.context j).buffer.length ∧ k < j) : s.chooseFetch = some k := by
  obtain ⟨-, -, -, -, hcontexts, -⟩ := hc
  rw [chooseFetch_eq, foldl_preferFetch (Table.wf_pairwise _ hcontexts) (mem_of_requests hr) hr ?_ (by simp)]
  · rfl
  · intro e he hne hreq
    have hread : s.context e.1 = e.2 := Table.read_mem _ hcontexts he
    rw [← hread] at hreq ⊢
    exact hbest e.1 hne hreq

/-! ### The burst formed (R126, R141, R142) -/

theorem forming_memory {a : Word} {left : Nat} (h : x.next = .memory a left) : s.forming x = x := by
  unfold State.forming
  simp only [h]

theorem formBurst_memory {a : Word} {left : Nat} (h : x.next = .memory a left) :
    s.formBurst k x = some (segmentBurst k a left) := by
  unfold State.formBurst
  simp only [h]

/-- A reader as its request is formed: rejoined where the writer is about to overtake it (R141). -/
def Context.formed (x : Context) (f : Feed) : Context :=
  { x with
    pointer := if f.latched.size - 64 < f.availableAt x.pointer then f.joinPlace else x.pointer
    position := if f.latched.size - 64 < f.availableAt x.pointer then 0 else x.position }

theorem lapRejoin_ring (h : x.source = .ring) (f : Feed) : x.lapRejoin f = x.formed f := by
  unfold Context.lapRejoin Context.join Context.formed Config.lapMargin
  split
  · rw [← h]
    rfl
  · rfl

theorem forming_ring {f : Nat} (h : x.next = .ring f) (hs : x.source = .ring) : s.forming x = x.formed (s.feed f) := by
  unfold State.forming
  simp only [h]
  exact lapRejoin_ring hs _

theorem formBurst_ring {f : Nat} (h : x.next = .ring f) : s.formBurst k x = some (ringBurst k (s.feed f) x.pointer) := by
  unfold State.formBurst
  simp only [h]

/-! ### The grant (R127, R155) -/

/-- The state after the fetcher's burst `b` has taken the slot, its context formed as `y`. -/
def State.issued (s : State) (k : Nat) (y : Context) (b : FetchBurst) : State :=
  let t := s.setContext k { y with inFlight := true, redirected := false }
  { t with
    playout := { t.playout with fetch := some b }
    path := { t.path with port := .fetch b.address b.beats, passCount := 0 } }

theorem issueFetch_eq {b : FetchBurst} (hb : s.formBurst k (s.forming (s.context k)) = some b) :
    s.issueFetch k = s.issued k (s.forming (s.context k)) b := by
  unfold State.issueFetch
  simp only [hb]
  rfl

theorem changes_issued (y : Context) (b : FetchBurst) :
    Changes [.contexts, .fetch, .port, .passCount] s (s.issued k y b) := by
  constructor
  intro c hc
  cases c <;> simp_all [Component.agree, State.issued]

theorem passCount_settle (h : s.path.passCount = 0) : s.settle.path.passCount = 0 := by
  unfold State.settle
  split
  · exact h
  · rfl

/-- The grant serves the best request when none is outstanding and the slot is the part's own. -/
theorem exec_fetchGrant (ha : s.path.resetAsserted = false) (hf : s.playout.fetch = none)
    (hturn : s.path.forward = [] ∨ 8 ≤ s.path.passCount) (hr : s.requests (s.context k) = true)
    (hchoice : s.chooseFetch = some k) : exec .fetchGrant s = .next (s.issueFetch k).settle := by
  have hserves : (s.fetchServable && s.ownTurn) = true := by
    have hany : (s.playout.contexts.any fun e => s.requests e.2) = true :=
      List.any_eq_true.2 ⟨_, mem_of_requests hr, hr⟩
    unfold State.fetchServable State.ownTurn Config.passLimit
    simp [hf, hany, List.isEmpty_iff, hturn]
  show execFetchGrant s = _
  unfold execFetchGrant
  rw [event_awake _ ha, if_pos hserves]
  simp only [hchoice]

/-- What the grant of a request leaves, by the context as it is formed and the burst formed for it. -/
theorem fetchGrant_issues {y : Context} {b : FetchBurst} (hexec : exec .fetchGrant s = .next (s.issueFetch k).settle)
    (hy : s.forming (s.context k) = y) (hb : s.formBurst k y = some b) :
    ∃ t, exec .fetchGrant s = .next t ∧ t.playout.fetch = some b ∧ t.path.port = .fetch b.address b.beats ∧
      t.path.passCount = 0 ∧ t.context k = { y with inFlight := true, redirected := false } ∧ ContextsBut k s t ∧
      Changes [.contexts, .fetch, .port, .passCount] s t := by
  subst hy
  rw [issueFetch_eq hb] at hexec
  have hcontext (j : Nat) : (s.issued k (s.forming (s.context k)) b).context j =
      (s.setContext k { s.forming (s.context k) with inFlight := true, redirected := false }).context j := rfl
  refine ⟨_, hexec, by rw [State.playout_settle]; rfl, by rw [State.port_settle]; rfl, passCount_settle rfl, ?_,
    fun j hj => ?_, frame_settle (changes_issued _ b) (by simp)⟩
  · rw [State.context_settle, hcontext, State.context_setContext, if_pos rfl]
  · rw [State.context_settle, hcontext, State.context_setContext, if_neg hj]

/-- Settles O46: a request by the three sources that hold one, and the grant by the source of the best request. -/
theorem fetchesAreFormedAtTheGrant : Obligations.FetchesAreFormedAtTheGrant := by
  refine ⟨fun s x => ?request, fun s k hcanonical ha hf hturn => ?grant⟩
  case request =>
    intro f start size kinds
    have hplays : x.plays ↔ x.activity = .announcement ∨ kinds [.play, .sayWait, .sayPosition] ∨
        kinds [.feed] ∧ x.source = .segment := by
      unfold Context.plays
      cases hact : x.activity <;> simp [kinds, hact, or_assoc]
    have hkind (g : StepKind) : kinds [g] ↔ ∃ i, x.activity = .step i ∧ x.step.kind = g := by simp [kinds]
    rw [requests_sources, Context.hungry_iff, hplays, hkind, hkind, and_assoc, and_assoc]
    rfl
  case grant =>
    intro x hstate hfree hfill hbest burst
    have hhungry : x.hungry = true := (Context.hungry_iff x).2 ⟨hstate, hfree, hfill⟩
    have hexec (hr : s.requests x = true) : exec .fetchGrant s = .next (s.issueFetch k).settle :=
      exec_fetchGrant ha hf hturn hr (chooseFetch_best hcanonical hr hbest)
    have hmemory {a : Word} {left : Nat} (hnext : x.next = .memory a left) (hleft : 0 < left) :
        burst a 2 (min (8 - a.toNat % 4) left) x :=
      fetchGrant_issues (hexec ((requests_memory hnext).2 ⟨hhungry, hleft⟩)) (forming_memory hnext) (formBurst_memory hnext)
    refine ⟨fun hplays hl => ?plays, fun i hact hk hp hloop => ?tone, fun i hact hk hs => ?ring⟩
    case plays => exact hmemory (next_plays hplays) (Nat.sub_pos_of_lt hl)
    case tone =>
      have hsample := (toneSample_lt_iff x.segment x.position).2 (.inr hloop)
      exact hmemory (next_sounded hact hk hp) (Nat.lt_min.2 ⟨Nat.sub_pos_of_lt hp, Nat.sub_pos_of_lt hsample⟩)
    case ring =>
      intro f size available p beats havailable
      have hnext : x.next = .ring x.step.feed := next_ring hact hk hs
      have hformed : (x.formed f).next = .ring x.step.feed := next_ring (x := x.formed f) hact hk hs
      exact fetchGrant_issues (hexec ((requests_ring hnext).2 ⟨hhungry, havailable⟩)) (forming_ring hnext hs)
        (formBurst_ring hformed)

end Sys2Proof.Machine
end

section
/-! SUPPORT. The Time Base: frames and ticks, the end of a reference period, the loss of FSYNC, and TIMEBASE_CLEAR (08 R131
to R134). -/

namespace Sys2Proof.Machine

variable {s : State} {e : IntakeEntry}

/-! ### Frames (R131) -/

namespace TimeBase

variable {t : TimeBase}

/-- A Time Base `n` frames later, for at most 800 of them. -/
def framed (t : TimeBase) (n : Nat) : TimeBase :=
  { t with frames := (t.frames + n) % 800, tick := if 800 ≤ t.frames + n then t.tick + 1 else t.tick }

theorem framed_zero (h : t.frames < 800) : t.framed 0 = t := by
  unfold framed
  rw [if_neg (by omega), Nat.add_zero, Nat.mod_eq_of_lt h]

theorem frame_framed {n : Nat} (h : t.frames < 800) (hn : n < 800) : (t.framed n).frame = t.framed (n + 1) := by
  unfold frame framed Config.framesPerTick
  dsimp only
  rw [← Nat.add_assoc]
  by_cases hwrapped : 800 ≤ t.frames + n
  · rw [if_neg (by omega), if_pos hwrapped, if_pos (by omega),
      show (t.frames + n) % 800 + 1 = (t.frames + n + 1) % 800 by omega]
  · rw [if_neg hwrapped, Nat.mod_eq_of_lt (Nat.lt_of_not_le hwrapped)]
    by_cases hlast : 800 ≤ t.frames + n + 1
    · rw [if_pos hlast, if_pos hlast, show (t.frames + n + 1) % 800 = 0 by omega]
    · rw [if_neg hlast, if_neg hlast, Nat.mod_eq_of_lt (Nat.lt_of_not_le hlast)]

theorem frame_eq (h : t.frames < 800) : t.frame = t.framed 1 := by
  rw [← frame_framed h (by decide), framed_zero h]

/-- The three frames that a loss makes up (R133). -/
theorem frame_three (h : t.frames < 800) : t.frame.frame.frame = t.framed 3 := by
  rw [frame_eq h, frame_framed h (by decide), frame_framed h (by decide)]

theorem frames_framed_one (h : t.frames < 800) : (t.framed 1).frames = if t.frames = 799 then 0 else t.frames + 1 := by
  show (t.frames + 1) % 800 = _
  split <;> omega

theorem tick_framed_one (h : t.frames < 800) : (t.framed 1).tick = if t.frames = 799 then t.tick + 1 else t.tick := by
  show (if 800 ≤ t.frames + 1 then t.tick + 1 else t.tick) = _
  by_cases hlast : t.frames = 799
  · rw [if_pos hlast, if_pos (by omega)]
  · rw [if_neg hlast, if_neg (by omega)]

/-- Locking keeps the counters (R132). -/
theorem lock_eq (t : TimeBase) : t.lock = { t with state := if t.full then .external else t.state } := by
  unfold lock
  split <;> rfl

/-- Only a period that closes without a pulse can bring the count of silent periods to three (R133). -/
theorem three_le_closePeriod_silence (t : TimeBase) :
    3 ≤ t.closePeriod.silence ↔ t.pulseSeen = false ∧ 2 ≤ t.silence := by
  show 3 ≤ (if t.pulseSeen = true then 0 else min (t.silence + 1) 8) ↔ _
  cases t.pulseSeen
  case true =>
    rw [if_pos rfl]
    exact ⟨fun h => absurd h (by decide), fun h => nomatch h.1⟩
  case false =>
    rw [if_neg Bool.false_ne_true]
    exact ⟨fun h => ⟨rfl, by omega⟩, fun h => by omega⟩

theorem losing_iff (t : TimeBase) : t.losing = true ↔ t.state = .external ∧ t.pulseSeen = false ∧ 2 ≤ t.silence := by
  unfold losing
  rw [Bool.and_eq_true, decide_eq_true_eq, decide_eq_true_eq, three_le_closePeriod_silence]

end TimeBase

/-! ### The events of the Time Base (R131, R132) -/

/-- An event that writes the Time Base alone. -/
theorem clock_sets {i : Instr} {t : TimeBase} (h : exec i s = .next (s.setTime t).settle) :
    ∃ u, exec i s = .next u ∧ u.time = t ∧ Changes [.time, .passCount] s u :=
  ⟨_, h, by simp, frame_settle (frame_setTime (.refl ..) _ (by simp)) (by simp)⟩

/-- The Time Base with a pulse shown in the running period (R132). -/
def TimeBase.pulsed (t : TimeBase) : TimeBase := { t with pulseSeen := true }

theorem pulse_frame (hs : s.time.state = .external) : s.pulse false = s.setTime s.time.pulsed.frame :=
  congrArg s.setTime (if_pos ⟨hs, rfl⟩)

theorem pulse_no_frame {early : Bool} (h : ¬ (s.time.state = .external ∧ early = false)) :
    s.pulse early = s.setTime s.time.pulsed := congrArg s.setTime (if_neg h)

theorem endPeriodRef_starting (h : s.time.state = .starting) : s.endPeriodRef = s.setTime s.time.closePeriod.frame.lock := by
  have hclosed : s.time.closePeriod.state = .starting := h
  unfold State.endPeriodRef
  simp only [hclosed]

theorem endPeriodRef_substitute (h : s.time.state = .substitute) : s.endPeriodRef = s.setTime s.time.closePeriod.frame := by
  have hclosed : s.time.closePeriod.state = .substitute := h
  unfold State.endPeriodRef
  simp only [hclosed]

theorem endPeriodRef_external (h : s.time.state = .external) :
    s.endPeriodRef = if s.time.losing then s.lose else s.setTime s.time.closePeriod := by
  have hclosed : s.time.closePeriod.state = .external := h
  unfold State.endPeriodRef
  simp only [hclosed]

section
variable (ha : s.path.resetAsserted = false)
include ha

theorem exec_fsyncPulse (early : Bool) : exec (.fsyncPulse early) s = .next (s.pulse early).settle :=
  event_awake (fun s => s.pulse early) ha

theorem exec_referencePeriodEnd : exec .referencePeriodEnd s = .next s.endPeriodRef.settle := event_awake _ ha

/-- TICK in EXTERNAL is the pulse that is a frame (R131). -/
theorem exec_tick_external (hf : s.time.frames = 799) (hs : s.time.state = .external) :
    exec .tick s = .next (s.pulse false).settle := by
  show execTick s = _
  unfold execTick
  rw [event_awake _ ha, if_pos (by rw [hf]; rfl)]
  simp only [hs]

/-- TICK in STARTING and SUBSTITUTE is the end of a reference period (R131). -/
theorem exec_tick_reference (hf : s.time.frames = 799) (hs : s.time.state ≠ .external) :
    exec .tick s = .next s.endPeriodRef.settle := by
  show execTick s = _
  unfold execTick
  rw [event_awake _ ha, if_pos (by rw [hf]; rfl)]
  cases hstate : s.time.state with
  | external => exact absurd hstate hs
  | starting | substitute => rfl

end

/-- Settles O36: a pulse by whether it is a frame, the end of a period by the state of the Time Base, and TICK as one of
the two. -/
theorem framesMakeTicks : Obligations.FramesMakeTicks := by
  intro s ha hf hl framed unframed closed pulsed periodEnds
  have hdrop : s.time.history.drop 1 = s.time.history.tail := List.drop_one
  have hpulsed : s.time.pulsed.frames < 800 := hf
  have hclosed : s.time.closePeriod.frames < 800 := hf
  have hframed {x : TimeBase} (hx : x.frames = s.time.frames) (htick : x.tick = s.time.tick) :
      (x.framed 1).frames = (if s.time.frames = 799 then 0 else s.time.frames + 1) ∧
        (x.framed 1).tick = (if s.time.frames = 799 then s.time.tick + 1 else s.time.tick) := by
    rw [← hx, ← htick]
    exact ⟨TimeBase.frames_framed_one (hx ▸ hf), TimeBase.tick_framed_one (hx ▸ hf)⟩
  have hpulse {i : Instr} {early : Bool} (hexec : exec i s = .next (s.pulse early).settle) :
      pulsed i (s.time.state = .external ∧ early = false) := by
    by_cases hframe : s.time.state = .external ∧ early = false
    · obtain ⟨hs, rfl⟩ := hframe
      rw [pulse_frame hs, TimeBase.frame_eq hpulsed] at hexec
      obtain ⟨t, hexec, htime, hkeeps⟩ := clock_sets hexec
      refine ⟨t, hexec, ?_⟩
      simp only [framed, unframed, htime]
      exact ⟨rfl, rfl, rfl, rfl, fun _ => hframed rfl rfl, fun h => absurd ⟨hs, trivial⟩ h, hkeeps⟩
    · rw [pulse_no_frame hframe] at hexec
      obtain ⟨t, hexec, htime, hkeeps⟩ := clock_sets hexec
      refine ⟨t, hexec, ?_⟩
      simp only [framed, unframed, htime]
      exact ⟨rfl, rfl, rfl, rfl, fun h => absurd h hframe, fun _ => ⟨rfl, rfl⟩, hkeeps⟩
  have hends {i : Instr} (hexec : exec i s = .next s.endPeriodRef.settle) : periodEnds i := by
    refine ⟨fun hs hseen => ?external, fun hs => ?substitute, fun hs => ?starting⟩
    case external =>
      have hstays : ¬ s.time.losing = true := by
        rw [TimeBase.losing_iff]
        rintro ⟨-, hsilent, hlong⟩
        rcases hseen with hseen | hshort
        · rw [hseen] at hsilent; cases hsilent
        · omega
      rw [endPeriodRef_external hs, if_neg hstays] at hexec
      obtain ⟨t, hexec, htime, hkeeps⟩ := clock_sets hexec
      refine ⟨t, hexec, ?_⟩
      simp only [closed, unframed, htime, hdrop]
      exact ⟨⟨rfl, rfl, rfl⟩, ⟨rfl, rfl⟩, hs, hkeeps⟩
    case substitute =>
      rw [endPeriodRef_substitute hs, TimeBase.frame_eq hclosed] at hexec
      obtain ⟨t, hexec, htime, hkeeps⟩ := clock_sets hexec
      refine ⟨t, hexec, ?_⟩
      simp only [closed, framed, htime, hdrop]
      exact ⟨⟨rfl, rfl, rfl⟩, hframed rfl rfl, hs, hkeeps⟩
    case starting =>
      rw [endPeriodRef_starting hs, TimeBase.frame_eq hclosed, TimeBase.lock_eq] at hexec
      obtain ⟨t, hexec, htime, hkeeps⟩ := clock_sets hexec
      refine ⟨t, hexec, ?_⟩
      simp only [closed, framed, htime, hdrop, ← hs]
      exact ⟨⟨rfl, rfl, rfl⟩, hframed rfl rfl, rfl, hkeeps⟩
  refine ⟨fun early => hpulse (exec_fsyncPulse ha early), hends (exec_referencePeriodEnd ha), fun hlast => ⟨fun hs => ?_,
    fun hs => hends (exec_tick_reference ha hlast hs)⟩⟩
  have htick := hpulse (exec_tick_external ha hlast hs)
  have hframe : (s.time.state = .external ∧ false = false) ↔ True := iff_true_intro ⟨hs, rfl⟩
  rwa [propext hframe] at htick

/-! ### The loss of FSYNC (R133) -/

/-- The Time Base as a loss leaves it: SUBSTITUTE, and three frames further. -/
def TimeBase.lost (t : TimeBase) : TimeBase := { t.closePeriod with state := .substitute }.framed 3

theorem lose_eq (hf : s.time.frames < 800) :
    s.lose = (s.setTime s.time.lost).post .supervision .timebaseSubst none none none 0 := by
  unfold State.lose
  rw [TimeBase.frame_three (t := { s.time.closePeriod with state := .substitute }) hf]
  rfl

/-- Settles O37: either row comes to the loss, whose frames are counted by `framed`; the next period end is one more. -/
theorem lossMakesUpThreeFrames : Obligations.LossMakesUpThreeFrames := by
  intro s i hi ha hf hs hsilence hseen
  have hlosing : s.time.losing = true := (TimeBase.losing_iff _).2 ⟨hs, hseen, Nat.le_of_eq hsilence.symm⟩
  have hexec : exec i s = .next s.lose.settle := by
    rcases hi with rfl | rfl
    · show execTimebaseSubst s = _
      unfold execTimebaseSubst
      rw [event_awake _ ha, if_pos hlosing]
    · rw [exec_referencePeriodEnd ha, endPeriodRef_external hs, if_pos hlosing]
  rw [lose_eq hf] at hexec
  obtain ⟨t, hexec, htime, hevents, hawake, hkeeps⟩ : ∃ t, exec i s = .next t ∧ t.time = s.time.lost ∧
      t.events = ((s.setTime s.time.lost).post .supervision .timebaseSubst none none none 0).events ∧
      t.path.resetAsserted = false ∧ Changes (posting ++ [.time, .passCount]) s t :=
    ⟨_, hexec, by simp, by simp, by simpa using ha,
      (((changes_setTime ..).mono (by simp)).into (changes_post ..) (by simp +contextual)).into (changes_settle _) (by simp)⟩
  have hagain : exec .referencePeriodEnd { t with time := t.time.pulsed } = _ := exec_referencePeriodEnd hawake
  rw [endPeriodRef_substitute (by rw [htime]; rfl)] at hagain
  obtain ⟨u, hagain, hnext, -⟩ := clock_sets hagain
  have hnext : u.time = s.time.lost.pulsed.closePeriod.framed 1 := by
    rw [hnext, htime, TimeBase.frame_eq (Nat.mod_lt _ (by decide))]
  refine ⟨t, hexec, by rw [htime]; rfl, by rw [htime]; rfl, by rw [htime]; rfl, ?silence, ?history, by rw [htime]; rfl,
    ?events, ⟨u, hagain, ?frames, by rw [hnext]; rfl⟩, hkeeps⟩
  case silence =>
    rw [htime]
    show (if s.time.pulseSeen = true then 0 else min (s.time.silence + 1) 8) = 3
    rw [hseen, hsilence]
    rfl
  case history =>
    rw [htime, List.drop_one, ← hseen]
    rfl
  case events =>
    rw [hevents, htime]
    exact State.events_post_congr rfl rfl rfl rfl ..
  case frames =>
    rw [hnext]
    show ((s.time.frames + 3) % 800 + 1) % 800 = (s.time.frames + 4) % 800
    omega

/-! ### TIMEBASE_CLEAR (R134) -/

theorem timebaseClearBody_external (h : s.time.state = .external) : timebaseClearBody e s = (.ok, s) := by
  unfold timebaseClearBody
  simp only [h]

theorem timebaseClearBody_starting (h : s.time.state = .starting) : timebaseClearBody e s = (.stillMissing, s) := by
  unfold timebaseClearBody
  simp only [h]

/-- In SUBSTITUTE a history of 8 pulses restores EXTERNAL (R134). -/
theorem timebaseClearBody_restores (h : s.time.state = .substitute) (hfull : ∀ p ∈ s.time.history, p = true) :
    timebaseClearBody e s =
      (.ok, (s.setTime { s.time with state := .external }).post .supervision .timebaseRestored none none none 0) := by
  have hfull : s.time.full = true := List.all_eq_true.2 hfull
  unfold timebaseClearBody
  simp only [h, hfull, if_true]

theorem timebaseClearBody_missing (h : s.time.state = .substitute) (hgap : ∃ p ∈ s.time.history, p = false) :
    timebaseClearBody e s = (.stillMissing, s) := by
  have hgap : s.time.full = false := List.all_eq_false.2 (hgap.imp fun p hp => ⟨hp.1, by simp [hp.2]⟩)
  unfold timebaseClearBody
  simp only [h, hgap, Bool.false_eq_true, if_false]

/-- A part command taken in a part state in which its row answers NOT_ACTIVE (R150, R151). -/
theorem partCommand_notActive {code : Byte} {allowed : PartState → Bool} {body : IntakeEntry → State → State}
    (h : Handed s e .part code) (ha : allowed s.part.state = false) :
    ∃ t, partCommand code allowed body s = .next t ∧ OnlyAnswered s t e (e.answer .notActive) := by
  obtain ⟨hawake, hold, hkind, hword, hcode, hwhole⟩ := h
  obtain ⟨rest, hintake⟩ := List.head?_eq_some_iff.1 hold
  have hanswered := onlyAnswered s e .notActive
  rw [resultOf_word hword] at hanswered
  refine ⟨_, ?_, hanswered⟩
  unfold partCommand State.executePart
  rw [event_awake _ hawake]
  simp [hintake, hkind, hword, hcode, hwhole, ha]

/-- Settles O26: NOT_ACTIVE in LOADING, and otherwise what the body answers in each state of the Time Base. -/
theorem timebaseClearJudgesTheHistory : Obligations.TimebaseClearJudgesTheHistory := by
  intro s e h
  refine ⟨fun hload => partCommand_notActive h (by rw [hload]; rfl), fun hload => ?_⟩
  have hallowed : notLoading s.part.state = true := by
    cases hstate : s.part.state with
    | loading => exact absurd hstate hload
    | pass | active => rfl
  refine ⟨fun hs hfull => ?_, fun hs hgap => partCommand_refused h hallowed (timebaseClearBody_missing hs hgap),
    fun hs => partCommand_refused h hallowed (timebaseClearBody_external hs),
    fun hs => partCommand_refused h hallowed (timebaseClearBody_starting hs)⟩
  have hexec := partCommand_answering h hallowed timebaseClearBody
  rw [timebaseClearBody_restores (s := s.dropOldest) hs hfull] at hexec
  refine ⟨_, hexec, by simp, ?_, by simp, by simp, ?_⟩
  · rw [State.events_settle, State.events_setPartResult]
    exact State.events_post_congr (s := s) (u := s.dropOldest.setTime { s.time with state := .external }) rfl rfl rfl rfl ..
  · exact (((((changes_dropOldest s).mono (by simp)).into (changes_setTime ..) (by simp)).into (changes_post ..)
      (by simp +contextual)).into (changes_answered ..) (by simp))

end Sys2Proof.Machine
end

section
/-! SUPPORT. Write beats taken as they are presented: the entry a command word makes, the staging word a host-owned word
updates, and the head of a feed a counted write moves (08 R136; 09 R145, R147, R148, R153). -/

namespace Sys2Proof.Machine

variable {s : State} {i : Instr} {b : WriteBeat}

/-! ### A write beat taken (R145) -/

/-- A write beat that need not wait is tracked by the feeds, taken by its word's class, and forwarded. -/
theorem exec_write (hp : presents i (.write b)) (ha : s.path.resetAsserted = false) (hw : s.path.waiting = [])
    (hm : s.mustHold (.write b) = false) :
    exec i s = .next (((s.trackFeeds b).takeWrite (s.classify b.address) b).forwardBeat (.write b)).settle := by
  rw [State.exec_beat hp ha, State.present_accept hw hm, State.accept_write]

theorem mustHold_write (s : State) (b : WriteBeat) : s.mustHold (.write b) =
    ((s.classify b.address).command.isSome && decide (32 ≤ s.intake.length)) := rfl

theorem changes_trackFeeds (s : State) (b : WriteBeat) : Changes [.feeds] s (s.trackFeeds b) :=
  State.frame_trackFeeds _ (.refl ..) b (by simp)

/-- A forwarded beat stands last in the line for a memory-side slot, and nothing else follows from it. -/
theorem changes_passedOn (s : State) (b : Beat) : Changes [.forward, .passCount] s (s.forwardBeat b).settle :=
  frame_settle (frame_forwardBeat (.refl ..) _ (by simp)) (by simp)

theorem forward_passedOn (s : State) (b : Beat) : (s.forwardBeat b).settle.path.forward = s.path.forward ++ [b] := by simp

/-! ### A command word (R148) -/

/-- The entry of a command word write, as R148 gives it. -/
theorem entryMade_entry (s : State) (kind : RecordKind) (id : Nat) (flag : Bool) (b : WriteBeat) :
    EntryMade s kind id flag b (s.staging.entry (kind, id, flag) b) := by
  refine ⟨rfl, rfl, rfl, lanesWritten_entry b, bne_iff_ne, ?_⟩
  cases kind <;> rfl

/-- The intake with a new entry at its tail. -/
def State.entered (s : State) (e : IntakeEntry) : State := { s with intake := s.intake ++ [e] }

theorem changes_entered (s : State) (e : IntakeEntry) : Changes [.intake] s (s.entered e) := by
  constructor; intro k hk; cases k <;> simp_all [Component.agree, State.entered]

theorem oneMorePending_modifyPending (s : State) (e : IntakeEntry) :
    OneMorePending e.kind e.index s (s.modifyPending e (· + 1)) := by
  unfold State.modifyPending OneMorePending
  cases e.kind with
  | call => exact ⟨by simp, fun d hd => by simp [hd], rfl, rfl⟩
  | agent => exact ⟨by simp, fun d hd => by simp [hd], rfl, rfl⟩
  | queue => exact ⟨by simp, fun d hd => by simp [hd], rfl, rfl⟩
  | part => exact ⟨rfl, rfl, rfl⟩

theorem changes_modifyPending (s : State) (e : IntakeEntry) (f : Nat → Nat) :
    Changes [.calls, .agents, .queues] s (s.modifyPending e f) := by
  unfold State.modifyPending
  split
  · exact frame_setCall (.refl ..) _ _ (by simp)
  · exact frame_setAgent (.refl ..) _ _ (by simp)
  · exact frame_setQueue (.refl ..) _ _ (by simp)
  · exact .refl ..

theorem makeEntry_eq (s : State) (x : RecordKind × Nat × Bool) (b : WriteBeat) :
    s.makeEntry x b = (s.entered (s.staging.entry x b)).modifyPending (s.staging.entry x b) (· + 1) := rfl

/-- What a pending count is seen through. -/
theorem OneMorePending.congr {kind : RecordKind} {id : Nat} {r t u v : State} (h : OneMorePending kind id r t)
    (hr : r.calls = u.calls ∧ r.agents = u.agents ∧ r.queues = u.queues)
    (ht : t.calls = v.calls ∧ t.agents = v.agents ∧ t.queues = v.queues) : OneMorePending kind id u v := by
  unfold OneMorePending CallsBut AgentsBut QueuesBut State.call State.agent State.queue at *
  obtain ⟨h1, h2, h3⟩ := hr
  obtain ⟨h4, h5, h6⟩ := ht
  rw [← h1, ← h2, ← h3, ← h4, ← h5, ← h6]
  exact h

/-- A command word write in the whole: the entry at the intake's tail, its record's count, and the beat forwarded, from a
state whose feeds alone have moved (R136, R148). -/
theorem entry_taken {r : State} (hfeeds : Changes [.feeds] s r) (e : IntakeEntry) (b : Beat) :
    let t := (((r.entered e).modifyPending e (· + 1)).forwardBeat b).settle
    t.intake = s.intake ++ [e] ∧ OneMorePending e.kind e.index s t ∧ t.path.forward = s.path.forward ++ [b] ∧
      t.feeds = r.feeds ∧ Changes [.intake, .calls, .agents, .queues, .feeds, .forward, .passCount] s t := by
  intro t
  have hentered : Changes [.feeds, .intake] s (r.entered e) := hfeeds.append (changes_entered r e)
  have hcounted := changes_modifyPending (r.entered e) e (· + 1)
  have hrest := changes_passedOn ((r.entered e).modifyPending e (· + 1)) b
  refine ⟨?_, (oneMorePending_modifyPending (r.entered e) e).congr ?_ ?_, ?_, ?_, ?_⟩
  · calc t.intake = ((r.entered e).modifyPending e (· + 1)).intake := hrest.keeps .intake (by decide)
      _ = r.intake ++ [e] := hcounted.keeps .intake (by decide)
      _ = s.intake ++ [e] := congrArg (· ++ [e]) (hfeeds.keeps .intake (by decide))
  · exact ⟨hentered.keeps .calls (by decide), hentered.keeps .agents (by decide), hentered.keeps .queues (by decide)⟩
  · exact ⟨(hrest.keeps .calls (by decide)).symm, (hrest.keeps .agents (by decide)).symm,
      (hrest.keeps .queues (by decide)).symm⟩
  · rw [forward_passedOn]
    exact congrArg (· ++ [b]) ((hcounted.keeps .forward (by decide)).trans (hentered.keeps .forward (by decide)))
  · exact (hrest.keeps .feeds (by decide)).trans (hcounted.keeps .feeds (by decide))
  · exact ((hentered.mono (by simp)).into hcounted (by simp +contextual)).into hrest (by simp)

/-! ### The fields of a command word and of a snapshot (R166, R168) -/

theorem byteField_eq (ws : List Word) (o : Nat) :
    byteField ws o = ((ws.getD (o / 4) 0).extractLsb' (8 * (o % 4)) 8).toNat := by
  rw [BitVec.extractLsb'_toNat, Nat.shiftRight_eq_div_pow]
  rfl

theorem halfField_eq (ws : List Word) (o : Nat) :
    halfField ws o = ((ws.getD (o / 4) 0).extractLsb' (8 * (o % 4)) 16).toNat := by
  rw [BitVec.extractLsb'_toNat, Nat.shiftRight_eq_div_pow]
  rfl

theorem tripleField_eq (ws : List Word) (o : Nat) : tripleField ws o = ((ws.getD (o / 4) 0).extractLsb' 0 24).toNat := by
  rw [BitVec.extractLsb'_toNat, Nat.shiftRight_zero]
  rfl

theorem IntakeEntry.argument_eq (e : IntakeEntry) : e.argument = (e.word.extractLsb' 16 16).toNat := by
  rw [BitVec.extractLsb'_toNat, Nat.shiftRight_eq_div_pow]
  show e.word.toNat / 65536 = e.word.toNat / 65536 % 65536
  have := e.word.isLt
  omega

/-- Settles O28: the fields at their places, and the entry that the beat's class makes. -/
theorem commandWordWritesMakeEntries : Obligations.CommandWordWritesMakeEntries := by
  refine ⟨fun e ws => ?fields, fun s i b kind id flag hp ha hw hcls hroom => ?entry⟩
  case fields =>
    exact ⟨rfl, rfl, e.argument_eq, byteField_eq ws 0, byteField_eq ws 1, byteField_eq ws 2, byteField_eq ws 3,
      halfField_eq ws 4, byteField_eq ws 6, halfField_eq ws 8, halfField_eq ws 16, halfField_eq ws 18,
      fun o => ⟨byteField_eq ws o, halfField_eq ws o, tripleField_eq ws o, rfl⟩⟩
  case entry =>
    have hcommand : (s.classify b.address).command = some (kind, id, flag) := by
      rcases hcls with ⟨h, rfl, rfl⟩ | ⟨h, rfl, rfl⟩ | ⟨h, rfl, rfl⟩ | ⟨h, rfl, rfl⟩ | ⟨h, rfl, rfl, rfl⟩ <;>
        rw [h] <;> rfl
    have hm : s.mustHold (.write b) = false := by
      rw [mustHold_write, decide_eq_false (Nat.not_le.2 hroom), Bool.and_false]
    have hexec := exec_write hp ha hw hm
    have hfeeds := changes_trackFeeds s b
    rw [State.takeWrite_command hcommand, makeEntry_eq, show (s.trackFeeds b).staging = s.staging from
      hfeeds.keeps .staging (by decide)] at hexec
    have ⟨hintake, hpending, hforward, htracked, hframe⟩ :=
      entry_taken hfeeds (s.staging.entry (kind, id, flag) b) (.write b)
    exact ⟨_, _, hexec, hintake, entryMade_entry s kind id flag b, hpending, hforward, htracked, hframe⟩

/-! ### A staging word (R147, R153) -/

/-- The part control after a write beat to a word: an outstanding loading read that asks for it has noted the beat (R153). -/
def PartControl.noting (p : PartControl) (w : Option LoadWord) (b : WriteBeat) : PartControl :=
  match w with
  | none => p
  | some w => { p with burst := p.burst.map fun r => r.note w b }

theorem PartControl.noting_idle {p : PartControl} (h : p.burst = none) (w : Option LoadWord) (b : WriteBeat) :
    p.noting w b = p := by
  unfold PartControl.noting
  cases w with
  | none => rfl
  | some w =>
    show { p with burst := p.burst.map fun r => r.note w b } = p
    rw [h, Option.map_none, ← h]

/-- The staging and the part control that a write beat leaves. -/
def State.stage (s : State) (g : Staging) (p : PartControl) : State := { s with staging := g, part := p }

@[simp] theorem feeds_stage (s : State) (g : Staging) (p : PartControl) : (s.stage g p).feeds = s.feeds := rfl

theorem stageBeat_eq (s : State) (g : Staging) (w : Option LoadWord) (b : WriteBeat) :
    State.noteHostWrite { s with staging := g } w b = s.stage g (s.part.noting w b) := by
  cases w <;> rfl

theorem changes_stage (s : State) (g : Staging) (w : Option LoadWord) (b : WriteBeat) :
    Changes [.staging, .loading] s (s.stage g (s.part.noting w b)) := by
  constructor
  intro k hk
  cases w <;> cases k <;> simp_all [Component.agree, State.stage, PartControl.noting]

/-- The feeds, the staging and the part control after a write beat to no command word (R136, R147, R153). -/
def State.restaged (s : State) (b : WriteBeat) : State :=
  (s.trackFeeds b).stage (s.staging.write (s.classify b.address) b) (s.part.noting (s.classify b.address).loadWord b)

/-- The state after such a beat has been taken and forwarded (R145). -/
def State.staged (s : State) (b : WriteBeat) : State := ((s.restaged b).forwardBeat (.write b)).settle

theorem exec_staged (hp : presents i (.write b)) (ha : s.path.resetAsserted = false) (hw : s.path.waiting = [])
    (hc : (s.classify b.address).command = none) : exec i s = .next (s.staged b) := by
  rw [exec_write hp ha hw (by rw [mustHold_write, hc]; rfl), State.takeWrite_staging hc, stageBeat_eq]
  unfold State.staged State.restaged
  rw [State.trackFeeds_eq]

section
variable (s : State) (b : WriteBeat)

theorem staging_staged : (s.staged b).staging = s.staging.write (s.classify b.address) b := State.staging_settle _

theorem part_staged : (s.staged b).part = s.part.noting (s.classify b.address).loadWord b := State.part_settle _

theorem feedsTracked_staged : FeedsTracked b s (s.staged b) := by
  show (s.staged b).feeds = (s.trackFeeds b).feeds
  unfold State.staged State.restaged
  rw [State.feeds_settle, State.feeds_forwardBeat, feeds_stage]

theorem changes_restaged : Changes [.staging, .feeds, .loading] s (s.restaged b) := by
  have hpart : s.part = (s.trackFeeds b).part := by rw [State.trackFeeds_eq]
  unfold State.restaged
  rw [hpart]
  exact ((changes_trackFeeds s b).mono (by simp)).into (changes_stage ..) (by simp)

theorem forward_staged : (s.staged b).path.forward = s.path.forward ++ [.write b] := by
  have hkept : (s.restaged b).path.forward = s.path.forward := (changes_restaged s b).keeps .forward (by decide)
  unfold State.staged
  rw [forward_passedOn, hkept]

theorem changes_staged : Changes [.staging, .feeds, .forward, .loading, .passCount] s (s.staged b) :=
  ((changes_restaged s b).mono (by simp)).into (changes_passedOn ..) (by simp)

end

/-- A word of a staging region after a write beat to it (R147). -/
theorem exists_lanesWritten {old new : Table Word} {n : Nat} {P Q : Prop} (h : new = stageWord old n b) (hP : P) (hQ : Q) :
    ∃ x, LanesWritten (Table.read 0 old n) b x ∧
      (∀ m, Table.read 0 new m = if m = n then x else Table.read 0 old m) ∧ P ∧ Q :=
  ⟨mergeLanes (Table.read 0 old n) b, lanesWritten_merge _ b, fun m => h ▸ Table.read_write (m := m) .., hP, hQ⟩

/-- Settles O30: each class writes one region, and loading reads reach four of them. -/
theorem stagingFollowsWriteBeats : Obligations.StagingFollowsWriteBeats := by
  intro s i b hp ha hw hc noted
  have hstaging := staging_staged s b
  have hpart := part_staged s b
  refine ⟨_, exec_staged hp ha hw hc, forward_staged s b, feedsTracked_staged s b, changes_staged s b,
    fun hnone => hpart.trans (PartControl.noting_idle hnone ..),
    fun c w h => ?_, fun g w h => ?_, fun q w h => ?_, fun w h => ?_, fun w h => ?_, fun w h => ?_,
    fun hcall hagent hqueue hconfig hsegment hprogram => ?other⟩
  case other =>
    rw [hstaging, hpart]
    cases hcls : s.classify b.address with
    | callHost c w => exact absurd hcls (hcall c w)
    | agentHost g w => exact absurd hcls (hagent g w)
    | queueHost q w => exact absurd hcls (hqueue q w)
    | configWord w => exact absurd hcls (hconfig w)
    | segmentWord w => exact absurd hcls (hsegment w)
    | programWord w => exact absurd hcls (hprogram w)
    | _ => exact ⟨rfl, rfl⟩
  all_goals
    rw [h] at hstaging hpart
    exact exists_lanesWritten (by rw [hstaging]; rfl) (by rw [hstaging]; rfl) hpart

/-! ### A counted write (R136) -/

theorem toNat_wordAddress (a : Word) : (wordAddress a).toNat = 4 * (a.toNat / 4) := by
  have hmask : ∀ i < 32, (0xFFFFFFFC#32).getLsbD i = decide (2 ≤ i) := by decide
  have hshift : wordAddress a = (a >>> 2) <<< 2 := by
    refine BitVec.eq_of_getLsbD_eq fun i hi => ?_
    show (a &&& 0xFFFFFFFC#32).getLsbD i = _
    rw [BitVec.getLsbD_and, hmask i hi, BitVec.getLsbD_shiftLeft, BitVec.getLsbD_ushiftRight]
    by_cases h : 2 ≤ i
    · rw [decide_eq_true h, decide_eq_true hi, decide_eq_false (Nat.not_lt.2 h), show 2 + (i - 2) = i by omega,
        Bool.and_true]
      rfl
    · rw [decide_eq_false h, decide_eq_true (Nat.lt_of_not_le h), Bool.and_false]
      simp
  have hlt := a.isLt
  rw [hshift, BitVec.toNat_shiftLeft, BitVec.toNat_ushiftRight, Nat.shiftLeft_eq, Nat.shiftRight_eq_div_pow]
  omega

theorem Feed.counts_iff (f : Feed) (b : WriteBeat) : f.counts b = true ↔ f.Counts b := by
  unfold Feed.counts Feed.Counts
  simp only [Bool.and_eq_true, decide_eq_true_eq, toNat_wordAddress, and_assoc]

section
variable {f : Feed} {now : Tick}

/-- The place of the head after a counted write: just past its highest enabled byte, round the ring (R136). -/
def Feed.headAfter (f : Feed) (b : WriteBeat) : Word :=
  if pastHighest b = f.latched.ringEnd then f.latched.ringStart else pastHighest b

theorem Feed.track_settles (ha : f.state = .arming) (hs : f.settling = false) :
    f.track b now = { f with head := f.headAfter b, lastWrite := now, settling := true, settleCount := 0 } :=
  if_pos ⟨ha, hs⟩

theorem Feed.track_moves (h : f.state ≠ .arming ∨ f.settling = true) :
    f.track b now = { f with head := f.headAfter b, lastWrite := now } :=
  if_neg fun ⟨ha, hs⟩ => h.elim (· ha) fun h => by rw [hs] at h; cases h

end

/-- Settles O31: the feeds follow the beat as `Feed.track` has it, where it is counted. -/
theorem countedWritesMoveTheHead : Obligations.CountedWritesMoveTheHead := by
  intro s b ha hw hc past
  have hfeed (f : Nat) : (s.staged b).feed f = (s.trackFeeds b).feed f :=
    congrArg (Table.read Feed.cold · f) (feedsTracked_staged s b)
  refine ⟨_, exec_staged (.inl ⟨b, rfl, .inr (.inr rfl)⟩) ha hw hc, forward_staged s b, changes_staged s b,
    fun f => ⟨fun hf hcounts => ?counted, fun hno => ?uncounted⟩⟩
  case counted =>
    intro head
    rw [hfeed, State.feed_trackFeeds, if_pos ⟨hf, (Feed.counts_iff ..).2 hcounts⟩]
    exact ⟨Feed.track_settles, Feed.track_moves⟩
  case uncounted =>
    rw [hfeed, State.feed_trackFeeds, if_neg]
    rintro ⟨hf, hcounts⟩
    rcases hno with hno | hno
    · exact absurd hf (Nat.not_lt.2 hno)
    · exact hno ((Feed.counts_iff ..).1 hcounts)

end Sys2Proof.Machine
end

section
/-! SUPPORT. The Feed Monitor: a feed's tick by its state, the change of state its readers follow, and FEED_CLEAR (08 R137 to
R141). -/

namespace Sys2Proof.Machine

variable {s : State} {e : IntakeEntry} {i : Nat}

/-! ### A feed that becomes LIVE or MISSING, and its readers (R140, R141) -/

theorem Context.switches_iff (x : Context) (i : Nat) : x.switches i = true ↔ x.reads i := by
  rw [Context.reads_iff]
  unfold Context.switches
  simp [and_assoc]

/-- A feed's record written anew, the notice of its change posted, and its readers switched (R137 to R140). -/
def State.turnFeed (s : State) (i : Nat) (g : Feed) (kind : EventKind) (detail : Nat) : State :=
  ((s.setFeed i g).postFeed kind i detail).switchReaders i

section
variable (s : State) (i : Nat) (g : Feed) (kind : EventKind) (detail : Nat)

theorem feed_turnFeed (f : Nat) : (s.turnFeed i g kind detail).feed f = if f = i then g else s.feed f := by
  simp [State.turnFeed, State.postFeed]

theorem events_turnFeed : (s.turnFeed i g kind detail).events =
    (s.post .supervision kind none none (some i) detail).events := by
  unfold State.turnFeed State.postFeed
  rw [State.events_switchReaders]
  exact State.events_post_congr (s := s) (u := s.setFeed i g) rfl rfl rfl rfl ..

theorem frame_turnFeed : Changes ([.feeds, .contexts] ++ posting) s (s.turnFeed i g kind detail) :=
  have hposted : Changes ([.feeds, .contexts] ++ posting) s ((s.setFeed i g).postFeed kind i detail) :=
    ((changes_setFeed ..).mono (by simp)).into (changes_post ..) (by simp +contextual)
  State.frame_switchReaders _ hposted i (by simp)

/-- Its readers have followed the feed as it then stands (R140). -/
theorem context_turnFeed (hc : Canonical s) (k : Nat) : (s.turnFeed i g kind detail).context k =
    if (s.context k).switches i then (s.context k).followed (s.setFeed i g) else s.context k := by
  obtain ⟨-, -, -, -, hcontexts, -⟩ := hc
  unfold State.turnFeed State.postFeed
  rw [State.context_switchReaders _ (by simpa using hcontexts), State.context_post, State.context_setFeed,
    State.followed_congr (s := s.setFeed i g) _ (by simp) (by simp)]

/-- The readers of a feed that is LIVE rejoin its ring where it stands (R141). -/
theorem readersRejoin_turnFeed (hc : Canonical s) (hlive : g.state = .live) (hplace : g.joinPlace = (s.feed i).joinPlace) :
    ReadersRejoin i s (s.turnFeed i g kind detail) := by
  intro k
  have hfeed : (s.setFeed i g).feed i = g := by simp
  rw [context_turnFeed s i g kind detail hc]
  by_cases hr : (s.context k).reads i
  · rw [if_pos ((Context.switches_iff ..).2 hr)]
    refine ⟨fun _ hs => ?_, fun h => Context.followed_settled fun _ => ?_⟩
    · rw [Context.reader_joins hr (by rwa [hfeed]) hs, hfeed, hplace]
    · obtain ⟨-, -, hread⟩ := (Context.reads_iff ..).1 hr
      rw [hread, hfeed]
      exact iff_of_true hlive (h.resolve_left (absurd hr))
  · rw [if_neg (mt (Context.switches_iff ..).1 hr)]
    exact ⟨fun h => absurd h hr, fun _ => rfl⟩

/-- The readers on the ring of a feed that is not LIVE go to their fallback (R118, R140). -/
theorem readersFallBack_turnFeed (hc : Canonical s) (hlost : g.state ≠ .live) :
    ReadersFallBack i s (s.turnFeed i g kind detail) := by
  intro k x
  have hfeed : (s.setFeed i g).feed i = g := by simp
  rw [context_turnFeed s i g kind detail hc]
  by_cases hr : x.reads i
  · rw [if_pos ((Context.switches_iff ..).2 hr)]
    refine ⟨fun _ hs hdefined => ?_, fun _ hs hundefined => ?_, fun h => Context.followed_settled fun _ => ?_⟩
    · rw [Context.reader_falls hr (by rwa [hfeed]) hs]
      exact Context.fallBack_defined _ 0 hdefined
    · rw [Context.reader_falls hr (by rwa [hfeed]) hs]
      exact Context.fallBack_silent _ 0 (by rw [State.segment_setFeed, hundefined]; decide)
    · obtain ⟨-, -, hread⟩ := (Context.reads_iff ..).1 hr
      rw [hread, hfeed]
      exact iff_of_false hlost (h.resolve_left (absurd hr))
  · rw [if_neg (mt (Context.switches_iff ..).1 hr)]
    exact ⟨fun h => absurd h hr, fun h => absurd h hr, fun _ => rfl⟩

end

/-! ### A feed's tick, by its state (R137, R138) -/

/-- The part has the four feeds 0 to 3 (R135). -/
theorem feed_exists (h : i ≤ 3) : ¬ Config.numFeeds ≤ i := Nat.not_le.2 (Nat.lt_succ_of_le h)

/-- A feed with one tick more taken (log 4). -/
def Feed.ticked (f : Feed) : Feed := { f with ticksTaken := f.ticksTaken + 1 }

theorem Feed.silent_iff (f : Feed) (now : Tick) : f.silent now = true ↔ f.latched.timeout < (now - f.lastWrite).toNat :=
  decide_eq_true_iff

section
variable (hs : (s.feed i).settling = true)
include hs

theorem armingTick_restarts (hp : (s.feed i).silent s.tick = true) :
    s.armingTick i = s.setFeed i { (s.feed i).ticked with settling := false, settleCount := 0 } := by
  unfold State.armingTick
  dsimp only
  rw [if_neg (by rw [hs]; decide), if_pos hp]
  rfl

theorem armingTick_counts (hp : ¬ (s.feed i).silent s.tick = true)
    (hc : (s.feed i).settleCount + 1 < (s.feed i).latched.settle) :
    s.armingTick i = s.setFeed i { (s.feed i).ticked with settleCount := (s.feed i).settleCount + 1 } := by
  unfold State.armingTick
  dsimp only
  rw [if_neg (by rw [hs]; decide), if_neg hp, if_neg (Nat.not_le.2 hc)]
  rfl

theorem armingTick_arms (hp : ¬ (s.feed i).silent s.tick = true)
    (hc : (s.feed i).latched.settle ≤ (s.feed i).settleCount + 1) :
    s.armingTick i =
      s.turnFeed i { (s.feed i).ticked with state := .live, settling := false, settleCount := 0 } .feedLive 1 := by
  unfold State.armingTick
  dsimp only
  rw [if_neg (by rw [hs]; decide), if_neg hp, if_pos hc]
  rfl

end

theorem armingTick_waits (hs : (s.feed i).settling = false) : s.armingTick i = s.setFeed i (s.feed i).ticked := if_pos hs

theorem liveTick_stays (hp : ¬ (s.feed i).silent s.tick = true) : s.liveTick i = s.setFeed i (s.feed i).ticked := if_neg hp

theorem liveTick_misses (hp : (s.feed i).silent s.tick = true) :
    s.liveTick i = s.turnFeed i { (s.feed i).ticked with state := .missing } .feedMissing 0 := if_pos hp

/-! ### The rows of a feed's tick (R137, R138; log 5) -/

/-- A row that names one of the four feeds is an event. -/
theorem feed_event (hi : i < 4) (ha : s.path.resetAsserted = false) {f : State → State} {u : State} (h : f s = u) :
    (if Config.numFeeds ≤ i then .fault (.noSuchRecord i) else event s f : Outcome) = .next u.settle := by
  rw [if_neg (feed_exists (Nat.le_of_lt_succ hi)), event_awake f ha, h]

section
variable (hi : i < 4) (ha : s.path.resetAsserted = false) (hdue : s.feedTickDue i = true)
include hi ha hdue

theorem exec_feedArmingTick_passes (hs : (s.feed i).state = .off ∨ (s.feed i).state = .missing) :
    exec (.feedArmingTick i) s = .next (s.setFeed i (s.feed i).ticked).settle := by
  refine feed_event hi ha ((if_pos hdue).trans ?_)
  rcases hs with hs | hs <;> rw [hs] <;> rfl

theorem exec_feedArmingTick_arming (hs : (s.feed i).state = .arming) :
    exec (.feedArmingTick i) s = .next (s.armingTick i).settle := by
  refine feed_event hi ha ((if_pos hdue).trans ?_)
  rw [hs]

theorem exec_armingRestart (hs : (s.feed i).restarts s.tick = true) :
    exec (.armingRestart i) s = .next (s.armingTick i).settle :=
  feed_event hi ha (if_pos (Bool.and_eq_true_iff.2 ⟨hdue, hs⟩))

theorem exec_feedArmed (hs : (s.feed i).arms s.tick = true) : exec (.feedArmed i) s = .next (s.armingTick i).settle :=
  feed_event hi ha (if_pos (Bool.and_eq_true_iff.2 ⟨hdue, hs⟩))

theorem exec_feedMissing (hs : (s.feed i).state = .live) : exec (.feedMissing i) s = .next (s.liveTick i).settle :=
  feed_event hi ha (if_pos (Bool.and_eq_true_iff.2 ⟨hdue, decide_eq_true hs⟩))

end

/-- A row that writes its feed's record alone. -/
theorem feed_sets {c : Instr} {g : Feed} (h : exec c s = .next (s.setFeed i g).settle) :
    ∃ t, exec c s = .next t ∧ t.feed i = g ∧ FeedsBut i s t ∧ Changes [.feeds, .passCount] s t :=
  ⟨_, h, by simp, fun f hf => by simp [hf], frame_settle (frame_setFeed (.refl ..) _ _ (by simp)) (by simp)⟩

/-- What the readers of a feed have become is seen through the contexts alone. -/
theorem ReadersRejoin.of_contexts {t u : State} (hu : ∀ k, u.context k = t.context k) (h : ReadersRejoin i s t) :
    ReadersRejoin i s u := fun k => hu k ▸ h k

theorem ReadersFallBack.of_contexts {t u : State} (hu : ∀ k, u.context k = t.context k) (h : ReadersFallBack i s t) :
    ReadersFallBack i s u := fun k => hu k ▸ h k

/-- A row that changes its feed's state. -/
theorem feed_turns {c : Instr} {g : Feed} {kind : EventKind} {detail : Nat} {readers : State → Prop}
    (h : exec c s = .next (s.turnFeed i g kind detail).settle)
    (hr : ∀ t, (∀ k, t.context k = (s.turnFeed i g kind detail).context k) → readers t) :
    ∃ t, exec c s = .next t ∧ t.feed i = g ∧ readers t ∧
      t.events = (s.post .supervision kind none none (some i) detail).events ∧ FeedsBut i s t ∧
      Changes ([.feeds, .contexts, .passCount] ++ posting) s t := by
  refine ⟨_, h, ?_, hr _ (by simp), ?_, fun f hf => ?_,
    frame_settle ((Changes.refl ..).into (frame_turnFeed ..) (by simp +contextual)) (by simp)⟩
  · rw [State.feed_settle, feed_turnFeed, if_pos rfl]
  · rw [State.events_settle, events_turnFeed]
  · rw [State.feed_settle, feed_turnFeed, if_neg hf]

/-! ### FEED_CLEAR (R139) -/

theorem feedClearBody_badField (h : 3 < e.argument) : feedClearBody e s = (.badField, s) := if_pos h

section
variable (hi : e.argument ≤ 3)
include hi

theorem feedClearBody_wrongState (h : (s.feed e.argument).state = .off ∨ (s.feed e.argument).state = .arming) :
    feedClearBody e s = (.wrongState, s) := by
  unfold feedClearBody
  dsimp only
  rw [if_neg (feed_exists hi)]
  rcases h with h | h <;> rw [h]

theorem feedClearBody_live (h : (s.feed e.argument).state = .live) : feedClearBody e s = (.ok, s) := by
  unfold feedClearBody
  dsimp only
  rw [if_neg (feed_exists hi), h]

theorem feedClearBody_stillMissing (h : (s.feed e.argument).state = .missing)
    (hold : 1 < (s.tick - (s.feed e.argument).lastWrite).toNat) : feedClearBody e s = (.stillMissing, s) := by
  unfold feedClearBody
  dsimp only
  rw [if_neg (feed_exists hi), h]
  exact if_neg (Nat.not_le.2 hold)

theorem feedClearBody_clears (h : (s.feed e.argument).state = .missing)
    (hnew : (s.tick - (s.feed e.argument).lastWrite).toNat ≤ 1) : feedClearBody e s =
      (.ok, s.turnFeed e.argument { s.feed e.argument with state := .live } .feedLive 2) := by
  unfold feedClearBody
  dsimp only
  rw [if_neg (feed_exists hi), h]
  exact if_pos hnew

end

/-- A feed whose writer is back is LIVE again, and its readers rejoin (R139, R140). -/
theorem feedClear_clears (h : Handed s e .part 7) (hallowed : onlyActive s.part.state = true) (hi : e.argument ≤ 3)
    (hs : (s.feed e.argument).state = .missing) (hnew : (s.tick - (s.feed e.argument).lastWrite).toNat ≤ 1)
    (hc : Canonical s) : ∃ t, exec .feedClear s = .next t ∧
      t.feed e.argument = { s.feed e.argument with state := .live } ∧ ReadersRejoin e.argument s t ∧
      t.events = (s.post .supervision .feedLive none none (some e.argument) 2).events ∧
      t.part.result = e.answer .ok ∧ t.intake = s.intake.tail ∧ FeedsBut e.argument s t ∧
      Changes ([.intake, .feeds, .contexts, .partResult, .passCount] ++ posting) s t := by
  have hexec := partCommand_answering h hallowed feedClearBody
  rw [feedClearBody_clears (s := s.dropOldest) hi hs hnew] at hexec
  have hrejoin := readersRejoin_turnFeed s.dropOldest e.argument { s.feed e.argument with state := .live } .feedLive 2
    (canonical_intake _ hc) rfl rfl
  have hturned := frame_turnFeed s.dropOldest e.argument { s.feed e.argument with state := .live } .feedLive 2
  refine ⟨_, hexec, ?_, .of_contexts (by simp) hrejoin, ?_, by simp, ?_, fun f hf => ?_, ?_⟩
  · rw [State.feed_settle, State.feed_setPartResult, feed_turnFeed, if_pos rfl]
    rfl
  · rw [State.events_settle, State.events_setPartResult, events_turnFeed]
    exact State.events_post_congr (s := s) (u := s.dropOldest) rfl rfl rfl rfl ..
  · rw [State.intake_settle, State.intake_setPartResult]
    exact hturned.keeps .intake (by decide)
  · rw [State.feed_settle, State.feed_setPartResult, feed_turnFeed, if_neg hf]
    rfl
  · exact (((changes_dropOldest s).mono (by simp)).into hturned (by simp +contextual)).into (changes_answered ..) (by simp)

/-- Settles O51: the tick by the feed's state and by how long its writer has been silent, then FEED_CLEAR by what its body
answers. -/
theorem feedsArmAreLostAndCleared : Obligations.FeedsArmAreLostAndCleared := by
  refine ⟨fun s i hi ha hdue => ?ticks, fun s e ht => ?clear⟩
  case ticks =>
    intro f paused leaves changes
    have hdue : s.feedTickDue i = true := bne_iff_ne.2 hdue
    have hsilent : f.silent s.tick = true ↔ paused := Feed.silent_iff ..
    refine ⟨fun h => ?passes, fun hs hsettling hp c hc => ?restarts, fun hs hsettling hp hcount => ?counts,
      fun hs hsettling hp hcount hcanonical c hc => ?arms, fun hs hp => ?stays, fun hs hp hcanonical => ?misses⟩
    case passes =>
      rcases h with h | h | ⟨hs, hsettling⟩
      · exact feed_sets (exec_feedArmingTick_passes hi ha hdue (.inl h))
      · exact feed_sets (exec_feedArmingTick_passes hi ha hdue (.inr h))
      · have hexec := exec_feedArmingTick_arming hi ha hdue hs
        rw [armingTick_waits hsettling] at hexec
        exact feed_sets hexec
    case restarts =>
      have hexec : exec c s = .next (s.armingTick i).settle := by
        rcases hc with rfl | rfl
        · exact exec_feedArmingTick_arming hi ha hdue hs
        · refine exec_armingRestart hi ha hdue ?_
          unfold Feed.restarts
          rw [decide_eq_true hs, hsettling, hsilent.2 hp]
          rfl
      rw [armingTick_restarts hsettling (hsilent.2 hp)] at hexec
      exact feed_sets hexec
    case counts =>
      have hexec := exec_feedArmingTick_arming hi ha hdue hs
      rw [armingTick_counts hsettling (mt hsilent.1 hp) hcount] at hexec
      exact feed_sets hexec
    case arms =>
      have hexec : exec c s = .next (s.armingTick i).settle := by
        rcases hc with rfl | rfl
        · exact exec_feedArmingTick_arming hi ha hdue hs
        · refine exec_feedArmed hi ha hdue ?_
          unfold Feed.arms
          rw [decide_eq_true hs, hsettling, eq_false_of_ne_true (mt hsilent.1 hp), decide_eq_true hcount]
          rfl
      rw [armingTick_arms hsettling (mt hsilent.1 hp) hcount] at hexec
      exact feed_turns hexec fun t ht => .of_contexts ht (readersRejoin_turnFeed _ _ _ _ _ hcanonical rfl rfl)
    case stays =>
      have hexec := exec_feedMissing hi ha hdue hs
      rw [liveTick_stays (mt hsilent.1 hp)] at hexec
      exact feed_sets hexec
    case misses =>
      have hexec := exec_feedMissing hi ha hdue hs
      rw [liveTick_misses (hsilent.2 hp)] at hexec
      exact feed_turns hexec fun t ht => .of_contexts ht (readersFallBack_turnFeed _ _ _ _ _ hcanonical (by simp))
  case clear =>
    intro i
    obtain ⟨h, hactive⟩ := ht
    have hallowed : onlyActive s.part.state = true := by rw [hactive]; rfl
    refine ⟨fun hi => partCommand_refused h hallowed (feedClearBody_badField hi),
      fun hi hs => partCommand_refused h hallowed (feedClearBody_wrongState hi hs),
      fun hi hs => partCommand_refused h hallowed (feedClearBody_live hi hs),
      fun hi hs hold => partCommand_refused h hallowed (feedClearBody_stillMissing hi hs hold),
      feedClear_clears h hallowed⟩

end Sys2Proof.Machine
end

section
/-! SUPPORT. The data of a loading read: discarded, taken into staging, or the last one, which completes the LOADING (08
R135; 09 R152 to R154). -/

namespace Sys2Proof.Machine

variable {s : State} {b : LoadBurst} {data : List Word}

/-! ### The last burst of a read (R153) -/

/-- The last word of a burst of host-owned words is host-owned. -/
theorem LoadBurst.Within.owned_last (h : b.Within) :
    LoadWord.Owned { b.first with word := b.first.word + b.beats - 1 } := by
  obtain ⟨hpos, -, howned⟩ := h
  exact howned _ (by omega) (by omega)

theorem LoadBurst.endsConfig_iff (h : b.Within) :
    b.endsConfig = true ↔ b.first.table = .config ∧ b.first.word + b.beats = 64 := by
  have hlast := h.owned_last
  obtain ⟨hpos, -⟩ := h
  obtain ⟨⟨table, index, word⟩, beats, hostWrote⟩ := b
  cases table <;> simp only [LoadBurst.endsConfig, LoadWord.after, LoadWord.Owned] at hlast hpos ⊢
  case config =>
    by_cases hmore : word + beats < 64
    · simp [hmore]; omega
    · simp [hmore]; omega
  all_goals simp

/-- The records end with the last word of the last call (R153). -/
theorem LoadBurst.endsRecords_iff (h : b.Within) : b.endsRecords = true ↔
    b.first.table = .call ∧ b.first.index = 2047 ∧ b.first.word + b.beats = 4 := by
  have hlast := h.owned_last
  obtain ⟨hpos, -⟩ := h
  obtain ⟨⟨table, index, word⟩, beats, hostWrote⟩ := b
  cases table <;> simp only [LoadBurst.endsRecords, LoadWord.after, LoadWord.Owned, Config.numCalls] at hlast hpos ⊢
  case call =>
    by_cases hmore : word + beats < 4
    · simp [hmore]; omega
    · by_cases hnext : index + 1 < 2048
      · simp [hmore, hnext]; omega
      · simp [hmore, hnext]; omega
  all_goals simp

/-! ### The responses to a loading read (R153, R154) -/

section
variable (ha : s.path.resetAsserted = false)
include ha

/-- Any response is an abandoned read's while one is still to come (R154). -/
theorem exec_response_discards (hd : s.part.discard ≠ 0) {c : Instr}
    (hc : c = .loadingReadDone data ∨ c = .configReadDone data ∨ c = .loadFault) :
    exec c s = .next s.discardLoad.settle := by
  rcases hc with rfl | rfl | rfl
  · show execLoadingReadDone data s = _
    rw [execLoadingReadDone, event_awake _ ha, if_pos hd]
  · show execConfigReadDone data s = _
    rw [execConfigReadDone, event_awake _ ha, if_pos hd]
  · show execLoadFault s = _
    rw [execLoadFault, event_awake _ ha, if_pos hd]

variable (hd : s.part.discard = 0) (hb : s.part.burst = some b) (hl : data.length = b.beats) (hc : ¬ b.endsConfig = true)
include hd hb hl hc

theorem exec_loadingReadDone_takes (hr : ¬ b.endsRecords = true) :
    exec (.loadingReadDone data) s = .next (s.takeLoad b data).settle := by
  show execLoadingReadDone data s = _
  unfold execLoadingReadDone
  rw [event_awake _ ha]
  simp [hd, hb, hl, hc, hr]

theorem exec_loadingReadDone_completes (hr : b.endsRecords = true) :
    exec (.loadingReadDone data) s = .next (s.takeLoad b data).completeLoading.settle := by
  show execLoadingReadDone data s = _
  unfold execLoadingReadDone
  rw [event_awake _ ha]
  simp [hd, hb, hl, hc, hr]

end

theorem changes_discardLoad (s : State) : Changes [.loading] s s.discardLoad := by
  constructor
  intro k hk
  cases k <;> simp_all [Component.agree, State.discardLoad]

theorem changes_takeLoad (s : State) (b : LoadBurst) (data : List Word) :
    Changes [.staging, .loading] s (s.takeLoad b data) := by
  constructor
  intro k hk
  cases k <;> simp_all [Component.agree, State.takeLoad]

/-! ### What is seen of the data, and of the library -/

/-- Words loaded are seen through the staging alone. -/
theorem WordsLoaded.of_staging {t u : State} (hu : u.staging = t.staging) (h : WordsLoaded b data s t) :
    WordsLoaded b data s u := by
  unfold WordsLoaded at h ⊢
  rwa [hu]

/-- A latch is seen through the two library regions of staging, which loading reads do not reach. -/
theorem LibraryLatched.before {t u : State} (hsegments : t.staging.segments = s.staging.segments)
    (hprograms : t.staging.programs = s.staging.programs) (h : LibraryLatched t u) : LibraryLatched s u := by
  unfold LibraryLatched at h ⊢
  rwa [hsegments, hprograms] at h

/-- Settles O53: the discard by its count; then, by whether the burst is the last of the records, the words of the data
alone, or these and the completion. -/
theorem loadingDataFillsStaging : Obligations.LoadingDataFillsStaging := by
  intro s b data ha
  refine ⟨fun hd c hc => ?discards, fun hd hb hl hwithin => ?data⟩
  case discards =>
    refine ⟨_, exec_response_discards ha hd hc, ?_, ?_⟩
    · rw [State.part_settle]
      rfl
    · exact frame_settle ((changes_discardLoad s).mono (by simp)) (by simp)
  intro last
  have hrecords : b.endsRecords = true ↔ last := LoadBurst.endsRecords_iff hwithin
  have hwords := s.wordsLoaded_takeLoad b data hl hwithin
  have htaken := changes_takeLoad s b data
  refine ⟨fun hmore hconfig => ?takes, fun hlast hcanonical => ?completes⟩
  case takes =>
    have hexec := exec_loadingReadDone_takes ha hd hb hl (mt (LoadBurst.endsConfig_iff hwithin).1 hconfig)
      (mt hrecords.1 hmore)
    refine ⟨_, hexec, hwords.of_staging (State.staging_settle _), ?_, frame_settle (htaken.mono (by simp)) (by simp)⟩
    rw [State.part_settle]
    rfl
  case completes =>
    have hrecord : ¬ b.endsConfig = true := by
      rw [LoadBurst.endsConfig_iff hwithin, hlast.1]
      rintro ⟨h, -⟩
      cases h
    have hexec := exec_loadingReadDone_completes ha hd hb hl hrecord (hrecords.2 hlast)
    have hcanonical : Canonical (s.takeLoad b data) := canonical_takeLoad b data hcanonical
    have hrest := changes_settle (s.takeLoad b data).completeLoading
    obtain ⟨-, -, -, -, hsegments, hprograms⟩ := id hwords
    refine ⟨_, hexec, hwords.of_staging ?staging, ?dropped, ?library, fun i hi => ?feeds, ?part, ?frame⟩
    case staging => rw [State.staging_settle, State.staging_completeLoading]
    case dropped =>
      exact ((State.liveDropped_completeLoading _ hcanonical).before htaken (by decide)).after hrest (by decide)
    case library =>
      exact .before hsegments hprograms (State.libraryLatched_congr rfl (by simp) (by simp)
        (State.libraryLatched_completeLoading _))
    case feeds =>
      rw [State.feed_settle, State.feed_completeLoading _ hcanonical i hi]
      rfl
    case part =>
      rw [State.part_settle, State.part_completeLoading]
      rfl
    case frame =>
      exact ((htaken.mono (by simp)).into (State.frame_completeLoading _) (by simp +contextual)).into hrest (by simp)

end Sys2Proof.Machine
end

section
/-! SUPPORT. What the hand-over settles before a unit acts, for every row it hands an entry to, and the invariants after cold
reset (09 R148, R150, R151, R157). -/

namespace Sys2Proof.Machine

variable {s : State} {e : IntakeEntry}

/-! ### The rows the intake hands an entry to (R150) -/

/-- The meaning of a row of record commands: the record command of its kind and code, with its unit's body. -/
def RecordRow (r : Instr × RecordKind × Byte) : Prop :=
  ∃ body, ∀ s, exec r.1 s = recordCommand r.2.1 r.2.2 body s

theorem recordRow_of_mem {r : Instr × RecordKind × Byte} (h : r ∈ recordRows) : RecordRow r := by
  have rows : ∀ r ∈ recordRows, RecordRow r := by
    simp only [recordRows, List.forall_mem_cons]
    exact ⟨⟨enqueueBody, fun _ => rfl⟩, ⟨abandonBody, fun _ => rfl⟩, ⟨answerBody, fun _ => rfl⟩,
      ⟨noAnswerBody, fun _ => rfl⟩, ⟨holdBody, fun _ => rfl⟩, ⟨resumeBody, fun _ => rfl⟩, ⟨transferBody, fun _ => rfl⟩,
      ⟨releaseBody, fun _ => rfl⟩, ⟨priorityBody, fun _ => rfl⟩, ⟨announceBody, fun _ => rfl⟩, ⟨loginBody, fun _ => rfl⟩,
      ⟨readyBody, fun _ => rfl⟩, ⟨notReadyBody, fun _ => rfl⟩, ⟨logoutBody, fun _ => rfl⟩, ⟨skillsBody, fun _ => rfl⟩,
      ⟨extendWrapBody, fun _ => rfl⟩, ⟨openBody, fun _ => rfl⟩, ⟨closeBody, fun _ => rfl⟩, ⟨pauseBody, fun _ => rfl⟩,
      ⟨unpauseBody, fun _ => rfl⟩, ⟨applyBody, fun _ => rfl⟩, ⟨resetCountersBody, fun _ => rfl⟩, by simp⟩
  exact rows r h

/-- The meaning of a row of part commands: the part command of its code, admitted in no state that R151 refuses it in. -/
def PartRow (r : Instr × Byte × List PartState) : Prop :=
  ∃ allowed body, (∀ s, exec r.1 s = partCommand r.2.1 allowed body s) ∧ ∀ p ∈ r.2.2, allowed p = false

theorem partRow_of_mem {r : Instr × Byte × List PartState} (h : r ∈ partRows) : PartRow r := by
  have rows : ∀ r ∈ partRows, PartRow r := by
    simp only [partRows, List.forall_mem_cons]
    exact ⟨⟨anyState, answering enableBody, fun _ => rfl, by decide⟩,
      ⟨anyState, answering disableBody, fun _ => rfl, by decide⟩, ⟨anyState, restartBody, fun _ => rfl, by decide⟩,
      ⟨onlyActive, answering libraryApplyBody, fun _ => rfl, by decide⟩,
      ⟨notLoading, answering eventPopBody, fun _ => rfl, by decide⟩,
      ⟨notLoading, answering summaryClearBody, fun _ => rfl, by decide⟩,
      ⟨onlyActive, answering feedClearBody, fun _ => rfl, by decide⟩,
      ⟨notLoading, answering timebaseClearBody, fun _ => rfl, by decide⟩, by simp⟩
  exact rows r h

/-! ### Results settled before a unit acts (R150) -/

theorem executeRecord_torn (h : e.torn = true) (body : IntakeEntry → State → ResultCode × State) :
    s.executeRecord e body = (s.dropEntry e).writeResult e .torn := if_pos h

theorem executeRecord_notActive (h : e.torn = false) (hp : s.part.state ≠ .active)
    (body : IntakeEntry → State → ResultCode × State) :
    s.executeRecord e body = (s.dropEntry e).writeResult e .notActive := by
  unfold State.executeRecord
  simp [h, hp]

theorem executePart_torn (h : e.torn = true) (allowed : PartState → Bool) (body : IntakeEntry → State → State) :
    s.executePart e allowed body = (s.dropEntry e).writeResult e .torn := if_pos h

theorem executePart_notActive {allowed : PartState → Bool} (h : e.torn = false) (hp : allowed s.part.state = false)
    (body : IntakeEntry → State → State) :
    s.executePart e allowed body = (s.dropEntry e).writeResult e .notActive := by
  unfold State.executePart
  simp [h, hp]

/-- A code outside its kind's run of codes from 1 on is not known (R168). -/
theorem IntakeEntry.known_eq_false (hf : e.flagWord = false) (h : e.code = 0 ∨ e.kind.lastCode < e.code.toNat) :
    e.known = false := by
  unfold IntakeEntry.known
  rcases h with h | h
  · simp [hf, h]
  · simp [hf, h]

section
variable (ha : s.path.resetAsserted = false) (ho : s.intake.head? = some e)
include ha ho

/-- An event answers what it does to a state with the entry in front. -/
theorem event_oldest {f : State → State} {t : State} (h : ∀ rest, s.intake = e :: rest → f s = t) :
    event s f = .next t.settle := by
  obtain ⟨rest, hi⟩ := List.head?_eq_some_iff.1 ho
  rw [event_awake f ha, h rest hi]

theorem recordCommand_oldest {kind : RecordKind} {code : Byte} (hk : e.kind = kind) (hf : e.flagWord = false)
    (hc : e.code = code) (body : IntakeEntry → State → ResultCode × State) :
    recordCommand kind code body s = .next (s.executeRecord e body).settle :=
  event_oldest ha ho fun rest hi => by rw [hi]; exact if_pos ⟨hk, hf, hc⟩

theorem flagWrite_oldest (hk : e.kind = .agent) (hf : e.flagWord = true) :
    exec .flagWrite s = .next (s.executeRecord e flagWriteBody).settle := by
  show execFlagWrite s = _
  exact event_oldest ha ho fun rest hi => by rw [hi]; exact if_pos ⟨hk, hf⟩

theorem partCommand_oldest {code : Byte} (hk : e.kind = .part) (hf : e.flagWord = false) (hc : e.code = code)
    (allowed : PartState → Bool) (body : IntakeEntry → State → State) :
    partCommand code allowed body s = .next (s.executePart e allowed body).settle :=
  event_oldest ha ho fun rest hi => by rw [hi]; exact if_pos ⟨hk, hf, hc⟩

theorem unknownCommand_oldest (hk : e.known = false) :
    exec .unknownCommand s = .next ((s.dropEntry e).writeResult e (s.unknownResult e)).settle := by
  show execUnknownCommand s = _
  exact event_oldest ha ho fun rest hi => by rw [hi]; exact if_pos hk

end

/-- An event that only writes an entry's result answers it and changes nothing else. -/
theorem only_answers {i : Instr} {r : ResultCode} {a : CommandResult}
    (hexec : exec i s = .next ((s.dropEntry e).writeResult e r).settle) (hr : e.resultOf r = a) :
    ∃ t, exec i s = .next t ∧ OnlyAnswered s t e a :=
  ⟨_, hexec, hr ▸ onlyAnswered s e r⟩

/-- Settles O20: TORN, then NOT_ACTIVE, by the rows of each kind; then the codes no kind defines. -/
theorem handOverSettlesTornNotActiveAndUnknown : Obligations.HandOverSettlesTornNotActiveAndUnknown := by
  refine ⟨fun s e ha ho => ⟨fun i kind code hrow hk hf hc => ?record, fun hk hf => ?flags,
    fun i code states hrow hk hf hc => ?part⟩, fun s e ha ho hf hcode => ?unknown⟩
  case record =>
    obtain ⟨body, hexec⟩ := recordRow_of_mem hrow
    have hexec := (hexec s).trans (recordCommand_oldest ha ho hk hf hc body)
    refine ⟨fun ht => ?_, fun ht hp => ?_⟩
    · rw [executeRecord_torn ht] at hexec
      exact only_answers hexec (resultOf_word hf _)
    · rw [executeRecord_notActive ht hp] at hexec
      exact only_answers hexec (resultOf_word hf _)
  case flags =>
    have hexec := flagWrite_oldest ha ho hk hf
    refine ⟨fun ht => ?_, fun ht hp => ?_⟩
    · rw [executeRecord_torn ht] at hexec
      exact only_answers hexec (resultOf_flagWord hf _)
    · rw [executeRecord_notActive ht hp] at hexec
      exact only_answers hexec (resultOf_flagWord hf _)
  case part =>
    obtain ⟨allowed, body, hexec, hrefused⟩ := partRow_of_mem hrow
    have hexec := (hexec s).trans (partCommand_oldest ha ho hk hf hc allowed body)
    refine ⟨fun ht => ?_, fun ht hp => ?_⟩
    · rw [executePart_torn ht] at hexec
      exact only_answers hexec (resultOf_word hf _)
    · rw [executePart_notActive ht (hrefused _ hp)] at hexec
      exact only_answers hexec (resultOf_word hf _)
  case unknown =>
    have hunknown : e.known = false := by
      refine e.known_eq_false hf (hcode.imp_right fun h => ?_)
      rcases h with ⟨hk, h⟩ | ⟨hk, h⟩ | ⟨hk, h⟩ | ⟨hk, h⟩ <;> rw [hk] <;> exact h
    exact only_answers (unknownCommand_oldest ha ho hunknown) (resultOf_word hf _)

/-- Settles O57: every table, list and count of the cold state is empty or at its cold value. -/
theorem resetMeetsTheInvariants : Obligations.ResetMeetsTheInvariants := by
  refine ⟨?canonical, ?capacity, ?workList, ?clock, ?loading, ?skills, ?passCount⟩
  case canonical => unfold Canonical; decide
  case capacity => unfold WithinCapacity; decide
  case workList => exact List.nodup_nil
  case clock => unfold ClockInRange; decide
  case loading =>
    refine ⟨fun w hw => ?_, fun b hb => ?_⟩
    · cases hw
    · cases hb
  case skills => exact fun _ => rfl
  case passCount => exact fun _ => rfl

end Sys2Proof.Machine
end

section
/-! SUPPORT. The windows of the memory path: the kind of word each address names in every part state, and the validation of a
configuration by its windows, rings and tags (09 R144, R152, R167, R168). -/

namespace Sys2Proof.Machine

/-! ### The regions of the anchor window (R167) -/

section
variable {w q : Nat}

theorem anchorClass_config (h : w < 64) : anchorClass (4 * w) = .configWord w := by
  unfold anchorClass
  rw [if_pos (by omega), show 4 * w / 4 = w by omega]

theorem anchorClass_status (h : w < 16) : anchorClass (0x140 + 4 * w) = .statusWord w := by
  unfold anchorClass
  rw [if_neg (by omega), if_neg (by omega), if_neg (by omega), if_pos (by omega),
    show (0x140 + 4 * w - 0x140) / 4 = w by omega]

theorem anchorClass_event (h : w < 4) : anchorClass (0x180 + 4 * w) = .eventWord w := by
  unfold anchorClass
  rw [if_neg (by omega), if_neg (by omega), if_neg (by omega), if_neg (by omega), if_pos (by omega),
    show (0x180 + 4 * w - 0x180) / 4 = w by omega]

theorem anchorClass_segment (h : w < 1024) : anchorClass (0x1000 + 4 * w) = .segmentWord w := by
  unfold anchorClass
  rw [if_neg (by omega), if_neg (by omega), if_neg (by omega), if_neg (by omega), if_neg (by omega), if_neg (by omega),
    if_pos (by omega), show (0x1000 + 4 * w - 0x1000) / 4 = w by omega]

theorem anchorClass_queue (hq : q < 64) (hw : w < 32) : anchorClass (0x2000 + 128 * q + 4 * w) = queueClass q w := by
  unfold anchorClass
  rw [if_neg (by omega), if_neg (by omega), if_neg (by omega), if_neg (by omega), if_neg (by omega), if_neg (by omega),
    if_neg (by omega), if_pos (by omega), show (0x2000 + 128 * q + 4 * w - 0x2000) / 128 = q by omega,
    show (0x2000 + 128 * q + 4 * w - 0x2000) % 128 / 4 = w by omega]

theorem anchorClass_program (h : w < 4096) : anchorClass (0x4000 + 4 * w) = .programWord w := by
  unfold anchorClass
  rw [if_neg (by omega), if_neg (by omega), if_neg (by omega), if_neg (by omega), if_neg (by omega), if_neg (by omega),
    if_neg (by omega), if_neg (by omega), if_pos (by omega), show (0x4000 + 4 * w - 0x4000) / 4 = w by omega]

/-- Between its regions the anchor window names no word of the part's. -/
theorem anchorClass_outside {o : Nat} (h : 0x104 ≤ o ∧ o < 0x140 ∨ 0x190 ≤ o ∧ o < 0x1000 ∨ 0x8000 ≤ o) :
    anchorClass o = .outside := by
  unfold anchorClass
  rcases h with ⟨hlow, hhigh⟩ | ⟨hlow, hhigh⟩ | h
  · rw [if_neg (by omega), if_neg (by omega), if_pos hhigh]
  · rw [if_neg (by omega), if_neg (by omega), if_neg (by omega), if_neg (by omega), if_neg (by omega), if_pos hhigh]
  · rw [if_neg (by omega), if_neg (by omega), if_neg (by omega), if_neg (by omega), if_neg (by omega), if_neg (by omega),
      if_neg (by omega), if_neg (by omega), if_neg (by omega)]

/-- A queue record's command word stands among its host-owned words (R168). -/
theorem queueClass_eq (q w : Nat) :
    queueClass q w = if w = 8 then .queueCommand q else if w < 16 then .queueHost q w else .queuePart q w := by
  unfold queueClass
  by_cases hlow : w < 8
  · rw [if_pos hlow, if_neg (by omega), if_pos (by omega)]
  · rw [if_neg hlow]

end

/-! ### The windows outside the anchor (R144) -/

section
variable {s : State} {a : Word} {o : Nat}

/-- An address is in a window of a base and a size. -/
def InWindow (base size a : Nat) : Prop := base ≤ a ∧ a < base + size

theorem offsetWatched_at {watched : Bool} {base : Word} {size : Nat} (hw : watched = true) (h : a.toNat = base.toNat + o)
    (ho : o < size) : offsetWatched watched base size a = some o := by
  rw [offsetWatched_in hw (by omega) (by omega)]
  exact congrArg some (by omega)

variable (hanchor : ¬ InWindow (anchorBase s.path.straps) 0x10000 a.toNat)
include hanchor

theorem classify_offAnchor : s.classify a =
    wordClass none (offsetWatched s.tablesWatched s.part.config.callBase 0x20000 a)
      (offsetWatched s.tablesWatched s.part.config.agentBase 0x10000 a)
      (offsetWatched (decide (s.part.state = .active)) s.part.config.channelBase 0x10000 a) := by
  unfold State.classify
  rw [offsetIn_out hanchor]

theorem classify_calls (hw : s.tablesWatched = true) (h : a.toNat = s.part.config.callBase.toNat + o) (ho : o < 0x20000) :
    s.classify a = callClass (o / 64) (o % 64 / 4) := by
  rw [classify_offAnchor hanchor, offsetWatched_at hw h ho]
  rfl

theorem classify_unwatched (hw : s.tablesWatched = false) : s.classify a = .outside := by
  have hidle : decide (s.part.state = .active) = false := by
    unfold State.tablesWatched at hw
    exact (Bool.or_eq_false_iff.1 hw).1
  rw [classify_offAnchor hanchor, offsetWatched_out (.inl hw), offsetWatched_out (.inl hw), offsetWatched_out (.inl hidle)]
  rfl

variable (hcalls : ¬ InWindow s.part.config.callBase.toNat 0x20000 a.toNat)
include hcalls

theorem classify_agents (hw : s.tablesWatched = true) (h : a.toNat = s.part.config.agentBase.toNat + o)
    (ho : o < 0x10000) : s.classify a = agentClass (o / 64) (o % 64 / 4) := by
  rw [classify_offAnchor hanchor, offsetWatched_out (.inr hcalls), offsetWatched_at hw h ho]
  rfl

variable (hagents : ¬ InWindow s.part.config.agentBase.toNat 0x10000 a.toNat)
include hagents

theorem classify_channels (hactive : s.part.state = .active) (h : a.toNat = s.part.config.channelBase.toNat + o)
    (ho : o < 0x10000) : s.classify a = .channel (o / 32) := by
  rw [classify_offAnchor hanchor, offsetWatched_out (.inr hcalls), offsetWatched_out (.inr hagents),
    offsetWatched_at (decide_eq_true hactive) h ho]
  rfl

theorem classify_outside
    (h : s.part.state ≠ .active ∨ ¬ InWindow s.part.config.channelBase.toNat 0x10000 a.toNat) :
    s.classify a = .outside := by
  rw [classify_offAnchor hanchor, offsetWatched_out (.inr hcalls), offsetWatched_out (.inr hagents),
    offsetWatched_out (h.imp_left decide_eq_false)]
  rfl

end

/-- Settles O27: the anchor's regions by offset, then the other windows in the order they are looked at. -/
theorem addressesNameTheirWords : Obligations.AddressesNameTheirWords := by
  intro s a anchor inAnchor watched inCalls inAgents inChannels
  have hwatched : s.tablesWatched = true ↔ watched := tablesWatched_iff s
  have region {o : Nat} {c : WordClass} (hc : anchorClass o = c) (h : a.toNat = anchor + o) (ho : o < 0x10000) :
      s.classify a = c := (s.classify_anchor a o h ho).trans hc
  refine ⟨fun w hw h => region (anchorClass_config hw) h (by omega), fun h => region (o := 0x100) rfl h (by decide),
    fun w hw h => region (anchorClass_status hw) (h.trans (Nat.add_assoc ..)) (by omega),
    fun w hw h => region (anchorClass_event hw) (h.trans (Nat.add_assoc ..)) (by omega),
    fun w hw h => region (anchorClass_segment hw) (h.trans (Nat.add_assoc ..)) (by omega),
    fun q hq w hw h => region ((anchorClass_queue hq hw).trans (queueClass_eq q w))
      (h.trans ((congrArg (· + 4 * w) (Nat.add_assoc ..)).trans (Nat.add_assoc ..))) (by omega),
    fun w hw h => region (anchorClass_program hw) (h.trans (Nat.add_assoc ..)) (by omega),
    fun o ho h => region (anchorClass_outside (by omega)) h (by omega),
    fun c hc w hw ha ht h => ?calls, fun g hg w hw ha hn ht h => ?agents, fun ch hch w hw ha hn hg hactive h => ?channels,
    fun ha ht => ?unwatched, fun ha hn hg h => classify_outside ha hn hg h⟩
  case calls =>
    rw [classify_calls (o := 64 * c + 4 * w) ha (hwatched.2 ht) (by omega) (by omega),
      show (64 * c + 4 * w) / 64 = c by omega, show (64 * c + 4 * w) % 64 / 4 = w by omega]
    rfl
  case agents =>
    rw [classify_agents (o := 64 * g + 4 * w) ha hn (hwatched.2 ht) (by omega) (by omega),
      show (64 * g + 4 * w) / 64 = g by omega, show (64 * g + 4 * w) % 64 / 4 = w by omega]
    rfl
  case channels =>
    rw [classify_channels (o := 32 * ch + 4 * w) ha hn hg hactive (by omega) (by omega),
      show (32 * ch + 4 * w) / 32 = ch by omega]
  case unwatched => exact classify_unwatched ha (Bool.eq_false_iff.2 (mt hwatched.1 ht))

/-! ### Ranges that share an address (R152) -/

/-- Two ranges that are not empty overlap exactly when they share an address. -/
theorem overlap_iff {x y : Nat × Nat} (hx : 0 < x.2) (hy : 0 < y.2) :
    overlap x y = true ↔ ∃ a, InWindow x.1 x.2 a ∧ InWindow y.1 y.2 a := by
  unfold overlap InWindow
  rw [Bool.and_eq_true, decide_eq_true_eq, decide_eq_true_eq]
  constructor
  · intro ⟨hxy, hyx⟩
    exact ⟨max x.1 y.1, by omega, by omega⟩
  · rintro ⟨a, hax, hay⟩
    omega

/-- Some two places of a list of ranges share an address. -/
def Shared (l : List (Nat × Nat)) : Prop :=
  ∃ (v w : Nat) (x y : Nat × Nat) (a : Nat), v ≠ w ∧ l[v]? = some x ∧ l[w]? = some y ∧ InWindow x.1 x.2 a ∧
    InWindow y.1 y.2 a

theorem shared_cons {x : Nat × Nat} {l : List (Nat × Nat)} :
    Shared (x :: l) ↔ (∃ y ∈ l, ∃ a, InWindow x.1 x.2 a ∧ InWindow y.1 y.2 a) ∨ Shared l := by
  constructor
  · rintro ⟨v, w, u, y, a, hvw, hv, hw, hu, hy⟩
    cases v with
    | zero =>
      cases w with
      | zero => exact absurd rfl hvw
      | succ w =>
        cases hv
        exact .inl ⟨y, List.mem_of_getElem? hw, a, hu, hy⟩
    | succ v =>
      cases w with
      | zero =>
        cases hw
        exact .inl ⟨u, List.mem_of_getElem? hv, a, hy, hu⟩
      | succ w => exact .inr ⟨v, w, u, y, a, fun h => hvw (congrArg _ h), hv, hw, hu, hy⟩
  · rintro (⟨y, hy, a, hxa, hya⟩ | ⟨v, w, u, y, a, hvw, hv, hw, hu, hy⟩)
    · obtain ⟨w, hw⟩ := List.mem_iff_getElem?.1 hy
      exact ⟨0, w + 1, x, y, a, (Nat.succ_ne_zero w).symm, rfl, hw, hxa, hya⟩
    · exact ⟨v + 1, w + 1, u, y, a, fun h => hvw (Nat.succ.inj h), hv, hw, hu, hy⟩

theorem anyOverlap_iff {l : List (Nat × Nat)} (h : ∀ x ∈ l, 0 < x.2) : anyOverlap l = true ↔ Shared l := by
  induction l with
  | nil =>
    refine ⟨nofun, ?_⟩
    rintro ⟨v, w, x, y, a, hvw, hv, -⟩
    cases hv
  | cons x l ih =>
    obtain ⟨hx, hl⟩ := List.forall_mem_cons.1 h
    unfold anyOverlap
    rw [Bool.or_eq_true, List.any_eq_true, ih hl, shared_cons]
    refine or_congr_left (exists_congr fun y => and_congr_right fun hy => ?_)
    exact overlap_iff hx (hl y hy)

/-! ### The configuration's windows and rings (R144, R152) -/

theorem windows_sized (straps : BitVec 4) (c : PartConfig) : ∀ x ∈ windows straps c, 0 < x.2 := by
  simp [windows]

/-- A ring that fails R152's conditions, against a list of windows. -/
def FeedConfig.RingFails (f : FeedConfig) (ws : List (Nat × Nat)) : Prop :=
  f.ringStart.toNat % 4 ≠ 0 ∨ f.ringEnd.toNat % 4 ≠ 0 ∨ f.ringEnd.toNat ≤ f.ringStart.toNat ∨
    f.ringEnd.toNat - f.ringStart.toNat < 1024 ∨ 1048576 < f.ringEnd.toNat - f.ringStart.toNat ∨
    ∃ x ∈ ws, ∃ a, InWindow x.1 x.2 a ∧ f.ringStart.toNat ≤ a ∧ a < f.ringEnd.toNat

theorem FeedConfig.ringValid_eq_false {f : FeedConfig} {ws : List (Nat × Nat)} (hws : ∀ x ∈ ws, 0 < x.2) :
    f.ringValid ws = false ↔ f.RingFails ws := by
  by_cases hr : f.ringStart.toNat < f.ringEnd.toNat
  · have hmeets : (ws.any fun x => overlap x (f.ringStart.toNat, f.size)) = true ↔
        ∃ x ∈ ws, ∃ a, InWindow x.1 x.2 a ∧ f.ringStart.toNat ≤ a ∧ a < f.ringEnd.toNat := by
      rw [List.any_eq_true]
      refine exists_congr fun x => and_congr_right fun hx => ?_
      rw [overlap_iff (hws x hx) (Nat.sub_pos_of_lt hr)]
      unfold InWindow FeedConfig.size
      rw [Nat.add_sub_cancel' (Nat.le_of_lt hr)]
    unfold RingFails ringValid
    rw [← hmeets]
    rw [← List.not_any_eq_all_not]
    generalize (ws.any fun x => overlap x (f.ringStart.toNat, f.size)) = meets
    unfold FeedConfig.size
    cases meets with
    | false => simp [hr]; omega
    | true => simp
  · unfold RingFails ringValid
    simp [hr]
    omega

/-! ### The first failure (R152) -/

section
variable (straps : BitVec 4) (c : PartConfig)

/-- The four windows by number: the anchor, the calls, the agents, the channels (R144). -/
theorem window_iff (w a : Nat) :
    (w = 0 ∧ anchorBase straps ≤ a ∧ a < anchorBase straps + 0x10000 ∨
      w = 1 ∧ c.callBase.toNat ≤ a ∧ a < c.callBase.toNat + 0x20000 ∨
      w = 2 ∧ c.agentBase.toNat ≤ a ∧ a < c.agentBase.toNat + 0x10000 ∨
      w = 3 ∧ c.channelBase.toNat ≤ a ∧ a < c.channelBase.toNat + 0x10000) ↔
      ∃ x, (windows straps c)[w]? = some x ∧ InWindow x.1 x.2 a := by
  unfold windows InWindow
  match w with
  | 0 | 1 | 2 | 3 => simp
  | w + 4 => simp

theorem windowsAligned_iff : windowsAligned c = true ↔
    c.callBase.toNat % 0x20000 = 0 ∧ c.agentBase.toNat % 0x10000 = 0 ∧ c.channelBase.toNat % 0x10000 = 0 := by
  unfold windowsAligned
  simp [and_assoc]

/-- The enabled feeds of a configuration. -/
theorem mem_enabled {f : FeedConfig} : f ∈ c.feeds.filter (·.enable) ↔ f ∈ c.feeds ∧ f.enable = true := List.mem_filter

/-- An enabled feed's ring fails. -/
theorem rings_eq_false : ((c.feeds.filter (·.enable)).all fun f => f.ringValid (windows straps c)) = false ↔
    ∃ f ∈ c.feeds, f.enable = true ∧ f.RingFails (windows straps c) := by
  rw [List.all_eq_false]
  refine exists_congr fun f => ?_
  rw [mem_enabled, Bool.not_eq_true, FeedConfig.ringValid_eq_false (windows_sized straps c), and_assoc]

theorem tags_iff : ((c.feeds.filter (·.enable)).any fun f => f.tag == c.voiceTag) = true ↔
    ∃ f ∈ c.feeds, f.enable = true ∧ f.tag = c.voiceTag := by
  rw [List.any_eq_true]
  refine exists_congr fun f => ?_
  rw [mem_enabled, beq_iff_eq, and_assoc]

/-- The answers of the validation, by what its four checks find. -/
theorem validate_answers {aligned shared rings tags : Prop} (ha : windowsAligned c = true ↔ aligned)
    (hs : anyOverlap (windows straps c) = true ↔ shared)
    (hr : ((c.feeds.filter (·.enable)).all fun f => f.ringValid (windows straps c)) = false ↔ rings)
    (ht : ((c.feeds.filter (·.enable)).any fun f => f.tag == c.voiceTag) = true ↔ tags) :
    (validate straps c = .windowAlign ↔ ¬ aligned) ∧
    (validate straps c = .windowOverlap ↔ aligned ∧ shared) ∧
    (validate straps c = .feedRing ↔ aligned ∧ ¬ shared ∧ rings) ∧
    (validate straps c = .tagClash ↔ aligned ∧ ¬ shared ∧ ¬ rings ∧ tags) ∧
    (validate straps c = .none ↔ aligned ∧ ¬ shared ∧ ¬ rings ∧ ¬ tags) := by
  by_cases haligned : aligned
  · have hwindows := ha.2 haligned
    by_cases hshared : shared
    · simp [validate, hwindows, hs.2 hshared, haligned, hshared]
    · have happart := Bool.eq_false_iff.2 (mt hs.1 hshared)
      by_cases hrings : rings
      · simp only [validate, hwindows, happart, hr.2 hrings]
        simp [haligned, hshared, hrings]
      · have hvalid := Bool.of_not_eq_false (mt hr.1 hrings)
        by_cases htags : tags
        · simp only [validate, hwindows, happart, hvalid, ht.2 htags]
          simp [haligned, hshared, hrings, htags]
        · simp only [validate, hwindows, happart, hvalid, Bool.eq_false_iff.2 (mt ht.1 htags)]
          simp [haligned, hshared, hrings, htags]
  · simp [validate, Bool.eq_false_iff.2 (mt ha.1 haligned), haligned]

end

/-- Settles O22: each check by what it finds, then the answers in the order of the checks. -/
theorem validationFindsTheFirstFailure : Obligations.ValidationFindsTheFirstFailure := by
  intro straps c anchor inWindow aligned shared badRing ringFails tagFails
  have hwindow (w a : Nat) : inWindow w a ↔ ∃ x, (windows straps c)[w]? = some x ∧ InWindow x.1 x.2 a :=
    window_iff straps c w a
  have haligned : windowsAligned c = true ↔ aligned := windowsAligned_iff c
  have hshared : anyOverlap (windows straps c) = true ↔ shared := by
    rw [anyOverlap_iff (windows_sized straps c)]
    simp only [shared, hwindow]
    constructor
    · rintro ⟨v, w, x, y, a, hvw, hv, hw, hx, hy⟩
      exact ⟨v, w, a, hvw, ⟨x, hv, hx⟩, ⟨y, hw, hy⟩⟩
    · rintro ⟨v, w, a, hvw, ⟨x, hv, hx⟩, ⟨y, hw, hy⟩⟩
      exact ⟨v, w, x, y, a, hvw, hv, hw, hx, hy⟩
  have hmeets (f : FeedConfig) : (∃ w a, inWindow w a ∧ f.ringStart.toNat ≤ a ∧ a < f.ringEnd.toNat) ↔
      ∃ x ∈ windows straps c, ∃ a, InWindow x.1 x.2 a ∧ f.ringStart.toNat ≤ a ∧ a < f.ringEnd.toNat := by
    simp only [hwindow]
    constructor
    · rintro ⟨w, a, ⟨x, hw, hx⟩, ha⟩
      exact ⟨x, List.mem_of_getElem? hw, a, hx, ha⟩
    · rintro ⟨x, hx, a, ha, hring⟩
      obtain ⟨w, hw⟩ := List.mem_iff_getElem?.1 hx
      exact ⟨w, a, ⟨x, hw, ha⟩, hring⟩
  have hrings : ((c.feeds.filter (·.enable)).all fun f => f.ringValid (windows straps c)) = false ↔ ringFails := by
    rw [rings_eq_false]
    simp only [ringFails, badRing, hmeets]
    rfl
  have htags : ((c.feeds.filter (·.enable)).any fun f => f.tag == c.voiceTag) = true ↔ tagFails := tags_iff c
  exact validate_answers straps c haligned hshared hrings htags

end Sys2Proof.Machine
end

section
/-! SUPPORT. The loading reads: the grant of the next burst and the order of the records, the end of a RESTART's
configuration read, and the response that fails a LOADING (09 R152 to R156). -/

namespace Sys2Proof.Machine

variable {s : State}

/-! ### The grant (R153, R155) -/

/-- A table in its canonical form lists each record under the index it is read at. -/
theorem requests_listed (hc : Canonical s) (h : ∀ k, s.requests (s.context k) = false) :
    ∀ e ∈ s.playout.contexts, s.requests e.2 = false := by
  obtain ⟨-, -, -, -, hcontexts, -⟩ := hc
  intro e he
  have hread : s.context e.1 = e.2 := Table.read_mem _ hcontexts he
  rw [← hread]
  exact h e.1

theorem fetchServable_eq_false (hc : Canonical s)
    (h : s.playout.fetch ≠ none ∨ ∀ k, s.requests (s.context k) = false) : s.fetchServable = false := by
  unfold State.fetchServable
  rcases h with h | h
  · rw [Option.isNone_eq_false_iff.2 (Option.isSome_iff_ne_none.2 h), Bool.false_and]
  · rw [List.any_eq_false.2 fun e he => Bool.not_eq_true _ ▸ requests_listed hc h e he, Bool.and_false]

/-- The grant issues the burst when the read can be served and the slot is the part's own. -/
theorem exec_loadingReadGrant {w : LoadWord} {n : Nat} (ha : s.path.resetAsserted = false)
    (hl : s.part.state = .loading) (hb : s.part.burst = none) (hw : s.part.cursor = some w) (h1 : 1 ≤ n) (h4 : n ≤ 4)
    (hf : s.fetchServable = false) (hturn : s.path.forward = [] ∨ 8 ≤ s.path.passCount) :
    exec (.loadingReadGrant n) s = .next (s.issueLoad w n).settle := by
  have hserves : (s.loadServable && !s.fetchServable && s.ownTurn && decide (1 ≤ n) && decide (n ≤ 4)) = true := by
    unfold State.loadServable State.ownTurn Config.passLimit
    simp [hl, hb, hw, hf, h1, h4, List.isEmpty_iff, hturn]
  show execLoadingReadGrant n s = _
  unfold execLoadingReadGrant
  rw [event_awake _ ha, if_pos hserves]
  simp only [hw]

theorem changes_issueLoad (w : LoadWord) (n : Nat) : Changes [.loading, .port, .passCount] s (s.issueLoad w n) := by
  constructor
  intro k hk
  cases k <;> simp_all [Component.agree, State.issueLoad]

/-! ### The order of the reads (R153) -/

section
variable {w : LoadWord}

/-- Where a read goes on once the run of words it is in ends. -/
def LoadWord.next (w : LoadWord) : Option LoadWord :=
  match w.table with
  | .config => none
  | .queue =>
    if w.word < 8 then some { w with word := 9 }
    else if w.index + 1 < 64 then some { table := .queue, index := w.index + 1, word := 0 }
    else some { table := .agent, index := 0, word := 0 }
  | .agent =>
    if w.index + 1 < 1024 then some { table := .agent, index := w.index + 1, word := 0 }
    else some { table := .call, index := 0, word := 0 }
  | .call => if w.index + 1 < 2048 then some { table := .call, index := w.index + 1, word := 0 } else none

/-- A burst of at most its run's words goes on within the run, or leaves it at its end. -/
theorem LoadWord.after_eq (h : w.Owned) {n : Nat} (hn : n ≤ w.run) :
    w.after n = if n < w.run then some { w with word := w.word + n } else w.next := by
  obtain ⟨table, index, word⟩ := w
  unfold LoadWord.after LoadWord.run LoadWord.next at *
  cases table <;> simp only [LoadWord.Owned, Config.numQueues, Config.numAgents, Config.numCalls] at h hn ⊢
  case config => exact ite_of_iff (by omega) fun _ => rfl
  case agent => exact ite_of_iff (by omega) fun _ => rfl
  case call => exact ite_of_iff (by omega) fun _ => rfl
  case queue =>
    by_cases hlow : word < 8
    · simp only [if_pos hlow] at hn ⊢
      by_cases hmore : n < 8 - word
      · rw [if_pos hmore, if_neg (by omega), if_pos (by omega)]
      · rw [if_neg hmore, if_pos (by omega)]
    · simp only [if_neg hlow] at hn ⊢
      rw [if_neg (by omega)]
      exact ite_of_iff (by omega) fun _ => rfl

theorem loadAddress_config (h : w.table = .config) :
    s.loadAddress w = BitVec.ofNat 32 (anchorBase s.path.straps + 4 * w.word) := by
  rw [BitVec.ofNat_add]
  unfold State.loadAddress
  rw [h]

theorem loadAddress_queue (h : w.table = .queue) :
    s.loadAddress w = BitVec.ofNat 32 (anchorBase s.path.straps + 0x2000 + 128 * w.index + 4 * w.word) := by
  rw [Nat.add_assoc, Nat.add_assoc, ← Nat.add_assoc 0x2000, BitVec.ofNat_add]
  unfold State.loadAddress
  rw [h]

theorem loadAddress_agent (h : w.table = .agent) :
    s.loadAddress w = BitVec.ofNat 32 (s.part.config.agentBase.toNat + 64 * w.index + 4 * w.word) := by
  rw [Nat.add_assoc, BitVec.ofNat_add, BitVec.ofNat_toNat, BitVec.setWidth_eq]
  unfold State.loadAddress
  rw [h]

theorem loadAddress_call (h : w.table = .call) :
    s.loadAddress w = BitVec.ofNat 32 (s.part.config.callBase.toNat + 64 * w.index + 4 * w.word) := by
  rw [Nat.add_assoc, BitVec.ofNat_add, BitVec.ofNat_toNat, BitVec.setWidth_eq]
  unfold State.loadAddress
  rw [h]

end

/-- What a grant leaves: the burst, the word to ask for next, and the slot (R153, R155). -/
structure Granted (s t : State) (w : LoadWord) (n : Nat) (address : Word) : Prop where
  part : t.part =
    { s.part with
      burst := some { first := w, beats := n, hostWrote := s.path.forward.filterMap (pendingWrite address w.word n) }
      cursor := if n < w.run then some { w with word := w.word + n } else w.next }
  port : t.path.port = .load address n
  count : t.path.passCount = 0
  frame : Changes [.loading, .port, .passCount] s t

theorem granted_issueLoad {w : LoadWord} (h : w.Owned) (n : Nat) :
    Granted s (s.issueLoad w n).settle w (min n w.run) (s.loadAddress w) where
  part := by
    rw [State.part_settle, ← LoadWord.after_eq h (Nat.min_le_right ..)]
    rfl
  port := by rw [State.port_settle]; rfl
  count := passCount_settle rfl
  frame := frame_settle (changes_issueLoad w n) (by simp)

/-- Settles O52: the grant, and by the word's table its address, its run and what follows it. -/
theorem loadingReadsGoRecordByRecord : Obligations.LoadingReadsGoRecordByRecord := by
  intro s w n hcanonical ha hl hb hw h1 h4 hrequests hturn anchor grants
  have hexec := exec_loadingReadGrant ha hl hb hw h1 h4 (fetchServable_eq_false hcanonical hrequests) hturn
  have issues {run address : Nat} {later : Option LoadWord} (ho : w.Owned) (hr : w.run = run)
      (haddress : s.loadAddress w = BitVec.ofNat 32 address) (hn : w.next = later) : grants run address later := by
    subst hr hn
    obtain ⟨hpart, hport, hcount, hframe⟩ := granted_issueLoad (s := s) ho n
    rw [haddress] at hpart hport
    exact ⟨_, hexec, hpart, hport, hcount, hframe⟩
  obtain ⟨table, index, word⟩ := w
  refine ⟨?config, ?queueLow, ?queueHigh, ?agent, ?call⟩
  case config =>
    rintro rfl ho
    exact issues ho rfl (loadAddress_config rfl) rfl
  case queueLow =>
    rintro rfl ho hlow
    exact issues ho (if_pos hlow) (loadAddress_queue rfl) (if_pos hlow)
  case queueHigh =>
    rintro rfl ho hhigh
    have hnot : ¬ word < 8 := Nat.not_lt.2 (Nat.le_of_lt hhigh)
    exact issues ho (if_neg hnot) (loadAddress_queue rfl) (if_neg hnot)
  case agent =>
    rintro rfl ho
    exact issues ho rfl (loadAddress_agent rfl) rfl
  case call =>
    rintro rfl ho
    exact issues ho rfl (loadAddress_call rfl) rfl

/-! ### The end of a configuration read, and a failed read (R152, R154, R156) -/

section
variable {b : LoadBurst} (ha : s.path.resetAsserted = false) (hd : s.part.discard = 0) (hb : s.part.burst = some b)
include ha hd hb

/-- The last data of a configuration read is taken, latched, and the RESTART answered as the latch ends (R152). -/
theorem exec_configReadDone {data : List Word} {token : Byte} {r : ResultCode} {u : State} (hl : data.length = b.beats)
    (hends : b.endsConfig = true) (htoken : s.part.restartToken = some token)
    (hlatch : (s.takeLoad b data).latchConfig = (r, u)) : exec (.configReadDone data) s =
      .next (u.setPartResult { code := 3, token := token, result := r }).settle := by
  show execConfigReadDone data s = _
  unfold execConfigReadDone
  rw [event_awake _ ha]
  simp [hd, hb, hl, hends, htoken, hlatch, State.answerRestart]

/-- The part with no loading read outstanding. -/
def State.unread (s : State) : State := { s with part := { s.part with burst := none } }

theorem exec_loadFault : exec .loadFault s =
    .next ((s.unread.failLoading .loadFault).answerRestart s.part.restartToken .configError).settle := by
  show execLoadFault s = _
  unfold execLoadFault
  rw [event_awake _ ha]
  simp [hd, hb, State.unread]

end

theorem changes_unread (s : State) : Changes [.loading] s s.unread := by
  constructor
  intro k hk
  cases k <;> simp_all [Component.agree, State.unread]

/-- A RESTART still to be answered has its result, and nothing else follows from its answer (R152). -/
theorem part_answerRestart (s : State) (token : Option Byte) (r : ResultCode) : (s.answerRestart token r).part =
    { s.part with
      result :=
        match token with
        | none => s.part.result
        | some token => { code := 3, token := token, result := r } } := by
  cases token <;> rfl

theorem changes_answerRestart (s : State) (token : Option Byte) (r : ResultCode) :
    Changes [.partResult] s (s.answerRestart token r) := by
  cases token with
  | none => exact .refl ..
  | some token => exact changes_setPartResult ..

section
variable {u : State} (hpart : u.part = { s.part with burst := none }) (r : CommandResult)
include hpart

theorem part_configRead : (u.configLatched.setPartResult r).settle.part =
    { s.part with
      state := .loading, error := .none, config := configOf u.staging.configWords, phase := .records
      cursor := some { table := .queue, index := 0, word := 0 }, burst := none, restartToken := none, result := r } := by
  rw [State.part_settle]
  show { u.part with
    state := .loading, error := .none, config := configOf u.staging.configWords, phase := .records
    cursor := some { table := .queue, index := 0, word := 0 }, restartToken := none, result := r } = _
  rw [hpart]

/-- With no read outstanding a failure has no data to discard (R154). -/
theorem part_configRead_fails (err : ConfigError) :
    ((u.configLatched.failLoading err).setPartResult r).settle.part =
      { s.part with
        state := .pass, error := err, config := configOf u.staging.configWords, phase := .none, cursor := none
        burst := none, restartToken := none, result := r } := by
  have hburst : u.configLatched.part.burst = none := by
    show u.part.burst = none
    rw [hpart]
  rw [State.part_settle]
  show { u.configLatched.part.abandon with state := .pass, error := err, result := r } = _
  unfold PartControl.abandon
  rw [hburst]
  show { u.part with
    state := .pass, error := err, config := configOf u.staging.configWords, phase := .none, cursor := none
    burst := none, restartToken := none, result := r } = _
  rw [hpart]

end

section
variable {u : State} (htaken : Changes [.staging, .loading] s u) (r : CommandResult)
include htaken

/-- From data taken, a valid configuration latched and answered (R152). -/
theorem changes_configRead : Changes [.staging, .partState, .configError, .config, .partResult, .loading, .passCount] s
    (u.configLatched.setPartResult r).settle :=
  ((htaken.mono (by simp)).into changes_configLatched (by simp [latching])).into (changes_answered ..) (by simp)

variable (err : ConfigError)

/-- From data taken, an invalid configuration latched, the LOADING failed, and the RESTART answered (R152, R154). -/
theorem changes_configRead_fails :
    Changes ([.staging, .partState, .configError, .config, .partResult, .loading, .passCount] ++ liveState) s
      ((u.configLatched.failLoading err).setPartResult r).settle :=
  (((htaken.mono (by simp)).into changes_configLatched (by simp [latching])).into (changes_failLoading err)
    (by simp +contextual [latching])).into (changes_answered ..) (by simp)

theorem liveDropped_configRead (hc : Canonical u) :
    LiveDropped s ((u.configLatched.failLoading err).setPartResult r).settle :=
  have hfailed := liveDropped_failLoading (canonical_part (s := u) _ hc : Canonical u.configLatched) err
  ((hfailed.before changes_configLatched (by decide)).before htaken (by decide)).after (changes_answered ..) (by decide)

theorem feedsOff_configRead (hc : Canonical u) : FeedsOff s ((u.configLatched.failLoading err).setPartResult r).settle :=
  have hfailed := feedsOff_failLoading (canonical_part (s := u) _ hc : Canonical u.configLatched) err
  ((hfailed.before rfl).before (htaken.keeps .feeds (by decide))).after ((changes_answered ..).keeps .feeds (by decide))

end

/-- A LOADING that fails keeps the configuration it had (R154). -/
theorem changes_failLoading_keepsConfig (err : ConfigError) :
    Changes ([.partState, .configError, .loading] ++ liveState) s (s.failLoading err) := by
  have hdropped : Changes liveState s s.dropLive := State.frame_dropLive s (.refl ..) fun _ h => h
  have hfailed : Changes [.partState, .configError, .loading] s.dropLive (s.failLoading err) := by
    constructor
    intro k hk
    cases k <;> simp_all [Component.agree, State.failLoading, PartControl.abandon]
  exact (hdropped.mono (List.subset_append_right ..)).into hfailed (by simp)

/-- Settles O54: the last data with a valid and with an invalid configuration, then an error response. -/
theorem configurationReadsEndOrFail : Obligations.ConfigurationReadsEndOrFail := by
  intro s b ha hd hb
  refine ⟨fun data token hl hwithin htable hlast htoken => ?done, fun hcanonical => ?fault⟩
  case done =>
    have hends := (LoadBurst.endsConfig_iff hwithin).2 ⟨htable, hlast⟩
    have hexec {r : ResultCode} {u : State} := exec_configReadDone (r := r) (u := u) ha hd hb hl hends htoken
    have hwords := s.wordsLoaded_takeLoad b data hl hwithin
    have htaken := changes_takeLoad s b data
    have hpart : (s.takeLoad b data).part = { s.part with burst := none } := rfl
    have hcanonical : Canonical s → Canonical (s.takeLoad b data) := canonical_takeLoad b data
    have hstraps : (s.takeLoad b data).path.straps = s.path.straps := rfl
    generalize s.takeLoad b data = u at hexec hwords htaken hpart hcanonical hstraps
    rw [← hstraps]
    by_cases hvalid : validate u.path.straps (configOf u.staging.configWords) = .none
    · have hstaging (r : CommandResult) : (u.configLatched.setPartResult r).settle.staging = u.staging :=
        State.staging_settle _
      refine ⟨_, hexec (latchConfig_valid hvalid), hwords.of_staging (hstaging _), ?_⟩
      rw [hstaging]
      refine ⟨fun _ => ⟨part_configRead hpart _, changes_configRead htaken _⟩, fun hinvalid => absurd hvalid hinvalid⟩
    · have hstaging (err : ConfigError) (r : CommandResult) :
          ((u.configLatched.failLoading err).setPartResult r).settle.staging = u.staging := State.staging_settle _
      refine ⟨_, hexec (latchConfig_invalid hvalid), hwords.of_staging (hstaging ..), ?_⟩
      rw [hstaging]
      refine ⟨fun hnone => absurd hnone hvalid, fun _ hc => ⟨part_configRead_fails hpart _ _,
        liveDropped_configRead htaken _ _ (hcanonical hc),
        feedsOff_configRead htaken _ _ (hcanonical hc), changes_configRead_fails htaken _ _⟩⟩
  case fault =>
    have hunread := changes_unread s
    have hc : Canonical s.unread := canonical_part _ hcanonical
    have hfailed := changes_failLoading_keepsConfig (s := s.unread) .loadFault
    have hrest := (changes_answerRestart (s.unread.failLoading .loadFault) s.part.restartToken .configError).append
      (changes_settle _)
    refine ⟨_, exec_loadFault ha hd hb, ?_, ?_, ?_, ?_⟩
    · rw [State.part_settle, part_answerRestart]
      rfl
    · exact ((liveDropped_failLoading hc _).before hunread (by decide)).after hrest (by decide)
    · exact ((feedsOff_failLoading hc _).before rfl).after (hrest.keeps .feeds (by decide))
    · exact ((hunread.mono (by simp)).into hfailed (by simp +contextual)).into hrest (by simp)

end Sys2Proof.Machine
end

section
/-! SUPPORT. Beats that wait on the upstream port: those held by a full intake and those behind them, and the front one
accepted (09 R149). -/

namespace Sys2Proof.Machine

variable {s : State} {i : Instr} {b : Beat}

/-! ### What a beat does is the same whatever waits behind it -/

/-- The state with a list of beats waiting on the upstream port. -/
def State.withWaiting (s : State) (l : List Beat) : State := { s with path := { s.path with waiting := l } }

theorem changes_withWaiting (s : State) (l : List Beat) : Changes [.waiting] s (s.withWaiting l) := by
  constructor
  intro k hk
  cases k <;> simp_all [Component.agree, State.withWaiting]

section
variable (s : State) (l : List Beat)

theorem ite_withWaiting (p : Prop) [Decidable p] (u v : State) :
    (if p then u else v).withWaiting l = if p then u.withWaiting l else v.withWaiting l :=
  apply_ite (State.withWaiting · l) ..

@[simp] theorem context_withWaiting (k : Nat) : (s.withWaiting l).context k = s.context k := rfl
@[simp] theorem feed_withWaiting (f : Nat) : (s.withWaiting l).feed f = s.feed f := rfl
@[simp] theorem segment_withWaiting (n : Nat) : (s.withWaiting l).segment n = s.segment n := rfl

theorem feeds_withWaiting : (s.withWaiting l).feeds = s.feeds := rfl
theorem classify_withWaiting (a : Word) : (s.withWaiting l).classify a = s.classify a := rfl
theorem forwardBeat_withWaiting (b : Beat) : (s.withWaiting l).forwardBeat b = (s.forwardBeat b).withWaiting l := rfl
theorem acceptRead_eq (s : State) (b : ReadBeat) : s.accept (.read b) = s.takeRead (s.classify b.address) b := rfl

theorem statusWord_withWaiting (w : Nat) : (s.withWaiting l).statusWord w = s.statusWord w := rfl

theorem settle_withWaiting : (s.withWaiting l).settle = s.settle.withWaiting l := by
  unfold State.settle
  rw [ite_withWaiting]
  rfl

theorem trackFeeds_withWaiting (b : WriteBeat) : (s.withWaiting l).trackFeeds b = (s.trackFeeds b).withWaiting l := by
  unfold State.trackFeeds
  generalize List.range Config.numFeeds = feeds
  induction feeds generalizing s with
  | nil => rfl
  | cons f feeds ih =>
    rw [List.foldl_cons, List.foldl_cons, ← ih, ite_withWaiting]
    rfl

theorem takeWrite_withWaiting (cls : WordClass) (b : WriteBeat) :
    (s.withWaiting l).takeWrite cls b = (s.takeWrite cls b).withWaiting l := by
  cases hc : cls.command with
  | some x =>
    obtain ⟨kind, id, flag⟩ := x
    rw [State.takeWrite_command hc, State.takeWrite_command hc]
    cases kind <;> rfl
  | none =>
    rw [State.takeWrite_staging hc, State.takeWrite_staging hc]
    cases cls.loadWord <;> rfl

theorem followFeed_withWaiting (k : Nat) : (s.withWaiting l).followFeed k = (s.followFeed k).withWaiting l := by
  unfold State.followFeed
  rw [ite_withWaiting]
  refine congrArg (fun u => if (s.context k).onFeed = true then u else s.withWaiting l) ?_
  dsimp only
  rw [context_withWaiting, feed_withWaiting, segment_withWaiting]
  cases decide ((s.feed (s.context k).step.feed).state = .live) <;> cases (s.context k).source <;> rfl

theorem voiceServed_withWaiting (k : Nat) (e : BitVec 4) :
    (s.withWaiting l).voiceServed k e = (s.voiceServed k e).withWaiting l := by
  unfold State.voiceServed
  dsimp only
  rw [ite_withWaiting]
  rfl

/-- A voice beat is answered from a running context (R125). -/
theorem running_voiceContext {tag : BitVec 2} {ch k : Nat} (h : s.voiceContext tag ch = some k) :
    (s.context k).state = .starting ∨ (s.context k).state = .playing := by
  unfold State.voiceContext at h
  split at h
  · cases hb : s.binding ch with
    | none => simp [hb] at h
    | some j =>
      simp only [hb] at h
      split at h
      · next hrun =>
        cases h
        cases hstate : (s.context k).state <;> simp [Context.running, hstate] at hrun ⊢
      · cases h
  · cases h

theorem voiceBeat_withWaiting {k : Nat} (h : (s.context k).state = .starting ∨ (s.context k).state = .playing)
    (e : BitVec 4) : (s.withWaiting l).voiceBeat k e = (s.voiceBeat k e).withWaiting l := by
  rcases h with h | h
  · rw [voiceBeat_starting h, voiceBeat_starting (s := s.withWaiting l) h]
    rfl
  · rw [voiceBeat_playing h, voiceBeat_playing (s := s.withWaiting l) h, ite_withWaiting, voiceServed_withWaiting,
      followFeed_withWaiting, context_withWaiting]

theorem takeRead_withWaiting (cls : WordClass) (b : ReadBeat) :
    (s.withWaiting l).takeRead cls b = (s.takeRead cls b).withWaiting l := by
  unfold State.takeRead
  cases cls with
  | callPart id w => exact (ite_withWaiting l _ (s.answerRead (s.callWord id w)) (s.forwardBeat (.read b))).symm
  | agentPart id w => exact (ite_withWaiting l _ (s.answerRead (s.agentWord id w)) (s.forwardBeat (.read b))).symm
  | eventWord w =>
    show (s.withWaiting l).readEvent w = (s.readEvent w).withWaiting l
    unfold State.readEvent
    rw [ite_withWaiting]
    rfl
  | channel id =>
    have hcontext : (s.withWaiting l).voiceContext b.tag id = s.voiceContext b.tag id := rfl
    dsimp only
    rw [hcontext]
    cases hvoice : s.voiceContext b.tag id with
    | none => rfl
    | some k => exact voiceBeat_withWaiting s l (running_voiceContext s hvoice) b.enables
  | statusWord w =>
    dsimp only
    rw [statusWord_withWaiting]
    rfl
  | _ => rfl

theorem accept_withWaiting (b : Beat) : (s.withWaiting l).accept b = (s.accept b).withWaiting l := by
  cases b with
  | write w =>
    rw [State.accept_write, State.accept_write, classify_withWaiting, trackFeeds_withWaiting, takeWrite_withWaiting,
      forwardBeat_withWaiting]
  | read r => rw [acceptRead_eq, acceptRead_eq, classify_withWaiting, takeRead_withWaiting]

end

/-! ### Beats held, and the front one accepted (R149) -/

theorem mustHold_full {w : WriteBeat} (hc : (s.classify w.address).command.isSome = true) (hfull : 32 ≤ s.intake.length) :
    s.mustHold (.write w) = true := by
  rw [mustHold_write, hc, decide_eq_true hfull]
  rfl

theorem mustHold_room {w : WriteBeat} (hroom : s.intake.length < 32) : s.mustHold (.write w) = false := by
  rw [mustHold_write, decide_eq_false (Nat.not_le.2 hroom), Bool.and_false]

/-- A beat that makes no entry is never held (R149). -/
theorem mustHold_noEntry (h : ∀ w, b = .write w → (s.classify w.address).command = none) : s.mustHold b = false := by
  cases b with
  | write w => rw [mustHold_write, h w rfl]; rfl
  | read r => rfl

section
variable (ha : s.path.resetAsserted = false)
include ha

/-- A beat presented that must be held, or finds a beat waiting, joins those waiting and does nothing else. -/
theorem exec_beat_waits (hp : presents i b) (h : s.path.waiting ≠ [] ∨ s.mustHold b = true) :
    ∃ t, exec i s = .next t ∧ t.path.waiting = s.path.waiting ++ [b] ∧ Changes [.waiting, .passCount] s t := by
  have hholds : s.present b = s.holdBeat b := by
    unfold State.present
    by_cases hw : s.path.waiting = []
    · rw [if_neg (by simp [hw]), if_pos (h.resolve_left fun hn => hn hw)]
    · rw [if_pos (by simp [hw])]
  have hexec := State.exec_beat hp ha
  rw [hholds] at hexec
  refine ⟨_, hexec, by simp, ?_⟩
  exact frame_settle (frame_holdBeat (.refl ..) _ (by simp)) (by simp)

variable {rest : List Beat} (hw : s.path.waiting = b :: rest)
include hw

theorem exec_heldCommandBeat : exec .heldCommandBeat s =
    .next (if s.mustHold b then s else (s.withWaiting rest).accept b).settle := by
  show execHeldCommandBeat s = _
  unfold execHeldCommandBeat
  rw [event_awake _ ha]
  simp only [hw]
  rfl

theorem exec_heldCommandBeat_accepts (hm : s.mustHold b = false) :
    exec .heldCommandBeat s = .next ((s.withWaiting rest).accept b).settle := by
  rw [exec_heldCommandBeat ha hw, hm]
  rfl

end

/-- Settles O29: by what the beat presented, or the front one waiting, finds. -/
theorem aFullIntakeHoldsTheBeat : Obligations.AFullIntakeHoldsTheBeat := by
  intro s ha
  refine ⟨fun i b hp hw => exec_beat_waits ha hp (.inl hw), fun i b hp hc hfull hw => ?held,
    fun b rest hw hc hfull => ?stays, fun b rest kind id flag hw hc hroom => ?enters, fun i b rest hp hw hnone => ?passes⟩
  case held =>
    have h := exec_beat_waits ha hp (.inr (mustHold_full hc hfull))
    rwa [hw] at h
  case stays =>
    have hexec := exec_heldCommandBeat ha hw
    rw [mustHold_full hc hfull] at hexec
    exact ⟨_, hexec, changes_settle s⟩
  case enters =>
    have hexec := exec_heldCommandBeat_accepts ha hw (mustHold_room hroom)
    have hv := changes_withWaiting s rest
    have hfeeds := changes_trackFeeds (s.withWaiting rest) b
    rw [State.accept_write, classify_withWaiting, State.takeWrite_command hc, makeEntry_eq,
      show ((s.withWaiting rest).trackFeeds b).staging = s.staging from hfeeds.keeps .staging (by decide)] at hexec
    have ⟨hintake, hpending, hforward, htracked, hframe⟩ :=
      entry_taken hfeeds (s.staging.entry (kind, id, flag) b) (.write b)
    refine ⟨_, _, hexec, hframe.keeps .waiting (by decide), hintake, entryMade_entry s kind id flag b,
      hpending.congr ⟨rfl, rfl, rfl⟩ ⟨rfl, rfl, rfl⟩, hforward, ?_, (hv.mono (by simp)).into hframe (by simp +contextual)⟩
    exact htracked.trans (by rw [trackFeeds_withWaiting, feeds_withWaiting])
  case passes =>
    have hm : s.mustHold b = false := mustHold_noEntry hnone
    have hexec := exec_heldCommandBeat_accepts ha hw hm
    have hpresented : exec i (s.withWaiting []) = .next ((s.withWaiting []).accept b).settle := by
      rw [State.exec_beat (s := s.withWaiting []) hp ha, State.present_accept (s := s.withWaiting []) rfl hm]
    refine ⟨_, hpresented, hexec.trans ?_⟩
    rw [accept_withWaiting, accept_withWaiting, settle_withWaiting, settle_withWaiting]
    rfl

end Sys2Proof.Machine
end

section
/-! SUPPORT. The Event Unit: EVENT_POP and SUMMARY_CLEAR, the four steps of a posting, the OFFER's reserved entry, and IRQ (10
R159 to R164). -/

namespace Sys2Proof.Machine

variable {s : State} {e : IntakeEntry}

/-! ### EVENT_POP and SUMMARY_CLEAR (R161 to R163) -/

theorem notLoading_eq_true {p : PartState} (h : p ≠ .loading) : notLoading p = true := by
  cases p with
  | loading => exact absurd rfl h
  | pass | active => rfl

/-- No queued event has sequence 0, so 0 names no head (R159, R162). -/
theorem headIs_iff {l : List EventRecord} {n : Nat} :
    headIs l n = true ↔ n ≠ 0 ∧ ∃ r, l.head? = some r ∧ r.sequence = n := by
  unfold headIs
  rw [Bool.and_eq_true, bne_iff_ne, Option.any_eq_true]
  simp only [beq_iff_eq]

theorem eventPopBody_dispatch (h : headIs s.events.dispatch e.argument = true) :
    eventPopBody e s =
      (.ok, { s with events := { s.events with
        dispatch := s.events.dispatch.tail, shown := s.events.unshow e.argument } }) := if_pos h

theorem eventPopBody_notice (hd : ¬ headIs s.events.dispatch e.argument = true)
    (hn : headIs s.events.notices e.argument = true) :
    eventPopBody e s =
      (.ok, { s with events := { s.events with
        notices := s.events.notices.tail, shown := s.events.unshow e.argument } }) :=
  (if_neg hd).trans (if_pos hn)

theorem eventPopBody_stale (hd : ¬ headIs s.events.dispatch e.argument = true)
    (hn : ¬ headIs s.events.notices e.argument = true) : eventPopBody e s = (.stale, s) :=
  (if_neg hd).trans (if_neg hn)

/-- A change of the Event Unit is judged by its six fields. -/
theorem changes_events {cs : List Component} {u : EventUnit}
    (h : ∀ k ∈ [.dispatch, .notices, .sequence, .summaries, .lost, .shown], k ∉ cs → k.agree s { s with events := u }) :
    Changes cs s { s with events := u } := by
  constructor
  intro k hk
  cases k
  case dispatch | notices | sequence | summaries | lost | shown => exact h _ (by decide) hk
  case loading => exact ⟨rfl, rfl, rfl, rfl, rfl⟩
  case proposal | library => exact ⟨rfl, rfl⟩
  all_goals rfl

/-- A part command that answers OK and changes the Event Unit alone. -/
theorem partCommand_events {code : Byte} {allowed : PartState → Bool} {body : IntakeEntry → State → ResultCode × State}
    {u : EventUnit} {cs : List Component} (h : Handed s e .part code) (ha : allowed s.part.state = true)
    (hb : body e s.dropOldest = (.ok, { s.dropOldest with events := u })) (hu : Changes cs s { s with events := u }) :
    ∃ t, partCommand code allowed (answering body) s = .next t ∧ t.events = u ∧ t.part.result = e.answer .ok ∧
      t.intake = s.intake.tail ∧ Changes (.intake :: cs ++ [.partResult, .passCount]) s t := by
  have hexec := partCommand_answering h ha body
  rw [hb] at hexec
  have htaken : Changes (.intake :: cs) s { s.dropOldest with events := u } :=
    (hu.mono (List.subset_cons_self ..)).into (changes_dropOldest { s with events := u }) (by simp)
  exact ⟨_, hexec, by simp, by simp, by simp, htaken.append (changes_answered ..)⟩

/-- Settles O25: EVENT_POP by which head its argument names, and SUMMARY_CLEAR. -/
theorem eventPopAndSummaryClear : Obligations.EventPopAndSummaryClear := by
  intro s e hp n
  have hallowed := notLoading_eq_true hp
  have hunnamed {l : List EventRecord} (h : ∀ x, l.head? = some x → x.sequence ≠ n) : ¬ headIs l n = true :=
    fun hhead => by
      obtain ⟨-, r, hr, hsequence⟩ := headIs_iff.1 hhead
      exact h r hr hsequence
  refine ⟨fun r rest h hq hr hn => ?dispatch, fun r rest h hd hq hr hn => ?notice, fun h hnone => ?stale, fun h => ?clear⟩
  case dispatch =>
    have hhead : headIs s.events.dispatch n = true := headIs_iff.2 ⟨hn, r, by rw [hq]; rfl, hr⟩
    have hbody := eventPopBody_dispatch (s := s.dropOldest) (e := e) hhead
    rw [show s.dropOldest.events.dispatch.tail = rest from congrArg List.tail hq] at hbody
    exact partCommand_events h hallowed hbody (changes_events (cs := [.dispatch, .shown]) (by simp [Component.agree]))
  case notice =>
    have hhead : headIs s.events.notices n = true := headIs_iff.2 ⟨hn, r, by rw [hq]; rfl, hr⟩
    have hbody := eventPopBody_notice (s := s.dropOldest) (e := e) (hunnamed hd) hhead
    rw [show s.dropOldest.events.notices.tail = rest from congrArg List.tail hq] at hbody
    exact partCommand_events h hallowed hbody (changes_events (cs := [.notices, .shown]) (by simp [Component.agree]))
  case stale =>
    have hzero (h0 : n = 0) (l : List EventRecord) : ¬ headIs l n = true := fun hhead => (headIs_iff.1 hhead).1 h0
    obtain ⟨hd, hn⟩ : ¬ headIs s.events.dispatch n = true ∧ ¬ headIs s.events.notices n = true := by
      rcases hnone with h0 | ⟨hd, hn⟩
      · exact ⟨hzero h0 _, hzero h0 _⟩
      · exact ⟨hunnamed hd, hunnamed hn⟩
    exact partCommand_refused h hallowed (eventPopBody_stale hd hn)
  case clear =>
    exact partCommand_events (body := summaryClearBody) h hallowed rfl
      (changes_events (cs := [.summaries, .lost]) (by simp [Component.agree]))

/-! ### A posting in its four steps (R159) -/

theorem Summaries.set_eq (v : Summaries) (cls : EventClass) :
    v.set cls =
      { dispatch := v.dispatch || decide (cls = .dispatch), call := v.call || decide (cls = .call)
        agent := v.agent || decide (cls = .agent), queue := v.queue || decide (cls = .queue)
        playout := v.playout || decide (cls = .playout), supervision := v.supervision || decide (cls = .supervision) } := by
  cases cls <;> simp [Summaries.set]

/-- DISPATCH has no enable; each notice class has its bit (R159, R167). -/
theorem classEnabled_iff (enables : Byte) (cls : EventClass) :
    classEnabled enables cls = true ↔
      cls = .dispatch ∨ cls = .call ∧ enables.getLsbD 1 = true ∨ cls = .agent ∧ enables.getLsbD 2 = true ∨
        cls = .queue ∧ enables.getLsbD 3 = true ∨ cls = .playout ∧ enables.getLsbD 4 = true ∨
        cls = .supervision ∧ enables.getLsbD 5 = true := by
  cases cls <;> simp [classEnabled]

/-- The reservation takes one entry of the dispatch queue (R69, R159). -/
theorem eventRoom_iff (s : State) (cls : EventClass) :
    s.eventRoom cls = true ↔
      if cls = .dispatch then s.events.dispatch.length + (if s.engine.reserved = true then 1 else 0) < 128
      else s.events.notices.length < 256 := by
  cases cls with
  | dispatch =>
    rw [if_pos rfl, show (if s.engine.reserved = true then 1 else 0) = s.engine.reserved.toNat by
      cases s.engine.reserved <;> rfl]
    exact decide_eq_true_iff
  | call | agent | queue | playout | supervision =>
    rw [if_neg (by decide)]
    exact decide_eq_true_iff

theorem nextSequence_eq {n : Nat} (h : n ≤ 65535) : nextSequence n = if n = 65535 then 1 else n + 1 := by
  unfold nextSequence
  split <;> split <;> omega

namespace EventUnit

variable (u : EventUnit) {r : EventRecord}

theorem append_dispatch (h : r.cls = .dispatch) :
    u.append r =
      { u with
        sequence := nextSequence u.sequence
        dispatch := u.dispatch ++ [{ r with sequence := nextSequence u.sequence }] } := by
  unfold append
  simp only [h]

theorem append_notice (h : r.cls ≠ .dispatch) :
    u.append r =
      { u with
        sequence := nextSequence u.sequence
        notices := u.notices ++ [{ r with sequence := nextSequence u.sequence }] } := by
  unfold append
  cases hcls : r.cls with
  | dispatch => exact absurd hcls h
  | call | agent | queue | playout | supervision => rfl

end EventUnit

namespace State

variable {cls : EventClass} {kind : EventKind} {call agent target : Option Nat} {detail : Nat}

theorem events_post_disabled (h : classEnabled s.part.config.enables cls = false) :
    (s.post cls kind call agent target detail).events =
      { s.events with summaries := s.events.summaries.set cls } := by
  unfold post
  simp only [h, if_true]

section
variable (h : classEnabled s.part.config.enables cls = true)
include h

theorem events_post_full (hr : s.eventRoom cls = false) :
    (s.post cls kind call agent target detail).events =
      { s.events with summaries := s.events.summaries.set cls, lost := true } := by
  unfold post
  simp only [h, hr, Bool.true_eq_false, if_false, if_true]

theorem events_post_room (hr : s.eventRoom cls = true) :
    (s.post cls kind call agent target detail).events =
      { s.events with summaries := s.events.summaries.set cls }.append
        { sequence := 0, cls := cls, kind := kind, call := call, agent := agent, target := target, detail := detail
          tick := s.tick } := by
  unfold post
  simp only [h, hr, Bool.true_eq_false, if_false]

end

/-- An OFFER takes the entry reserved for it, with no question of enable or room (R69, R159). -/
theorem events_postOffer (c a q n : Nat) :
    (s.postOffer c a q n).events =
      { s.events with summaries := s.events.summaries.set .dispatch }.append
        { sequence := 0, cls := .dispatch, kind := .offer, call := some c, agent := some a, target := some q
          detail := n, tick := s.tick } := rfl

theorem irq_iff (s : State) :
    s.irq = true ↔ s.path.resetAsserted = false ∧ (s.events.dispatch ≠ [] ∨ s.events.notices ≠ []) := by
  unfold irq
  simp

end State

/-- Settles O55: a posting by its enable, the room and the class; the OFFER as the append it is; IRQ by its definition. -/
theorem postingSummarisesAndQueues : Obligations.PostingSummarisesAndQueues := by
  intro s cls kind call agent target detail hsequence v summaries n r bit enabled room t
  have hset : s.events.summaries.set cls = summaries := Summaries.set_eq _ cls
  have hnext : nextSequence s.events.sequence = n := nextSequence_eq hsequence
  have henabled : classEnabled s.part.config.enables cls = true ↔ enabled := classEnabled_iff _ cls
  have hroom : s.eventRoom cls = true ↔ room := eventRoom_iff s cls
  refine ⟨fun hoff => ?disabled, fun hon hfull => ?full, fun hon hfree hcls => ?dispatch, fun hon hfree hcls => ?notice,
    changes_post .., fun c a q hcls hkind hcall hagent htarget => ?offer, s.irq_iff⟩
  case disabled =>
    rw [← hset]
    exact State.events_post_disabled (Bool.eq_false_iff.2 (mt henabled.1 hoff))
  case full =>
    rw [← hset]
    exact State.events_post_full (henabled.2 hon) (Bool.eq_false_iff.2 (mt hroom.1 hfull))
  case dispatch =>
    rw [← hset, State.events_post_room (henabled.2 hon) (hroom.2 hfree), EventUnit.append_dispatch _ hcls, hnext]
    rfl
  case notice =>
    rw [← hset, State.events_post_room (henabled.2 hon) (hroom.2 hfree), EventUnit.append_notice _ hcls, hnext]
    rfl
  case offer =>
    subst hcls hkind hcall hagent htarget
    rw [← hset, State.events_postOffer, EventUnit.append_dispatch _ rfl, hnext]
    rfl

end Sys2Proof.Machine
end
